-- ==== Sys2Proof/Word.lean ====
section
/-! DEFINITION. The word types and the sparse table every layer uses. -/

namespace Sys2Proof

/-- A 32-bit register value (R13, R14). -/
abbrev Word := BitVec 32
/-- A 64-bit value, such as a pair of registers or a PC (R13). -/
abbrev DWord := BitVec 64
/-- One byte of memory (R4). -/
abbrev Byte := BitVec 8

/-- A sparse table: keys with their values; a key not listed has the reader's default. -/
abbrev Tab (α : Type) := List (Nat × α)

/-- The entry of `k`, if the table lists one. -/
def Tab.find {α : Type} : Tab α → Nat → Option α
  | [], _ => none
  | (a, x) :: r, k => if a = k then some x else Tab.find r k

/-- The entry of `k`, or the default `d`. -/
def Tab.getD {α : Type} (t : Tab α) (k : Nat) (d : α) : α := (Tab.find t k).getD d

/-- Sets the entry of `k`, keeping a rising table rising. -/
def Tab.set {α : Type} : Tab α → Nat → α → Tab α
  | [], k, v => [(k, v)]
  | (a, x) :: r, k, v =>
    if a = k then (k, v) :: r
    else if k < a then (k, v) :: (a, x) :: r
    else (a, x) :: Tab.set r k v

/-- Removes every entry of `k`. -/
def Tab.erase {α : Type} (t : Tab α) (k : Nat) : Tab α := t.filter (fun e => e.1 != k)

/-- The field `[hi:lo]` of a number (R2). -/
def bits (w hi lo : Nat) : Nat := (w >>> lo) % 2 ^ (hi + 1 - lo)

/-- Bit `n` of a number (R2). -/
def bit (w n : Nat) : Bool := w.testBit n

end Sys2Proof
end

