-- ==== Sys2Proof/Config.lean ====
section
/-! DEFINITION. What the model leaves free: constants with no body, so that no proof can depend on their values. -/

namespace Sys2Proof.Config

open Sys2Proof

/-- A fresh free value: the model's counter `freeCount` selects one (log entries 3 and 6). -/
opaque freeValue : Nat → Nat

/-- The FP32 code the device gives for an approximated function, by opcode and operand code (R121): the model takes it where it
lies within the stated bound (log entry 4). -/
opaque approxChoice : Nat → Nat → Nat

/-- The L2 slice that a die's line, by bits 37 to 8 of its address, has its home at (R402): a hash that is not architectural. -/
opaque homeSlice : Nat → Nat

/-- The contents of the boot ROM, and the fuse configuration as bytes, of the digest of the vendor key and the least version (R428, R429): the
spec gives neither (log entry 5). -/
opaque bootRom : List Byte
opaque fuseImage : List Byte → Nat → List Byte

/-- SHA-256 (R428, R429): an uninterpreted function of the bytes (log entry 5). -/
opaque sha256 : List Byte → List Byte

/-- LMS verification of an image against a signature and a key (R428): uninterpreted (log entry 5). -/
opaque lmsVerify : List Byte → List Byte → List Byte → Bool

/-- The LMS signature an identity gives at a leaf (R429): uninterpreted (log entry 5). -/
opaque lmsSign : Nat → Nat → List Byte → List Byte

/-- AES-256-GCM sealing under a key, IV and additional data (R449): ciphertext and tag, uninterpreted (log entry 5). -/
opaque gcmSeal : Nat → Nat → Nat → List Byte → List Byte × Nat

/-- AES-256-GCM opening (R449): the plaintext where the tag authenticates, uninterpreted (log entry 5). -/
opaque gcmOpen : Nat → Nat → Nat → List Byte → Nat → Option (List Byte)

/-- The Treadle's choice among the tuples that remain, outside deterministic mode (R336): free (log entry 6). -/
opaque treadleChoice : Nat → Nat

end Sys2Proof.Config
end

