-- ==== Sys2Proof/Forms.lean ====
section
/-! DEFINITION. The operand forms of R65 to R76 and the data an operation or event of the table carries. -/

namespace Sys2Proof

/-- C form (R65): `vd := vd op b`; `b` is a register or, in the constructors that say so, imm5. -/
structure CForm where
  d : BitVec 5
  b : BitVec 5
  deriving DecidableEq, Repr

/-- R form (R67). `m` is m2: bit 1 is S, bit 0 is ALT. -/
structure RForm where
  d : BitVec 7
  a : BitVec 7
  b : BitVec 7
  m : BitVec 2
  deriving DecidableEq, Repr

/-- I form (R69). -/
structure IForm where
  d : BitVec 7
  a : BitVec 7
  imm : BitVec 9
  deriving DecidableEq, Repr

/-- B form (R70). `n` negates the guard `p`. -/
structure BForm where
  p : BitVec 3
  n : Bool
  off : BitVec 19
  deriving DecidableEq, Repr

/-- J form (R71). -/
structure JForm where
  j : BitVec 4
  a : BitVec 7
  p : BitVec 3
  n : Bool
  deriving DecidableEq, Repr

/-- X form (R73 to R78). -/
structure XForm where
  d : BitVec 8
  a : BitVec 8
  b : BitVec 8
  c : BitVec 8
  p : BitVec 3
  pn : Bool
  wm : BitVec 8
  ss : BitVec 3
  se : Bool
  fs : BitVec 3
  md : BitVec 4
  deriving DecidableEq, Repr

/-- X-I form (R76), used by MOVI alone. -/
structure XIForm where
  d : BitVec 8
  p : BitVec 3
  pn : Bool
  md : BitVec 7
  imm : BitVec 32
  deriving DecidableEq, Repr

/-- A lane of a resident team: the team's key in the state, home group and lane id (R29). -/
structure LaneRef where
  team : Nat
  g : Nat
  l : Nat
  deriving DecidableEq, Repr

/-- What a fabric request asks of its target (R435, R436, R443). -/
inductive PacketKind where
  | read (len : Nat)
  | write
  | atomic (op width operand : Nat)
  | cas (width expected new : Nat)
  /-- A barrier, CHAIN or queue operation on an object at the target's home, by op7 and its operands (R243, R247, R261, R436). -/
  | object (op7 : Nat) (args : List Nat)
  deriving DecidableEq, Repr

/-- A fabric request arriving at this device (R443 to R445). `count` is COUNT of a release write; `sentAt` is the time of its admission, in
hundredths of a nanosecond, from which its bound counts (R446); `after` lists the stores of its stream to the same bytes that the sender
had admitted before it and not settled, each by its sequence number and its admission, by which a target knows which it must wait for. -/
structure Packet where
  src : Nat
  logical : Nat
  cls : Nat
  seq : Nat
  sentAt : Nat
  after : List (Nat × Nat)
  epoch : Nat
  count : Option Nat
  kind : PacketKind
  offset : Nat
  data : List Byte
  deriving DecidableEq, Repr

/-- A contribution or partial sum of a collective (R462). Data are FP32 codes, or RES63 codes. `hops` is the
remaining list of R459. -/
structure Contribution where
  group : Nat
  step : Nat
  src : Nat
  isPartial : Bool
  n : Nat
  wsum : Nat
  data : List Nat
  det : Bool
  hops : List Nat
  deriving DecidableEq, Repr

/-- A closed result with its completion word, on its way along the rest of a route (R461, R467). -/
structure ResultPacket where
  group : Nat
  step : Nat
  word : Nat
  data : List Nat
  hops : List Nat
  deriving DecidableEq, Repr

/-- What a FWD hop sends on: a contribution or partial sum on its way to a reduction, or a result on its way to delivery (R460, R461). -/
inductive Parcel where
  | sum (c : Contribution)
  | result (r : ResultPacket)
  deriving DecidableEq, Repr

/-- A send-queue message (R454, R482). `team` is the posting team, `endpoint` the address its packets carry once it is sent (R438, R487). -/
structure Message where
  queue : Nat
  team : Nat
  endpoint : Nat := 0
  dst : Nat
  notify : Nat
  bytes : List Byte
  deriving DecidableEq, Repr

/-- A sealed flit (R449) as received; `crcOk` is the link CRC's verdict (R452). -/
structure Flit where
  peer : Nat
  hdr : Nat
  body : List Byte
  tag : Nat
  crcOk : Bool
  deriving DecidableEq, Repr

/-- A firmware image presented to a boot ROM (R428). -/
structure BootImage where
  image : List Byte
  signature : List Byte
  key : List Byte
  version : BitVec 32
  deriving DecidableEq, Repr

/-- What the peer of a port offers at link training (R435): the standard, the data rate in Gb/s, the transport service (0 for RUD), the lanes,
which port of its group it is, and what else it asks for: the standard's own security, in-network offload, and a part of IEEE 1588 other
than a two-step, end-to-end ordinary clock. -/
structure LinkOffer where
  ethernet : Bool
  rate : Nat
  service : Nat
  lanes : Nat
  part : Nat := 0
  security : Bool := false
  offload : Bool := false
  otherClock : Bool := false
  deriving DecidableEq, Repr

/-- A host access to a queue window (R279): a read of some bytes, or a write. -/
inductive WindowAccess where
  | load (len : Nat)
  | store (bytes : List Byte)
  deriving DecidableEq, Repr

/-- SET_COHORT (R475). Times are in µs, with the defaults of R473. -/
structure CohortCfg where
  ident : Nat
  own : Nat
  size : Nat
  lead : Nat
  tLate : Nat := 100
  tSilent : Nat := 2000
  step : Nat
  deriving DecidableEq, Repr

/-- One change of a ROSTER request (R475). -/
structure RosterChange where
  index : Nat
  add : Bool
  arr : Bool
  step : Nat
  deriving DecidableEq, Repr

end Sys2Proof
end

