-- ==== Sys2Proof/Syntax.lean ====
section
/-! DEFINITION. The instruction type: one constructor for each row of spec/opcode_table.json. The first 227 are the
encoded instructions (R65, R82, R83); the others are the operations and events the table lists, which no word encodes. -/

namespace Sys2Proof

/-- One constructor per row of the opcode table, in its order. -/
inductive Instr where
  /-- C_MOV (R65). Compact form: copies vb into vd for v0 to v31. -/
  | cMov (f : CForm)
  /-- C_MOV_IMM (R65). Compact form: writes the sign-extended 5-bit immediate into vd. -/
  | cMovImm (f : CForm)
  /-- C_ADD (R65). Compact two-address add, vd := vd + vb. -/
  | cAdd (f : CForm)
  /-- C_ADD_IMM (R65). Compact add of a sign-extended 5-bit immediate. -/
  | cAddImm (f : CForm)
  /-- C_SUB (R65). Compact two-address subtract, vd := vd - vb. -/
  | cSub (f : CForm)
  /-- C_SUB_IMM (R113). Compact subtract of a sign-extended immediate, used for ADDI by 16. -/
  | cSubImm (f : CForm)
  /-- C_MUL (R65). Compact two-address multiply, low 32 bits. -/
  | cMul (f : CForm)
  /-- C_MUL_IMM (R65). Compact multiply by a sign-extended immediate. -/
  | cMulImm (f : CForm)
  /-- C_AND (R65). Compact bitwise AND. -/
  | cAnd (f : CForm)
  /-- C_AND_IMM (R65). Compact bitwise AND with an immediate. -/
  | cAndImm (f : CForm)
  /-- C_OR (R65). Compact bitwise OR. -/
  | cOr (f : CForm)
  /-- C_OR_IMM (R65). Compact bitwise OR with an immediate. -/
  | cOrImm (f : CForm)
  /-- C_XOR (R65). Compact bitwise XOR. -/
  | cXor (f : CForm)
  /-- C_XOR_IMM (R65). Compact bitwise XOR with an immediate. -/
  | cXorImm (f : CForm)
  /-- C_SHL (R65). Compact left shift by a register count. -/
  | cShl (f : CForm)
  /-- C_SHL_IMM (R65). Compact left shift by an unsigned 5-bit count. -/
  | cShlImm (f : CForm)
  /-- C_SHRL (R65). Compact logical right shift by a register count. -/
  | cShrl (f : CForm)
  /-- C_SHRL_IMM (R65). Compact logical right shift by an unsigned 5-bit count. -/
  | cShrlImm (f : CForm)
  /-- C_SHRA (R65). Compact arithmetic right shift by a register count. -/
  | cShra (f : CForm)
  /-- C_SHRA_IMM (R65). Compact arithmetic right shift by an unsigned 5-bit count. -/
  | cShraImm (f : CForm)
  /-- C_FADD (R65). Compact FP32 add. -/
  | cFadd (f : CForm)
  /-- C_FSUB (R65). Compact FP32 subtract. -/
  | cFsub (f : CForm)
  /-- C_FMUL (R65). Compact FP32 multiply. -/
  | cFmul (f : CForm)
  /-- C_FMAX (R65). Compact FP32 maximumNumber. -/
  | cFmax (f : CForm)
  /-- C_FMIN (R65). Compact FP32 minimumNumber. -/
  | cFmin (f : CForm)
  /-- NOP (R66). Compact SYS selector 0: no effect. -/
  | nop
  /-- C_EXIT (R66). Compact SYS selector 1: ends the lane as EXIT. -/
  | cExit
  /-- C_YIELD (R66). Compact SYS selector 2: resets the issuing lanes' age as YIELD. -/
  | cYield
  /-- WAITALL (R66). Compact SYS selector 3: waits on all eight scoreboard slots. -/
  | waitAll
  /-- ADD (R97). 32-bit add modulo 2^32. -/
  | add (f : RForm)
  /-- SUB (R97). 32-bit subtract modulo 2^32. -/
  | sub (f : RForm)
  /-- MUL (R97). Low 32 bits of the product. -/
  | mul (f : RForm)
  /-- MULHI (R97). High 32 bits of the signed product. -/
  | mulhi (f : RForm)
  /-- MULHIU (R97). High 32 bits of the unsigned product. -/
  | mulhiu (f : RForm)
  /-- AND (R97). Bitwise AND. -/
  | and (f : RForm)
  /-- OR (R97). Bitwise OR. -/
  | or (f : RForm)
  /-- XOR (R97). Bitwise XOR. -/
  | xor (f : RForm)
  /-- ANDN (R97). a AND NOT b. -/
  | andn (f : RForm)
  /-- ORN (R97). a OR NOT b. -/
  | orn (f : RForm)
  /-- SHL (R98). Left shift by the full 32-bit count. -/
  | shl (f : RForm)
  /-- SHRL (R98). Logical right shift by the full 32-bit count. -/
  | shrl (f : RForm)
  /-- SHRA (R98). Arithmetic right shift with sign fill. -/
  | shra (f : RForm)
  /-- ROTL (R98). Rotate left by the count modulo 32. -/
  | rotl (f : RForm)
  /-- ROTR (R98). Rotate right by the count modulo 32. -/
  | rotr (f : RForm)
  /-- MIN (R97). Signed minimum. -/
  | min (f : RForm)
  /-- MAX (R97). Signed maximum. -/
  | max (f : RForm)
  /-- MINU (R97). Unsigned minimum. -/
  | minu (f : RForm)
  /-- MAXU (R97). Unsigned maximum. -/
  | maxu (f : RForm)
  /-- ABS (R99). Absolute value modulo 2^32. -/
  | abs (f : RForm)
  /-- ADDSAT (R97). Signed saturating add. -/
  | addsat (f : RForm)
  /-- SUBSAT (R97). Signed saturating subtract. -/
  | subsat (f : RForm)
  /-- POPC (R99). Counts 1 bits. -/
  | popc (f : RForm)
  /-- CLZ (R99). Counts leading zero bits. -/
  | clz (f : RForm)
  /-- CTZ (R99). Counts trailing zero bits. -/
  | ctz (f : RForm)
  /-- BREV (R99). Reverses the bit order. -/
  | brev (f : RForm)
  /-- BFX (R100). Extracts a bit field, optionally sign-extended. -/
  | bfx (f : RForm)
  /-- BFI (R100). Inserts a bit field into d. -/
  | bfi (f : RForm)
  /-- PERMB (R101). Builds each byte of d from bytes of a and old d. -/
  | permb (f : RForm)
  /-- LEA (R103). Adds an offset to an address within its own space. -/
  | lea (f : RForm)
  /-- ADD64 (R103). 64-bit add of register pairs. -/
  | add64 (f : RForm)
  /-- SUB64 (R103). 64-bit subtract of register pairs. -/
  | sub64 (f : RForm)
  /-- SEL (R105). Writes b into d where the named predicate holds. -/
  | sel (f : RForm)
  /-- MOV (R104). Copies a v or s value into a v or s register. -/
  | mov (f : RForm)
  /-- CMPEQ (R106). Writes a predicate: equal. -/
  | cmpeq (f : RForm)
  /-- CMPNE (R106). Writes a predicate: not equal. -/
  | cmpne (f : RForm)
  /-- CMPLT (R106). Writes a predicate: signed less than. -/
  | cmplt (f : RForm)
  /-- CMPLE (R106). Writes a predicate: signed less or equal. -/
  | cmple (f : RForm)
  /-- CMPLTU (R106). Writes a predicate: unsigned less than. -/
  | cmpltu (f : RForm)
  /-- CMPLEU (R106). Writes a predicate: unsigned less or equal. -/
  | cmpleu (f : RForm)
  /-- PAND (R107). Predicate AND. -/
  | pand (f : RForm)
  /-- POR (R107). Predicate OR. -/
  | por (f : RForm)
  /-- PXOR (R107). Predicate XOR. -/
  | pxor (f : RForm)
  /-- PNOT (R107). Predicate NOT. -/
  | pnot (f : RForm)
  /-- P2V (R108). Packs p0 to p7 into a v-register. -/
  | p2v (f : RForm)
  /-- V2P (R108). Sets p1 to p7 from bits of a v-register. -/
  | v2p (f : RForm)
  /-- SRD (R109). Reads a special register. -/
  | srd (f : RForm)
  /-- SWR (R110). Writes %dphase, %terr or %qseed. -/
  | swr (f : RForm)
  /-- ADDI (R102). Adds a sign-extended 9-bit immediate. -/
  | addi (f : IForm)
  /-- MULI (R102). Multiplies by a sign-extended immediate. -/
  | muli (f : IForm)
  /-- ANDI (R102). AND with a sign-extended immediate. -/
  | andi (f : IForm)
  /-- ORI (R102). OR with a sign-extended immediate. -/
  | ori (f : IForm)
  /-- XORI (R102). XOR with a sign-extended immediate. -/
  | xori (f : IForm)
  /-- SHLI (R102). Left shift by an immediate count. -/
  | shli (f : IForm)
  /-- SHRLI (R102). Logical right shift by an immediate count. -/
  | shrli (f : IForm)
  /-- SHRAI (R102). Arithmetic right shift by an immediate count. -/
  | shrai (f : IForm)
  /-- ROTLI (R102). Rotate left by an immediate count. -/
  | rotli (f : IForm)
  /-- MINI (R102). Signed minimum with an immediate. -/
  | mini (f : IForm)
  /-- MAXI (R102). Signed maximum with an immediate. -/
  | maxi (f : IForm)
  /-- CMPEQI (R102). Predicate: equal to an immediate. -/
  | cmpeqi (f : IForm)
  /-- CMPNEI (R102). Predicate: not equal to an immediate. -/
  | cmpnei (f : IForm)
  /-- CMPLTI (R102). Predicate: signed less than an immediate. -/
  | cmplti (f : IForm)
  /-- CMPLEI (R102). Predicate: signed less or equal to an immediate. -/
  | cmplei (f : IForm)
  /-- CMPLTUI (R102). Predicate: unsigned less than a zero-extended immediate. -/
  | cmpltui (f : IForm)
  /-- FADD (R117). FP32 add under RNE. -/
  | fadd (f : RForm)
  /-- FSUB (R117). FP32 subtract under RNE. -/
  | fsub (f : RForm)
  /-- FMUL (R117). FP32 multiply under RNE. -/
  | fmul (f : RForm)
  /-- FMAC (R118). Fused FP32 multiply-accumulate into d. -/
  | fmac (f : RForm)
  /-- FMIN (R117). FP32 minimumNumber. -/
  | fmin (f : RForm)
  /-- FMAX (R117). FP32 maximumNumber. -/
  | fmax (f : RForm)
  /-- FABS (R119). Clears the sign bit. -/
  | fabs (f : RForm)
  /-- FNEG (R119). Inverts the sign bit. -/
  | fneg (f : RForm)
  /-- FCMPEQ (R123). Predicate: FP32 equal. -/
  | fcmpeq (f : RForm)
  /-- FCMPNE (R123). Predicate: FP32 not equal. -/
  | fcmpne (f : RForm)
  /-- FCMPLT (R123). Predicate: FP32 less than. -/
  | fcmplt (f : RForm)
  /-- FCMPLE (R123). Predicate: FP32 less or equal. -/
  | fcmple (f : RForm)
  /-- FCMPUN (R123). Predicate: unordered. -/
  | fcmpun (f : RForm)
  /-- FRCP (R121). Approximate reciprocal. -/
  | frcp (f : RForm)
  /-- FRSQ (R121). Approximate reciprocal square root. -/
  | frsq (f : RForm)
  /-- FSQRT (R119). Correctly rounded square root. -/
  | fsqrt (f : RForm)
  /-- FDIV (R117). Correctly rounded FP32 divide. -/
  | fdiv (f : RForm)
  /-- FEXP2 (R121). Approximate 2^a. -/
  | fexp2 (f : RForm)
  /-- FLOG2 (R121). Approximate log2 a. -/
  | flog2 (f : RForm)
  /-- FSIN (R121). Approximate sine. -/
  | fsin (f : RForm)
  /-- FCOS (R121). Approximate cosine. -/
  | fcos (f : RForm)
  /-- FTANH (R121). Approximate hyperbolic tangent. -/
  | ftanh (f : RForm)
  /-- FFLOOR (R119). Largest integral value not above a. -/
  | ffloor (f : RForm)
  /-- FCEIL (R119). Smallest integral value not below a. -/
  | fceil (f : RForm)
  /-- FRINT (R119). Nearest integral value, ties to even. -/
  | frint (f : RForm)
  /-- FTRUNC (R119). Integral value toward zero. -/
  | ftrunc (f : RForm)
  /-- FSCALE (R117). Multiplies by 2 to an INT32 power. -/
  | fscale (f : RForm)
  /-- FGETEXP (R119). Returns the unbiased exponent as INT32. -/
  | fgetexp (f : RForm)
  /-- FCLASS (R120). Returns a one-hot class mask. -/
  | fclass (f : RForm)
  /-- HADD2 (R124). Packed FP16 or BF16 add of two elements. -/
  | hadd2 (f : RForm)
  /-- HMUL2 (R124). Packed FP16 or BF16 multiply. -/
  | hmul2 (f : RForm)
  /-- HMAC2 (R124). Packed FP16 or BF16 fused multiply-accumulate. -/
  | hmac2 (f : RForm)
  /-- BRA (R140). Guarded PC-relative branch per lane. -/
  | bra (f : BForm)
  /-- BRX (R141). Branch to a per-lane 64-bit register target. -/
  | brx (f : RForm)
  /-- CALL (R140). Guarded PC-relative call writing the link into v6:v7. -/
  | call (f : BForm)
  /-- CALLX (R141). Call to a register target writing the link pair. -/
  | callx (f : RForm)
  /-- RET (R141). Returns to the address in a link pair. -/
  | ret (f : RForm)
  /-- JMSET (R148). Sets a join mask from an s-register or predicate. -/
  | jmset (f : JForm)
  /-- JMGET (R148). Reads a join mask into an s-register. -/
  | jmget (f : JForm)
  /-- JOIN (R149). Arrives at a join register and waits for its release. -/
  | join (f : JForm)
  /-- LEAVE (R149). Removes the lane from a join mask. -/
  | leave (f : JForm)
  /-- WAITJ (R149). Waits for the next release of a join without arriving. -/
  | waitj (f : JForm)
  /-- REFORM (R154). Files the thread in a reform bin keyed by team and PC. -/
  | reform
  /-- HOME (R155). Returns an away thread to its home group. -/
  | home
  /-- YIELD (R143). Resets the issuing lanes' age. -/
  | yield
  /-- EXIT (R142). Ends the lane and re-evaluates joins naming it. -/
  | exit
  /-- WAIT (R144). Waits until the masked scoreboard slots are zero. -/
  | wait (f : IForm)
  /-- TRAP (R145). Raises USER_TRAP with a code in every issuing lane. -/
  | trap (f : IForm)
  /-- SHFLI (R160). Reads a from an indexed lane. -/
  | shfli (f : RForm)
  /-- SHFLU (R160). Reads a from a lower lane. -/
  | shflu (f : RForm)
  /-- SHFLD (R160). Reads a from a higher lane. -/
  | shfld (f : RForm)
  /-- SHFLX (R160). Reads a from the XOR partner lane. -/
  | shflx (f : RForm)
  /-- VOTEALL (R161). 1 if a is non-zero in every contributor. -/
  | voteall (f : RForm)
  /-- VOTEANY (R161). 1 if a is non-zero in some contributor. -/
  | voteany (f : RForm)
  /-- BALLOT (R161). Mask of contributors with non-zero a. -/
  | ballot (f : RForm)
  /-- LRED (R162). Reduces a over contributors in lane order. -/
  | lred (f : RForm)
  /-- LSCAN (R162). Inclusive or exclusive scan over contributors in lane order. -/
  | lscan (f : RForm)
  /-- QXH (R163). Horizontal exchange within a quad. -/
  | qxh (f : RForm)
  /-- QXV (R163). Vertical exchange within a quad. -/
  | qxv (f : RForm)
  /-- QXD (R163). Diagonal exchange within a quad. -/
  | qxd (f : RForm)
  /-- QBC (R163). Broadcasts one quad lane's value to the quad. -/
  | qbc (f : RForm)
  /-- ELECT (R161). 1 in the first contributor, 0 elsewhere. -/
  | elect (f : RForm)
  /-- DP4A (R111). Accumulates a four-way signed byte dot product. -/
  | dp4a (f : RForm)
  /-- RADD (R112). Adds or subtracts RES63 values channel by channel. -/
  | radd (f : RForm)
  /-- LD (R209). Loads from a global or fabric-window address. -/
  | ld (x : XForm)
  /-- ST (R209). Stores to a global or fabric-window address. -/
  | st (x : XForm)
  /-- LDL (R210). Loads from local memory. -/
  | ldl (x : XForm)
  /-- STL (R210). Stores to local memory. -/
  | stl (x : XForm)
  /-- LDV (R213). Reads a versioned page under a floor, holding the lane until met or timed out. -/
  | ldv (x : XForm)
  /-- VPIN (R215). Adds 1 to the team's pin count of each named versioned page. -/
  | vpin (x : XForm)
  /-- VUNPIN (R215). Subtracts 1 from the team's pin count of each named page. -/
  | vunpin (x : XForm)
  /-- PF (R211). Prefetches the named sectors into L2 and L1. -/
  | pf (x : XForm)
  /-- SMAP (R219). Maps a local range onto a global range as a stash. -/
  | smap (x : XForm)
  /-- SUNMAP (R219). Writes back and removes a stash mapping. -/
  | sunmap (x : XForm)
  /-- SFLUSH (R219). Writes back DIRTY stash sectors in a range. -/
  | sflush (x : XForm)
  /-- SINV (R219). Invalidates stash sectors in a range, discarding DIRTY data. -/
  | sinv (x : XForm)
  /-- ACP16 (R226). Copies 16 bytes per lane into a tile through L1. -/
  | acp16 (x : XForm)
  /-- ACPS16 (R226). Copies 16 bytes per lane into a tile from the L2 home. -/
  | acps16 (x : XForm)
  /-- TALLOC (R222). Allocates the lowest free tile-table entry. -/
  | talloc (x : XForm)
  /-- TFREE (R223). Frees a tile entry once no work on it remains. -/
  | tfree (x : XForm)
  /-- TWAIT (R224). Holds the lane until the masked chunk bits are set. -/
  | twait (x : XForm)
  /-- TSTATE (R225). Returns a tile entry summary. -/
  | tstate (x : XForm)
  /-- FENCE (R228). Orders the lane's own accesses at a scope. -/
  | fence (x : XForm)
  /-- FENCEX (R229). Orders accesses across two access paths. -/
  | fencex (x : XForm)
  /-- MOVI (R126). Writes a 32-bit immediate, optionally extended to a pair. -/
  | movi (x : XIForm)
  /-- CVT (R128). Converts one value per lane between slot formats. -/
  | cvt (x : XForm)
  /-- CVTPK (R129). Converts two values and shifts them into d from the top. -/
  | cvtpk (x : XForm)
  /-- CVTQ (R130). Quantises one MX block across the issuing subset. -/
  | cvtq (x : XForm)
  /-- DPH (R131). Reads or sets the team's dither phase. -/
  | dph (x : XForm)
  /-- FMA (R125). Fused multiply-add rounded into a slot's format. -/
  | fma (x : XForm)
  /-- ATOM (R234). Read-modify-write at the L2 home returning the old value. -/
  | atom (x : XForm)
  /-- UPD (R236). Update-only atomic merged into an L1 update-only copy. -/
  | upd (x : XForm)
  /-- CAS (R235). Compare-and-swap of bit patterns. -/
  | cas (x : XForm)
  /-- CHAIN (R244). Ordered cross-team combination into a chain object. -/
  | chain (x : XForm)
  /-- BINIT (R249). Initialises a barrier object. -/
  | binit (x : XForm)
  /-- BARR (R250). Arrives at a barrier object. -/
  | barr (x : XForm)
  /-- BWAIT (R251). Waits for a barrier phase. -/
  | bwait (x : XForm)
  /-- BARW (R252). Arrives at a barrier and waits for the phase to complete. -/
  | barw (x : XForm)
  /-- BTESTP (R253). Tests a barrier phase parity without waiting. -/
  | btestp (x : XForm)
  /-- BDROP (R254). Withdraws participants from a barrier object. -/
  | bdrop (x : XForm)
  /-- TBAR (R256). Arrives at the team's hardware barrier and waits. -/
  | tbar (x : XForm)
  /-- QINIT (R268). Creates a queue in a control block. -/
  | qinit (x : XForm)
  /-- ENQ (R269). Reserves a slot, writes an element and commits it. -/
  | enq (x : XForm)
  /-- DEQ (R271). Takes the next visible element of a queue. -/
  | deq (x : XForm)
  /-- QSTAT (R273). Returns one field of a queue control block. -/
  | qstat (x : XForm)
  /-- QCLOSE (R274). Closes a queue. -/
  | qclose (x : XForm)
  /-- QLDT (R292). Loads the context's Pricker direction-table state. -/
  | qldt (x : XForm)
  /-- QRND (R287). Returns a scrambled Sobol point. -/
  | qrnd (x : XForm)
  /-- QRNDF (R287). Returns a Sobol point as FP32 in [0, 1). -/
  | qrndf (x : XForm)
  /-- QRND2 (R287). Returns points of two consecutive dimensions. -/
  | qrnd2 (x : XForm)
  /-- QBERN (R287). Sets a predicate when the point is below a threshold. -/
  | qbern (x : XForm)
  /-- LAST (R343). Posts a request to load a stationary plane into the shadow. -/
  | last (x : XForm)
  /-- LSWAP (R344). Posts a request to exchange active and shadow planes. -/
  | lswap (x : XForm)
  /-- MSTR (R345). Posts one streaming request per quarter. -/
  | mstr (x : XForm)
  /-- MDRN (R349). Posts a request to drain and convert accumulator elements. -/
  | mdrn (x : XForm)
  /-- MZERO (R348). Posts a request to clear accumulator rows. -/
  | mzero (x : XForm)
  /-- MSTAT (R352). Posts a request returning the Last's status word. -/
  | mstat (x : XForm)
  /-- TWALK (R353). Opens a Treadle walk for the team. -/
  | twalk (x : XForm)
  /-- TWNEXT (R354). Hands the group the walk's next tuple. -/
  | twnext (x : XForm)
  /-- TWDONE (R355). Frees a walk. -/
  | twdone (x : XForm)
  /-- HSTEP (R478). Advances %step, stalling while the Heel table forbids it. -/
  | hstep (x : XForm)
  /-- HREAD (R479). Reads one Heel table entry. -/
  | hread (x : XForm)
  /-- COL (R480). Posts a collective contribution from a descriptor. -/
  | col (x : XForm)
  /-- CWAIT (R481). Waits for a completion word to reach a floor. -/
  | cwait (x : XForm)
  /-- SLOTQ (R482). Places a message into a circuit send queue. -/
  | slotq (x : XForm)
  /-- GETTIME (R392). Reads the device time base, optionally waiting for a target. -/
  | gettime (x : XForm)
  /-- ASSERT (R311). Stops the context if a predicate is false in any lane. -/
  | assert (x : XForm)
  /-- BRK (R312). Stops the context with BREAKPOINT under an attached debugger. -/
  | brk (x : XForm)
  /-- RTRAP (R313). Ends the trap handler, retrying, skipping or resuming. -/
  | rtrap (x : XForm)
  /-- IDEMB (R314). Opens the team's idempotent region. -/
  | idemb (x : XForm)
  /-- IDEME (R314). Closes the team's idempotent region. -/
  | ideme (x : XForm)
  /-- LAUNCH (R391). Enqueues a launch request from a kernel. -/
  | launch (x : XForm)
  /-- CTXR (R316). Reads a trap register. -/
  | ctxr (x : XForm)
  /-- CTXW (R316). Writes a trap register in handler. -/
  | ctxw (x : XForm)
  /-- INSTRUCTION_FETCH (R64). An instruction fetch completes, or fails and parks the lanes with FETCH_FAULT. -/
  | instructionFetch (core grid pc : Nat)
  /-- OPERATION_COMPLETION (R171). A long-latency operation completes for a lane, writing destinations and decrementing its slot. -/
  | operationCompletion (n : Nat) (reply : List Byte)
  /-- DEFERRED_FAULT (R489). A fault found after issue arrives and parks the lane at its first unissued instruction. -/
  | deferredFault (n : Nat)
  /-- HANDLER_ENTRY (R301). A parked lane enters the trap handler in the cycle after it parks. -/
  | handlerEntry (r : LaneRef)
  /-- CONTEXT_STOP (R307). A stopping event halts issue for the context, quiesces it and tears it down. -/
  | contextStop (grid : Nat)
  /-- FORMATION (R154). A reform bin's oldest thread reaches the age threshold and the bin becomes a formation. -/
  | formation (n : Nat)
  /-- FORMATION_PLACEMENT (R169). A waiting formation takes a free formation issue context. -/
  | formationPlacement (n : Nat)
  /-- GROUP_RETIRE (R174). A group whose lanes have all exited and whose work is done retires. -/
  | groupRetire (team g : Nat)
  /-- TEAM_RETIRE_STAGE2 (R175). After copies are acknowledged, dirty stash sectors are written back and mappings removed. -/
  | teamRetireStage2 (team : Nat)
  /-- TEAM_RETIRE_STAGE3 (R175). After write-back is acknowledged, tiles, TBAR states, bins, pins and walks are freed. -/
  | teamRetireStage3 (team : Nat)
  /-- GRID_COMPLETE (R176). The last team has retired and writes are performed, so the grid completes. -/
  | gridComplete (grid : Nat)
  /-- TEAM_ADMIT (R166). A core admits a bound team once resources are free and its release time has come. -/
  | teamAdmit (team : Nat)
  /-- L1_COPY_EXPIRE (R365). An L1 copy of a sector is dropped 65,536 cycles after its fill. -/
  | l1CopyExpire (n : Nat)
  /-- UPD_COPY_EVICTION (R238). An L1 evicts an update-only copy and sends it for combination. -/
  | updCopyEviction (n : Nat)
  /-- CHAIN_TURN (R244). At the home, the team's turn comes and its combined contribution is applied. -/
  | chainTurn (n : Nat)
  /-- TILE_ENTRY_FREE (R223). A held TFREE sets V to 0 once no work on the entry remains. -/
  | tileEntryFree (r : LaneRef)
  /-- TILE_LANDING (R190). Bytes land in a tile, counting towards their chunk and setting chunk bits. -/
  | tileLanding (n : Nat)
  /-- TAIL_OBSERVATION (R195). The engine observes a TAIL store of a team's command ring. -/
  | tailObservation (team : Nat)
  /-- RING_NOP (R194). Command kind NOP started from a ring. -/
  | ringNop (team : Nat)
  /-- COPYIN (R194). Command copying from the GADDR side into local memory or a tile. -/
  | copyin (team : Nat)
  /-- COPYOUT (R194). Command copying from local memory or a tile to the GADDR side. -/
  | copyout (team : Nat)
  /-- COPYLOCAL (R194). Command copying within local memory. -/
  | copylocal (team : Nat)
  /-- MCASTIN (R199). Command copying the same words into every present gang member. -/
  | mcastin (team : Nat)
  /-- FILL (R194). Command filling local memory or a tile with a pattern. -/
  | fill (team : Nat)
  /-- COMMAND_COMPLETION (R196). A command's writes are acknowledged and DONE advances. -/
  | commandCompletion (team n : Nat)
  /-- COMMIT (R270). An ENQ commit reaches the home and committed elements become visible. -/
  | commit (n : Nat)
  /-- TIMEOUT (R272). A queue waiter's timeout expires and it leaves its line. -/
  | timeout (r : LaneRef)
  /-- LDV_TIMEOUT (R213). A held LDV's timeout expires, clearing the status predicate or faulting. -/
  | ldvTimeout (r : LaneRef)
  /-- CWAIT_TIMEOUT (R481). A CWAIT's timeout expires and the word as last read is written. -/
  | cwaitTimeout (r : LaneRef)
  /-- GETTIME_RELEASE (R392). The time base reaches a held GETTIME's target. -/
  | gettimeRelease (r : LaneRef)
  /-- QW_DATA (R279). A host write to a queue window's data offset performs one ENQ or is dropped; a host read returns what the offset
  holds. -/
  | qwData (win off : Nat) (access : WindowAccess)
  /-- TABLE_FETCH (R284). A Pricker direction-table fetch completes. -/
  | tableFetch (core grid dim : Nat)
  /-- REQUEST_ACCEPTANCE (R326). The Last accepts a posted request, running its acceptance checks. -/
  | requestAcceptance (cl : Nat)
  /-- LAST_EXECUTE (R343). An accepted LAST loads the shadow plane. -/
  | lastExecute (cl n : Nat)
  /-- LSWAP_EXECUTE (R344). An accepted LSWAP exchanges the planes and raises GA. -/
  | lswapExecute (cl n : Nat)
  /-- MSTR_PASS (R331). The arbiter grants a pass of fused MSTR quarters. -/
  | mstrPass (cl : Nat) (ns : List Nat)
  /-- MZERO_EXECUTE (R348). An accepted MZERO clears accumulator rows. -/
  | mzeroExecute (cl n : Nat)
  /-- MDRN_EXECUTE (R349). An accepted MDRN drains and converts elements. -/
  | mdrnExecute (cl n : Nat)
  /-- MSTAT_EXECUTE (R352). An accepted MSTAT samples the status word. -/
  | mstatExecute (cl n : Nat)
  /-- PAGE_WALK (R404). A page-table walk completes or faults. -/
  | pageWalk (grid va : Nat)
  /-- VERSION_FLIP (R415). A FULL incoming frame of an unpinned page becomes settled. -/
  | versionFlip (v : Nat)
  /-- LAUNCH_REQUEST (R375). Trara takes a launch request from a launch queue. -/
  | launchRequest (die : Nat)
  /-- GRID_ACCEPTANCE (R385). A request gets a context entry and the grid is accepted. -/
  | gridAcceptance (die : Nat)
  /-- BIND_RECORD (R386). Trara writes a bind record for a team into the slot table. -/
  | bindRecord (grid die core : Nat)
  /-- PREEMPTION (R394). A pre-emption of a team takes effect and an action is chosen. -/
  | preemption (teams : List Nat) (action : Nat)
  /-- DRAIN_REDECISION (R395). A team still resident 2 D_DRAIN after a DRAIN is decided again. -/
  | drainRedecision (team : Nat)
  /-- SAVE_COMPLETE (R396). Quiescence ends and the team's save image is complete. -/
  | saveComplete (team : Nat)
  /-- FLUSH_AND_RESTART (R315). After quiescence the team is discarded and restarted at IDEM_ENTRY. -/
  | flushAndRestart (team : Nat)
  /-- POWER_UP (R423). Rails ramp in order at power application. -/
  | powerUp (rails : List Bool)
  /-- PERST_DEASSERT (R423). PERST# deasserts and the PLLs lock. -/
  | perstDeassert (locked : Bool)
  /-- BOOT_VERIFY (R428). Each boot ROM verifies Trara and the microcode. -/
  | bootVerify (imgs : List BootImage)
  /-- MEMORY_INIT (R423). Trara trains DRAM and links and zeroes all memory. -/
  | memoryInit (trained : List Bool)
  /-- READY (R423). Trara starts the time base, creates launch queues and sets READY. -/
  | ready
  /-- RAIL_OUT_OF_TOLERANCE (R423). A rail leaves tolerance and every die is reset. -/
  | railOutOfTolerance (die rail mv : Nat)
  /-- POWER_SAMPLE (R426). Trara samples package power and withholds issue cycles above PLIMIT. -/
  | powerSample (mw : Nat)
  /-- RAIL_OVERCURRENT (R426). A rail current exceeds its maximum and issue is withheld for 1 us. -/
  | railOvercurrent (die rail ma : Nat)
  /-- WITHHOLD_END (R426). The 1 us overcurrent hold expires. -/
  | withholdEnd (die : Nat)
  /-- APERTURE_ACCESS (R433). A host access through BAR2 is performed at its L2 home. -/
  | apertureAccess (off len : Nat) (store : Option (List Byte))
  /-- READ_COUNTER (R434). Mailbox op 0x01: returns a counter value. -/
  | readCounter (cls idx num part : Nat)
  /-- FREEZE (R434). Mailbox op 0x02: stops a unit's counters. -/
  | freeze (cls idx : Nat)
  /-- CLEAR (R434). Mailbox op 0x03: zeroes a unit's counters. -/
  | clear (cls idx : Nat)
  /-- SET_PARAM (R434). Mailbox op 0x04: sets a Trara parameter. -/
  | setParam (name value : Nat)
  /-- ATTEST (R429). Mailbox op 0x05: returns a signed attestation report. -/
  | attest (nonce : List Byte)
  /-- ATTACH (R434). Mailbox op 0x06: enables BRK for a grid. -/
  | attach (grid : Nat)
  /-- DETACH (R434). Mailbox op 0x07: disables BRK for a grid. -/
  | detach (grid : Nat)
  /-- RESUME (R312). Mailbox op 0x08: resumes a BREAKPOINT stop. -/
  | resume (grid : Nat)
  /-- PREEMPT (R434). Mailbox op 0x09: pre-empts a grid with a named action. -/
  | preempt (grid action : Nat)
  /-- INVALIDATE (R410). Mailbox op 0x0A: invalidates translations of a context range. -/
  | invalidate (grid lo hi : Nat)
  /-- INVALIDATION_COMPLETE (R410). No TLB holds the range and old-translation accesses are performed. -/
  | invalidationComplete (n : Nat)
  /-- MIGRATE (R411). Mailbox op 0x0B: migrates a page through copy, cutover, recall and switch. -/
  | migrate (grid va pa : Nat)
  /-- MIGRATION_RETRY (R412). Requests answered RETRY are translated again and sent to the new home. -/
  | migrationRetry (n : Nat)
  /-- SET_SAVE_REGION (R434). Mailbox op 0x0C: sets the save region. -/
  | setSaveRegion (base size : Nat)
  /-- SET_APERTURE (R434). Mailbox op 0x0D: places the BAR2 aperture. -/
  | setAperture (base : Nat)
  /-- SET_LINK_KEY (R450). Mailbox op 0x0E: installs a key in a sealed link's NEXT slot. -/
  | setLinkKey (peer : Nat) (tx : Bool) (key salt : Nat)
  /-- SET_COHORT (R475). Mailbox op 0x0F: replaces the Heel table and sets %step. -/
  | setCohort (cfg : CohortCfg)
  /-- ROSTER (R475). Mailbox op 0x10: applies up to 64 roster changes. -/
  | roster (cs : List RosterChange)
  /-- SET_GROUP (R475). Mailbox op 0x11: writes a collective group entry. -/
  | setGroup (g entry start : Nat)
  /-- REG_OBJECT (R475). Mailbox op 0x12: registers or removes a cohort barrier object. -/
  | regObject (grid addr : Nat) (remove : Bool)
  /-- REGISTER_WRITE (R7). A write to a register that has no row of its own. -/
  | registerWrite (reg value : Nat)
  /-- LINK_TRAINING (R435). A port trains with a peer or switch, or is refused. -/
  | linkTraining (port : Nat) (offer : LinkOffer)
  /-- PTP_MESSAGE (R437). An IEEE 1588 message disciplines the time base. -/
  | ptpMessage (offset : Int)
  /-- PEER_TABLE_STAGE (R440). Trara writes staged replacement peer-table entries. -/
  | peerTableStage (id entry : Nat)
  /-- PEER_TABLE_COMMIT (R440). All staged entries replace current ones at one fabric cycle. -/
  | peerTableCommit
  /-- OWNERSHIP_SET (R441). Trara sets a logical id's ownership state. -/
  | ownershipSet (id state : Nat)
  /-- FABRIC_REQUEST (R443). A fabric request arrives at a target and is served, held, deduplicated or answered MOVED. -/
  | fabricRequest (p : Packet)
  /-- MOVED (R442). A sender receives MOVED and resends the packet once. -/
  | moved (n : Nat)
  /-- PACKET_DROP (R447). A packet's delivery bound passes and it is dropped. -/
  | packetDrop (n : Nat)
  /-- FLIT_RECEIVE (R452). A sealed flit arrives and is checked by CRC and GCM tag. -/
  | flitReceive (f : Flit)
  /-- FLIT_REREQUEST (R452). A sender resends the identical sealed flit requested by CTR. -/
  | flitRerequest (peer slot ctr : Nat)
  /-- SWITCH_OVER (R451). The sender sends a marker and seals under the other key slot. -/
  | switchOver (peer : Nat)
  /-- OLD_KEY_DISCARD (R451). The old key is discarded once every earlier flit is acknowledged or dropped. -/
  | oldKeyDiscard (peer : Nat) (tx : Bool)
  /-- SLOT_TABLE_EPOCH (R453). A new circuit slot table takes effect at its EPOCH. -/
  | slotTableEpoch
  /-- SLOT_BOUNDARY (R453). A circuit slot begins and ports reach new queues. -/
  | slotBoundary
  /-- MESSAGE_SEND (R455). A port starts sending a message whole if it fits before the guard. -/
  | messageSend (port : Nat)
  /-- MESSAGE_DELIVERY (R482). A message's bytes are written at the target and NOTIFY incremented. -/
  | messageDelivery (m : Message)
  /-- RED (R469). A contribution reaches a partial reducer and is gathered or forwarded. -/
  | red (c : Contribution)
  /-- PARTIAL_TIMER (R469). A partial reducer's timer expires and it forwards its sum. -/
  | partialTimer (n : Nat)
  /-- FWD (R461). A packet reaches a FWD hop and is sent on. -/
  | fwd (p : Parcel)
  /-- FINAL_REDUCTION (R462). A contribution reaches the final reducer and is classified and counted. -/
  | finalReduction (c : Contribution)
  /-- STEP_TIMER (R463). A step's timer expires and the step closes. -/
  | stepTimer (g : Nat)
  /-- DLV (R467). A result reaches a DLV hop and is delivered with its completion word. -/
  | dlv (r : ResultPacket)
  /-- MCAST (R461). A result reaches an MCAST hop, is delivered and copied to the range. -/
  | mcast (r : ResultPacket)
  /-- HEARTBEAT_SEND (R473). Every 10 us the device sends a heartbeat. -/
  | heartbeatSend
  /-- HEARTBEAT (R473). A heartbeat is received and updates the peer's entry or is discarded. -/
  | heartbeat (ident idx step : Nat)
  /-- PEER_LATE (R473). A peer unheard for T_LATE becomes LATE. -/
  | peerLate (i : Nat)
  /-- PEER_SILENT (R473). A peer unheard for T_SILENT becomes SILENT. -/
  | peerSilent (i : Nat)
  /-- UNLOCKED (R437). The time base loses its IEEE 1588 discipline, free-runs from the reference clock, and Trara marks it UNLOCKED. -/
  | unlocked
  /-- VERSION_ENTRY_CREATE (R413). Trara creates a version entry at system software's request, writing its frames, initial settled frame and VERSION, with STATE IDLE. -/
  | versionEntryCreate (v frame0 frame1 : Nat) (sel : Bool) (version : Nat)
  /-- VERSION_ENTRY_DESTROY (R413). Trara destroys a version entry at system software's request. -/
  | versionEntryDestroy (v : Nat)
  /-- SEND_QUEUE_BIND (R454). Trara binds a circuit send queue to a TIER 1 logical peer. -/
  | sendQueueBind (q peer : Nat)
  deriving DecidableEq, Repr

end Sys2Proof
end

