-- ==== Sys2Proof/WellFormed.lean ====
section
/-! DEFINITION. Which encodings of an instruction are well formed: the static checks of R84, one name for each. What
depends on the launch record or on a register's value (R19, R55, R306) is judged when the instruction executes. -/

namespace Sys2Proof

/-- Why an encoding is reserved (R84). -/
inductive IllFormed where
  /-- m2 names operand kinds the instruction does not have (R67). -/
  | mode
  /-- An s-register field holds 64 to 127, or a join register above j11 (R67, R71). -/
  | registerNumber
  /-- A predicate field holds 8 to 127, or a predicate the class does not allow (R67, R78). -/
  | predicateNumber
  /-- A pair or a run of registers is not aligned (R15, R73). -/
  | unalignedRun
  /-- An unused field is not 0 (R67, R77). -/
  | nonZeroField
  /-- A register of the wrong kind for its position (R73, R78, R204). -/
  | registerKind
  /-- A reserved operand name, or one that does not belong in its position (R79). -/
  | operandName
  /-- A special-register or trap-register number that is reserved or not writable (R23, R317). -/
  | specialRegister
  /-- A reserved width or hint code (R77). -/
  | widthCode
  /-- An ordering or scope the instruction does not take (R81). -/
  | ordering
  /-- A reserved operation code, or one that does not fit the width (R80, R162). -/
  | operation
  /-- An immediate, path, barrier id or count outside its range (R69, R78). -/
  | range
  /-- ss3 is not 0 while se is 0 (R75). -/
  | slotField
  deriving DecidableEq, Repr

/-- The name of the first check that fails. -/
def firstFailure : List (Bool × IllFormed) → Option IllFormed
  | [] => none
  | (true, e) :: _ => some e
  | (false, _) :: r => firstFailure r

/-- A run of `n` registers named by an X-form field (R73): aligned, within one kind, or 255. -/
def xRun (n f : Nat) : Bool :=
  if f < 128 then f % n == 0 && f + n ≤ 128
  else if f < 192 then (f - 128) % n == 0 && f - 128 + n ≤ 64
  else f == 255

/-- The field names a v-register. -/
def xIsV (f : Nat) : Bool := f < 128
/-- The field names an s-register. -/
def xIsS (f : Nat) : Bool := 128 ≤ f && f < 192
/-- The field names a v- or s-register, not the zero register. -/
def xIsReg (f : Nat) : Bool := f < 192
/-- The field names an s-register or the zero register. -/
def xIsSOrZero (f : Nat) : Bool := xIsS f || f == 255

/-- Registers a width code moves (R77). -/
def widthRegs (w : Nat) : Nat := if w ≤ 4 then 1 else if w = 5 then 2 else if w = 6 then 4 else 8

/-- Operand name of a tile, directly or through an s-register (R79, R221). -/
def isTileName (f : Nat) : Bool := 64 ≤ f && f < 192
/-- Operand name of an operand buffer or a tile (R79, R339). -/
def isSourceName (f : Nat) : Bool := f < 16 || isTileName f
/-- Operand name of an accumulator tile (R79). -/
def isAccName (f : Nat) : Bool := 16 ≤ f && f < 24

/-- Operand kinds of m2 for a three-register instruction (R67); each field names `w` registers. -/
def checkR (w : Nat) (f : RForm) : Option IllFormed :=
  firstFailure [
    (f.m == 1, .mode),
    (f.m == 2 && 64 ≤ f.b.toNat, .registerNumber),
    (f.m == 3 && (64 ≤ f.d.toNat || 64 ≤ f.a.toNat || 64 ≤ f.b.toNat), .registerNumber),
    (f.d.toNat % w != 0 || f.a.toNat % w != 0 || f.b.toNat % w != 0, .unalignedRun)]

/-- Unary instructions (R67): b7 is 0, and S is 0 except in the uniform form. -/
def checkUnary (f : RForm) : Option IllFormed :=
  firstFailure [
    (f.m == 1 || f.m == 2, .mode),
    (f.b != 0, .nonZeroField),
    (f.m == 3 && (64 ≤ f.d.toNat || 64 ≤ f.a.toNat), .registerNumber)]

/-- Compares (R67): d7 names a predicate, and the uniform form is reserved. -/
def checkCompare (f : RForm) : Option IllFormed :=
  firstFailure [
    (f.m == 1 || f.m == 3, .mode),
    (8 ≤ f.d.toNat, .predicateNumber),
    (f.m == 2 && 64 ≤ f.b.toNat, .registerNumber)]

/-- Predicate logic (R67, R107). -/
def checkPredicate (f : RForm) : Option IllFormed :=
  firstFailure [
    (f.m != 0, .mode),
    (8 ≤ f.d.toNat || 8 ≤ f.a.toNat || 8 ≤ f.b.toNat, .predicateNumber)]

/-- SEL (R67, R105). -/
def checkSel (f : RForm) : Option IllFormed :=
  firstFailure [
    (f.m == 3, .mode),
    (8 ≤ f.a.toNat, .predicateNumber),
    (f.m == 2 && 64 ≤ f.b.toNat, .registerNumber)]

/-- MOV (R104): a7 is 0; m2 = 01 moves from a v-register to an s-register. -/
def checkMov (f : RForm) : Option IllFormed :=
  firstFailure [
    (f.a != 0, .nonZeroField),
    (f.m == 1 && 64 ≤ f.d.toNat, .registerNumber),
    (f.m == 2 && 64 ≤ f.b.toNat, .registerNumber),
    (f.m == 3 && (64 ≤ f.d.toNat || 64 ≤ f.b.toNat), .registerNumber)]

/-- RADD (R112): even pairs; ALT = 1 with S = 1 is reserved. -/
def checkRadd (f : RForm) : Option IllFormed :=
  firstFailure [
    (f.m == 3, .mode),
    (f.m == 2 && 64 ≤ f.b.toNat, .registerNumber),
    (f.d.toNat % 2 != 0 || f.a.toNat % 2 != 0 || f.b.toNat % 2 != 0, .unalignedRun)]

/-- Width in registers of a special register (R23). -/
def srWidth (n : Nat) : Nat := if n = 8 ∨ n = 9 ∨ n = 14 then 2 else 1

/-- SRD (R23, R67, R109): a7 holds the number. -/
def checkSrd (f : RForm) : Option IllFormed :=
  firstFailure [
    (f.m == 1 || f.m == 2, .mode),
    (f.b != 0, .nonZeroField),
    (15 ≤ f.a.toNat, .specialRegister),
    (f.m == 3 && 64 ≤ f.d.toNat, .registerNumber),
    (f.d.toNat % srWidth f.a.toNat != 0, .unalignedRun)]

/-- SWR (R23, R67, R110): d7 holds the number, 12 to 14. -/
def checkSwr (f : RForm) : Option IllFormed :=
  firstFailure [
    (f.m == 1 || f.m == 2, .mode),
    (f.b != 0, .nonZeroField),
    (f.d.toNat < 12 || 15 ≤ f.d.toNat, .specialRegister),
    (f.m == 3 && 64 ≤ f.a.toNat, .registerNumber),
    (f.a.toNat % srWidth f.d.toNat != 0, .unalignedRun)]

/-- HADD2, HMUL2, HMAC2 (R124): every m2 has a meaning. -/
def checkPacked (f : RForm) : Option IllFormed :=
  firstFailure [
    (f.m == 2 && 64 ≤ f.b.toNat, .registerNumber),
    (f.m == 3 && (64 ≤ f.d.toNat || 64 ≤ f.a.toNat || 64 ≤ f.b.toNat), .registerNumber)]

/-- The op7 range 0x70 to 0x7E with an immediate form (R67, R111, R160): m2 = 11 is reserved. -/
def checkImmR (limit : Nat) (f : RForm) : Option IllFormed :=
  firstFailure [
    (f.m == 3, .mode),
    (f.m == 2 && 64 ≤ f.b.toNat, .registerNumber),
    (f.m == 1 && limit ≤ f.b.toNat, .range)]

/-- Votes and quad exchanges (R161, R163): m2 = 00 and b7 = 0. -/
def checkVote (f : RForm) : Option IllFormed :=
  firstFailure [(f.m != 0, .mode), (f.b != 0, .nonZeroField)]

/-- LRED and LSCAN (R162): b7 is a control field; only LSCAN takes bit 6. -/
def checkReduce (scan : Bool) (f : RForm) : Option IllFormed :=
  firstFailure [
    (f.m != 0, .mode),
    (f.b.toNat / 16 % 4 != 0 || (!scan && 64 ≤ f.b.toNat), .nonZeroField),
    (f.b.toNat % 16 == 8 || 12 ≤ f.b.toNat % 16, .operation)]

/-- BRX, RET and CALLX (R141): b7 names the target pair. -/
def checkIndirect (link : Bool) (f : RForm) : Option IllFormed :=
  firstFailure [
    (f.m == 1 || f.m == 3, .mode),
    (f.a != 0 || (!link && f.d != 0), .nonZeroField),
    (f.m == 2 && 64 ≤ f.b.toNat, .registerNumber),
    (f.b.toNat % 2 != 0 || f.d.toNat % 2 != 0, .unalignedRun)]

/-- J form (R71): the highest a7 the instruction takes is `lim - 1`. -/
def checkJ (lim : Nat) (f : JForm) : Option IllFormed :=
  firstFailure [
    (12 ≤ f.j.toNat, .registerNumber),
    (lim ≤ f.a.toNat, if lim = 1 then .nonZeroField else .registerNumber)]

/-- The slot-set field (R75). -/
def checkSlot (x : XForm) : Bool × IllFormed := (!x.se && x.ss != 0, .slotField)

/-- Width, hint and unused md4 bits of an access (R77). `wlim` bounds the width code. -/
def checkWidth (wlim : Nat) (x : XForm) : List (Bool × IllFormed) :=
  [(wlim ≤ x.b.toNat % 16, .widthCode), (4 ≤ x.b.toNat / 16, .widthCode), (4 ≤ x.md.toNat, .nonZeroField)]

/-- Ordering and scope of an access (R81): relaxed, or `o` with a scope. -/
def checkOrder (o : Nat) (x : XForm) : Bool × IllFormed :=
  (!(x.md.toNat % 4 == 0 || (x.md.toNat % 4 == o && x.fs != 0)), .ordering)

/-- LD, ST, LDL, STL (R77, R78, R81, R204, R210). -/
def checkAccess (isLoad isLocal : Bool) (x : XForm) : Option IllFormed :=
  firstFailure (checkSlot x :: checkWidth 8 x ++ [
    checkOrder (if isLoad then 1 else 2) x,
    (isLocal && 5 ≤ x.fs.toNat, .ordering),
    (!xRun (widthRegs (x.b.toNat % 16)) x.d.toNat, .unalignedRun),
    (!xRun (if isLocal then 1 else 2) x.a.toNat, .unalignedRun),
    (isLoad && xIsS x.d.toNat && !xIsSOrZero x.a.toNat, .registerKind)])

/-- PF (R78, R81, R211). -/
def checkPf (x : XForm) : Option IllFormed :=
  firstFailure (checkSlot x :: checkWidth 8 x ++ [
    (x.d != 0, .nonZeroField), (x.md != 0, .ordering), (x.fs != 0, .ordering),
    (!xRun 2 x.a.toNat, .unalignedRun)])

/-- LDV (R212). -/
def checkLdv (x : XForm) : Option IllFormed :=
  firstFailure [
    checkSlot x, (7 ≤ x.b.toNat % 16, .widthCode), (8 ≤ x.b.toNat / 16, .predicateNumber),
    (4 ≤ x.md.toNat, .nonZeroField), checkOrder 1 x,
    (!xRun (widthRegs (x.b.toNat % 16)) x.d.toNat, .unalignedRun),
    (!xRun 2 x.a.toNat, .unalignedRun), (!xRun 2 x.c.toNat, .unalignedRun)]

/-- VPIN, VUNPIN (R78): only a8 is used. -/
def checkPin (x : XForm) : Option IllFormed :=
  firstFailure [
    checkSlot x, (x.d != 0 || x.b != 0 || x.c != 0 || x.fs != 0 || x.md != 0, .nonZeroField),
    (!xRun 2 x.a.toNat, .unalignedRun)]

/-- SMAP, SUNMAP, SFLUSH, SINV (R218, R220): every operand is an s-register. -/
def checkStash (isMap isFlush : Bool) (x : XForm) : Option IllFormed :=
  firstFailure [
    checkSlot x, (x.d != 0 || x.md != 0, .nonZeroField),
    (!xIsS x.a.toNat || !xIsS x.c.toNat, .registerKind),
    (isMap && !xIsS x.b.toNat, .registerKind), (isMap && x.b.toNat % 2 != 0, .unalignedRun),
    (!isMap && x.b != 0, .nonZeroField),
    (!(x.fs == 0 || (isFlush && 5 ≤ x.fs.toNat)), .ordering)]

/-- ACP16, ACPS16 (R78, R226). -/
def checkAcp (x : XForm) : Option IllFormed :=
  firstFailure [
    checkSlot x, (x.c != 0 || x.fs != 0 || 2 ≤ x.md.toNat, .nonZeroField),
    (!isTileName x.d.toNat, .operandName), (!xRun 2 x.a.toNat, .unalignedRun),
    (!xRun 1 x.b.toNat, .registerNumber)]

/-- TALLOC (R222). -/
def checkTalloc (x : XForm) : Option IllFormed :=
  firstFailure [
    checkSlot x, (x.a != 0 || x.c != 0 || x.fs != 0 || 2 ≤ x.md.toNat, .nonZeroField),
    (!xIsS x.d.toNat || !xIsS x.b.toNat, .registerKind)]

/-- TFREE, TWAIT, TSTATE (R221 to R225). `hasMask`: TWAIT; `hasDest`: TSTATE. -/
def checkTile (hasMask hasDest : Bool) (x : XForm) : Option IllFormed :=
  firstFailure [
    checkSlot x, (x.c != 0 || x.fs != 0 || x.md != 0, .nonZeroField),
    (!isTileName x.a.toNat, .operandName),
    (hasDest && !xIsS x.d.toNat, .registerKind), (!hasDest && x.d != 0, .nonZeroField),
    (hasMask && !xRun 4 x.b.toNat, .unalignedRun), (!hasMask && x.b != 0, .nonZeroField)]

/-- FENCE, FENCEX (R78, R228, R229). -/
def checkFence (cross : Bool) (x : XForm) : Option IllFormed :=
  firstFailure [
    checkSlot x, (x.d != 0 || x.a != 0 || x.b != 0 || 4 ≤ x.md.toNat || (!cross && x.c != 0), .nonZeroField),
    (x.fs == 0 || x.md.toNat % 4 == 0, .ordering),
    (cross && (5 ≤ x.c.toNat % 16 || 5 ≤ x.c.toNat / 16 || x.c.toNat % 16 == x.c.toNat / 16), .range)]

/-- MOVI (R76, R126). -/
def checkMovi (x : XIForm) : Option IllFormed :=
  firstFailure [
    (4 ≤ x.md.toNat, .operation),
    (!xRun (if x.md == 0 then 1 else 2) x.d.toNat, .unalignedRun)]

/-- CVT, CVTPK, CVTQ (R78, R127 to R130). -/
def checkCvt (second : Bool) (x : XForm) : Option IllFormed :=
  firstFailure [
    checkSlot x, (8 ≤ x.c.toNat || x.md != 0 || (!second && x.b != 0), .nonZeroField),
    (!xRun 1 x.d.toNat || !xRun 1 x.a.toNat || !xRun 1 x.b.toNat, .registerNumber)]

/-- DPH (R131). -/
def checkDph (x : XForm) : Option IllFormed :=
  firstFailure [
    checkSlot x, (x.fs != 0 || x.b != 0 || x.c != 0 || 2 ≤ x.md.toNat || (x.md == 0 && x.a != 0), .nonZeroField),
    (!xRun 1 x.d.toNat || !xRun 1 x.a.toNat, .registerNumber)]

/-- FMA (R125). -/
def checkFma (x : XForm) : Option IllFormed :=
  firstFailure [
    checkSlot x, (x.md != 0, .nonZeroField),
    (!xRun 1 x.d.toNat || !xRun 1 x.a.toNat || !xRun 1 x.b.toNat || !xRun 1 x.c.toNat, .registerNumber)]

/-- Whether an atomic operation fits a width: `w` is 0 for w32, 1 for d64 (R80). -/
def atomicOpFits (op w : Nat) : Bool :=
  if w = 0 then op ≤ 11 else op ≤ 8 || op == 12

/-- ATOM, UPD, CAS, CHAIN (R78, R80, R232). `kind` is 0 to 3 in that order. -/
def checkAtomic (kind : Nat) (x : XForm) : Option IllFormed :=
  let w := x.c.toNat / 4 % 4
  let op := x.md.toNat
  firstFailure [
    checkSlot x, (16 ≤ x.c.toNat, .nonZeroField), (2 ≤ w, .widthCode),
    (x.fs == 0 || (kind == 3 && x.c.toNat % 4 != 3), .ordering),
    (kind == 1 && x.d != 0, .nonZeroField),
    (kind != 1 && !(xIsV x.d.toNat || x.d == 255), .registerKind),
    (kind != 1 && w == 1 && x.d.toNat % 2 != 0 && x.d != 255, .unalignedRun),
    (!xIsReg x.a.toNat, .registerKind), (!xRun 2 x.a.toNat, .unalignedRun), (kind == 3 && !xIsS x.a.toNat, .registerKind),
    (kind == 2 && x.b == 255, .unalignedRun),
    (!xRun ((if w = 1 then 2 else 1) * (if kind = 2 then 2 else 1)) x.b.toNat, .unalignedRun),
    (kind == 2 && op != 0, .nonZeroField),
    (kind != 2 && !atomicOpFits op w, .operation),
    (kind == 1 && op == 8, .operation),
    (kind == 3 && !(op == 0 || op == 9 || op == 12), .operation)]

/-- Barrier class (R78, R247). `dk`: 0 no destination, 1 phase result, 2 predicate; `hasB`: b8 is a register. -/
def checkBarrier (dk : Nat) (hasB : Bool) (x : XForm) : Option IllFormed :=
  firstFailure [
    checkSlot x, (x.c != 0 || 2 ≤ x.md.toNat, .nonZeroField),
    (x.fs == 0 || (x.md == 1 && 5 ≤ x.fs.toNat), .ordering),
    (dk == 0 && x.d != 0, .nonZeroField),
    (dk == 1 && !(xIsV x.d.toNat || x.d == 255), .registerKind),
    (dk == 2 && (x.d == 0 || 8 ≤ x.d.toNat), .predicateNumber),
    (!hasB && x.b != 0, .nonZeroField), (!xIsReg x.b.toNat, .registerNumber),
    (!xIsReg x.a.toNat, .registerKind), (!xRun (if x.md == 1 then 1 else 2) x.a.toNat, .unalignedRun)]

/-- TBAR (R247, R256). -/
def checkTbar (x : XForm) : Option IllFormed :=
  firstFailure [
    checkSlot x, (x.d != 0 || x.a != 0 || x.b != 0 || x.md != 0, .nonZeroField),
    (x.fs != 0, .ordering), (16 ≤ x.c.toNat, .range)]

/-- The block address of a queue instruction: an even v or s pair, with a scope (R266). -/
def checkQueueBase (x : XForm) : List (Bool × IllFormed) :=
  [checkSlot x, (x.fs == 0, .ordering), (!xIsReg x.a.toNat, .registerKind), (x.a.toNat % 2 != 0, .unalignedRun)]

/-- QINIT, QCLOSE (R266). -/
def checkQinit (x : XForm) : Option IllFormed :=
  firstFailure (checkQueueBase x ++ [
    (x.d != 0 || x.c != 0 || x.md != 0, .nonZeroField), (x.b == 255 || !xRun 4 x.b.toNat, .unalignedRun)])
/-- QCLOSE (R266). -/
def checkQclose (x : XForm) : Option IllFormed :=
  firstFailure (checkQueueBase x ++ [(x.d != 0 || x.b != 0 || x.c != 0 || x.md != 0, .nonZeroField)])
/-- ENQ, DEQ (R266, R267). -/
def checkQueue (isDeq : Bool) (x : XForm) : Option IllFormed :=
  firstFailure (checkQueueBase x ++ [
    ((if isDeq then x.b else x.d) != 0, .nonZeroField),
    (!xRun 1 (if isDeq then x.d else x.b).toNat || !xRun 1 x.c.toNat, .registerNumber),
    (x.md.toNat % 2 == 1 && (x.md.toNat / 2 == 0 || x.c != 255), .range),
    (isDeq && xIsS x.d.toNat && !xIsS x.a.toNat, .registerKind)])
/-- QSTAT (R266, R267, R273). -/
def checkQstat (x : XForm) : Option IllFormed :=
  firstFailure (checkQueueBase x ++ [
    (x.c != 0 || x.md != 0, .nonZeroField), (16 ≤ x.b.toNat, .range), (!xRun 1 x.d.toNat, .registerNumber),
    (xIsS x.d.toNat && !xIsS x.a.toNat, .registerKind)])

/-- QLDT (R288, R292). -/
def checkQldt (x : XForm) : Option IllFormed :=
  firstFailure [
    checkSlot x, (x.d != 0 || x.c != 0 || x.fs != 0 || x.md != 0, .nonZeroField),
    (!xIsSOrZero x.a.toNat || !xIsSOrZero x.b.toNat, .registerKind), (!xRun 2 x.a.toNat, .unalignedRun)]
/-- QRND, QRNDF (`n` = 1), QRND2 (`n` = 2) (R288, R289). -/
def checkQrnd (n : Nat) (x : XForm) : Option IllFormed :=
  firstFailure [
    checkSlot x, (x.c != 0 || x.fs != 0 || x.md != 0, .nonZeroField),
    (!xRun n x.d.toNat, .unalignedRun), (!xRun 1 x.a.toNat || !xRun 1 x.b.toNat, .registerNumber),
    (xIsS x.d.toNat && (!xIsSOrZero x.a.toNat || !xIsSOrZero x.b.toNat), .registerKind)]
/-- QBERN (R288). -/
def checkQbern (x : XForm) : Option IllFormed :=
  firstFailure [
    checkSlot x, (x.fs != 0 || x.md != 0, .nonZeroField), (x.d == 0 || 8 ≤ x.d.toNat, .predicateNumber),
    (!xRun 1 x.a.toNat || !xRun 1 x.b.toNat || !xRun 1 x.c.toNat, .registerNumber)]

/-- LAST (R339, R343). -/
def checkLast (x : XForm) : Option IllFormed :=
  firstFailure [
    checkSlot x, (x.d != 0 || x.md != 0, .nonZeroField), (!isSourceName x.a.toNat, .operandName),
    (!(isSourceName x.b.toNat || x.b == 255), .operandName), (32 ≤ x.c.toNat, .range)]
/-- LSWAP (R339, R344): no operands. -/
def checkLswap (x : XForm) : Option IllFormed :=
  firstFailure [
    checkSlot x, (x.d != 0 || x.a != 0 || x.b != 0 || x.c != 0 || x.fs != 0 || x.md != 0, .nonZeroField)]
/-- MSTR (R339, R345). -/
def checkMstr (x : XForm) : Option IllFormed :=
  firstFailure [
    checkSlot x, (x.md != 0, .nonZeroField), (!isAccName x.d.toNat, .operandName),
    (!isSourceName x.a.toNat, .operandName), (!xIsReg x.b.toNat, .registerKind),
    (!(isSourceName x.c.toNat || x.c == 255), .operandName)]
/-- MDRN (R339, R349): bit 1 of md4 is .RES, bit 0 is .LM. -/
def checkMdrn (x : XForm) : Option IllFormed :=
  firstFailure [
    checkSlot x, (4 ≤ x.md.toNat, .nonZeroField),
    (!(if x.md.toNat % 2 = 1 then xIsReg x.d.toNat else xIsV x.d.toNat), .registerKind),
    (!isAccName x.a.toNat || (2 ≤ x.md.toNat && x.a.toNat % 2 != 0), .operandName),
    (!xIsReg x.b.toNat, .registerKind), (x.c == 0 || 128 < x.c.toNat, .range)]
/-- MZERO (R339, R348). -/
def checkMzero (x : XForm) : Option IllFormed :=
  firstFailure [
    checkSlot x, (x.a != 0 || x.c != 0 || x.fs != 0 || !(x.md == 0 || x.md == 2), .nonZeroField),
    (!isAccName x.d.toNat || (x.md == 2 && x.d.toNat % 2 != 0), .operandName), (!xIsReg x.b.toNat, .registerKind)]
/-- MSTAT (R339, R352). -/
def checkMstat (x : XForm) : Option IllFormed :=
  firstFailure [
    checkSlot x, (x.a != 0 || x.b != 0 || x.c != 0 || x.fs != 0 || x.md != 0, .nonZeroField),
    (!xIsReg x.d.toNat, .registerKind), (x.d.toNat % 2 != 0, .unalignedRun)]
/-- TWALK (R339, R353). -/
def checkTwalk (x : XForm) : Option IllFormed :=
  firstFailure [
    checkSlot x, (x.fs != 0 || x.md != 0, .nonZeroField),
    (!xIsS x.d.toNat || !xIsS x.a.toNat || !xIsS x.b.toNat, .registerKind),
    (x.a.toNat % 2 != 0, .unalignedRun), (x.c == 0 || 4 < x.c.toNat, .range)]
/-- TWNEXT (R339, R354). -/
def checkTwnext (x : XForm) : Option IllFormed :=
  firstFailure [
    checkSlot x, (x.b != 0 || x.c != 0 || x.fs != 0 || x.md.toNat % 2 != 0, .nonZeroField),
    (x.md.toNat / 2 == 0, .predicateNumber), (!xIsReg x.d.toNat || !xIsReg x.a.toNat, .registerKind),
    (x.d.toNat % 4 != 0, .unalignedRun)]
/-- TWDONE (R339, R355). -/
def checkTwdone (x : XForm) : Option IllFormed :=
  firstFailure [
    checkSlot x, (x.d != 0 || x.b != 0 || x.c != 0 || x.fs != 0 || x.md != 0, .nonZeroField),
    (!xIsReg x.a.toNat, .registerKind)]

/-- HSTEP, HREAD, COL, CWAIT, SLOTQ, GETTIME, LAUNCH (R390, R477). `dn`: registers of d8, which is 255 only when
`dz`; `an`: registers of a8, 255 only when `az`; `hasB`, `hasC`: b8 and c8 are registers. An s destination requires
s operands. -/
def checkFabric (dn : Nat) (dz : Bool) (an : Nat) (az hasB hasC : Bool) (x : XForm) : Option IllFormed :=
  firstFailure [
    checkSlot x, (x.fs != 0 || x.md != 0 || (!hasB && x.b != 0) || (!hasC && x.c != 0), .nonZeroField),
    (!xRun dn x.d.toNat, .unalignedRun), (!dz && x.d == 255, .registerKind),
    (!xRun an x.a.toNat, .unalignedRun), (!az && x.a == 255, .registerKind),
    (hasB && !xIsReg x.b.toNat, .registerKind), (hasC && !xRun 1 x.c.toNat, .registerNumber),
    (xIsS x.d.toNat && (!xIsSOrZero x.a.toNat || (hasB && !xIsS x.b.toNat) || (hasC && !xIsSOrZero x.c.toNat)),
      .registerKind)]

/-- ASSERT, BRK, RTRAP, IDEMB, IDEME (R310): which of a8 (an s pair or 255), c8 and md4[60] the instruction uses. -/
def checkSystem (hasA hasC hasMd : Bool) (x : XForm) : Option IllFormed :=
  firstFailure [
    checkSlot x, (x.d != 0 || x.b != 0 || x.fs != 0, .nonZeroField),
    (!hasA && x.a != 0, .nonZeroField), (hasA && !xIsSOrZero x.a.toNat, .registerKind),
    (hasA && !xRun 2 x.a.toNat, .unalignedRun), (!hasC && x.c != 0, .nonZeroField),
    ((if hasMd then 2 else 1) ≤ x.md.toNat, .nonZeroField)]

/-- Width in registers of a trap register (R305). -/
def trapRegWidth (n : Nat) : Nat := if n = 0 ∨ n = 2 ∨ n = 3 ∨ n = 4 ∨ n = 5 ∨ n = 7 then 2 else 1

/-- CTXR and CTXW (R310, R316, R317). -/
def checkCtx (isWrite : Bool) (x : XForm) : Option IllFormed :=
  let f := if isWrite then x.a else x.d
  let other := if isWrite then x.d else x.a
  firstFailure [
    checkSlot x, (other != 0 || x.b != 0 || x.fs != 0 || x.md != 0, .nonZeroField),
    (12 ≤ x.c.toNat, .specialRegister),
    (isWrite && !(x.c == 0 || 8 ≤ x.c.toNat), .specialRegister),
    (!(if isWrite then xIsV f.toNat else xIsReg f.toNat), .registerKind),
    (f.toNat % trapRegWidth x.c.toNat != 0, .unalignedRun)]

/-- The first static check of R84 an instruction fails, if any. Operations and events carry no encoding to check. -/
def Instr.check : Instr → Option IllFormed
  | .nop | .cExit | .cYield | .waitAll | .reform | .home | .yield | .exit => none
  | .cMov _ | .cMovImm _ | .cAdd _ | .cAddImm _ | .cSub _ | .cSubImm _ | .cMul _ | .cMulImm _ | .cAnd _ | .cAndImm _
  | .cOr _ | .cOrImm _ | .cXor _ | .cXorImm _ | .cShl _ | .cShlImm _ | .cShrl _ | .cShrlImm _ | .cShra _ | .cShraImm _
  | .cFadd _ | .cFsub _ | .cFmul _ | .cFmax _ | .cFmin _ => none
  | .add f | .sub f | .mul f | .mulhi f | .mulhiu f | .and f | .or f | .xor f | .andn f | .orn f | .shl f | .shrl f
  | .shra f | .rotl f | .rotr f | .min f | .max f | .minu f | .maxu f | .addsat f | .subsat f | .bfx f | .bfi f
  | .permb f | .fadd f | .fsub f | .fmul f | .fmac f | .fmin f | .fmax f | .fdiv f | .fscale f => checkR 1 f
  | .add64 f | .sub64 f | .lea f => checkR 2 f
  | .abs f | .popc f | .clz f | .ctz f | .brev f | .fabs f | .fneg f | .frcp f | .frsq f | .fsqrt f | .fexp2 f
  | .flog2 f | .fsin f | .fcos f | .ftanh f | .ffloor f | .fceil f | .frint f | .ftrunc f | .fgetexp f | .fclass f => checkUnary f
  | .cmpeq f | .cmpne f | .cmplt f | .cmple f | .cmpltu f | .cmpleu f | .fcmpeq f | .fcmpne f | .fcmplt f | .fcmple f
  | .fcmpun f => checkCompare f
  | .pand f | .por f | .pxor f => checkPredicate f
  | .pnot f => firstFailure [(f.b != 0, .nonZeroField), ((checkPredicate f).isSome, .predicateNumber)]
  | .sel f => checkSel f
  | .mov f => checkMov f
  | .radd f => checkRadd f
  | .srd f => checkSrd f
  | .swr f => checkSwr f
  | .p2v f => firstFailure [(f.m != 0, .mode), (f.a != 0 || f.b != 0, .nonZeroField)]
  | .v2p f => firstFailure [(f.m != 0, .mode), (f.d != 0 || f.b != 0, .nonZeroField)]
  | .hadd2 f | .hmul2 f | .hmac2 f => checkPacked f
  | .dp4a f | .shfli f | .shflu f | .shfld f | .shflx f => checkImmR 128 f
  | .qbc f => checkImmR 4 f
  | .voteall f | .voteany f | .ballot f | .qxh f | .qxv f | .qxd f => checkVote f
  | .elect f => firstFailure [(f.m != 0, .mode), (f.a != 0 || f.b != 0, .nonZeroField)]
  | .lred f => checkReduce false f
  | .lscan f => checkReduce true f
  | .brx f | .ret f => checkIndirect false f
  | .callx f => checkIndirect true f
  | .addi _ | .muli _ | .andi _ | .ori _ | .xori _ | .mini _ | .maxi _ => none
  | .shli f | .shrli f | .shrai f | .rotli f => if f.imm.toNat < 32 then none else some .nonZeroField
  | .cmpeqi f | .cmpnei f | .cmplti f | .cmplei f | .cmpltui f => if f.d.toNat < 8 then none else some .predicateNumber
  | .wait f => if f.d == 0 && f.a == 0 && f.imm.toNat < 256 then none else some .nonZeroField
  | .trap f => if f.d == 0 && f.a == 0 then none else some .nonZeroField
  | .bra _ | .call _ => none
  | .jmset f => checkJ 72 f
  | .jmget f => checkJ 64 f
  | .join f | .leave f | .waitj f => checkJ 1 f
  | .ld x => checkAccess true false x
  | .st x => checkAccess false false x
  | .ldl x => checkAccess true true x
  | .stl x => checkAccess false true x
  | .ldv x => checkLdv x
  | .vpin x | .vunpin x => checkPin x
  | .pf x => checkPf x
  | .smap x => checkStash true false x
  | .sunmap x | .sinv x => checkStash false false x
  | .sflush x => checkStash false true x
  | .acp16 x | .acps16 x => checkAcp x
  | .talloc x => checkTalloc x
  | .tfree x => checkTile false false x
  | .twait x => checkTile true false x
  | .tstate x => checkTile false true x
  | .fence x => checkFence false x
  | .fencex x => checkFence true x
  | .movi x => checkMovi x
  | .cvt x => checkCvt false x
  | .cvtpk x | .cvtq x => checkCvt true x
  | .dph x => checkDph x
  | .fma x => checkFma x
  | .atom x => checkAtomic 0 x
  | .upd x => checkAtomic 1 x
  | .cas x => checkAtomic 2 x
  | .chain x => checkAtomic 3 x
  | .binit x | .bdrop x => checkBarrier 0 true x
  | .barr x | .barw x => checkBarrier 1 false x
  | .bwait x => checkBarrier 1 true x
  | .btestp x => checkBarrier 2 true x
  | .tbar x => checkTbar x
  | .qinit x => checkQinit x
  | .enq x => checkQueue false x
  | .deq x => checkQueue true x
  | .qstat x => checkQstat x
  | .qclose x => checkQclose x
  | .qldt x => checkQldt x
  | .qrnd x | .qrndf x => checkQrnd 1 x
  | .qrnd2 x => checkQrnd 2 x
  | .qbern x => checkQbern x
  | .last x => checkLast x
  | .lswap x => checkLswap x
  | .mstr x => checkMstr x
  | .mdrn x => checkMdrn x
  | .mzero x => checkMzero x
  | .mstat x => checkMstat x
  | .twalk x => checkTwalk x
  | .twnext x => checkTwnext x
  | .twdone x => checkTwdone x
  | .hstep x => checkFabric 1 true 1 true false false x
  | .hread x => checkFabric 4 false 1 false false false x
  | .col x => checkFabric 1 true 2 false false false x
  | .cwait x => checkFabric 2 false 2 false false true x
  | .slotq x => checkFabric 1 true 2 false true false x
  | .gettime x => checkFabric 2 false 2 true false false x
  | .launch x => checkFabric 1 true 2 false false false x
  | .assert x => checkSystem true false false x
  | .brk x => checkSystem false true false x
  | .rtrap x => checkSystem false false true x
  | .idemb x | .ideme x => checkSystem false false false x
  | .ctxr x => checkCtx false x
  | .ctxw x => checkCtx true x
  | .instructionFetch _ _ _ | .operationCompletion _ _ | .deferredFault _ | .handlerEntry _ | .contextStop _
  | .formation _ | .formationPlacement _ | .groupRetire _ _ | .teamRetireStage2 _ | .teamRetireStage3 _
  | .gridComplete _ | .teamAdmit _ | .l1CopyExpire _ | .updCopyEviction _ | .chainTurn _ | .tileEntryFree _
  | .tileLanding _ | .tailObservation _ | .ringNop _ | .copyin _ | .copyout _ | .copylocal _ | .mcastin _ | .fill _
  | .commandCompletion _ _ | .commit _ | .timeout _ | .ldvTimeout _ | .cwaitTimeout _ | .gettimeRelease _
  | .qwData _ _ _ | .tableFetch _ _ _ | .requestAcceptance _ | .lastExecute _ _ | .lswapExecute _ _ | .mstrPass _ _
  | .mzeroExecute _ _ | .mdrnExecute _ _ | .mstatExecute _ _ | .pageWalk _ _ | .versionFlip _ | .launchRequest _
  | .gridAcceptance _ | .bindRecord _ _ _ | .preemption _ _ | .drainRedecision _ | .saveComplete _
  | .flushAndRestart _ | .powerUp _ | .perstDeassert _ | .bootVerify _ | .memoryInit _ | .ready
  | .railOutOfTolerance _ _ _ | .powerSample _ | .railOvercurrent _ _ _ | .withholdEnd _ | .apertureAccess _ _ _
  | .readCounter _ _ _ _ | .freeze _ _ | .clear _ _ | .setParam _ _ | .attest _ | .attach _ | .detach _ | .resume _
  | .preempt _ _ | .invalidate _ _ _ | .invalidationComplete _ | .migrate _ _ _ | .migrationRetry _
  | .setSaveRegion _ _ | .setAperture _ | .setLinkKey _ _ _ _ | .setCohort _ | .roster _ | .setGroup _ _ _
  | .regObject _ _ _ | .registerWrite _ _ | .linkTraining _ _ | .ptpMessage _ | .peerTableStage _ _ | .peerTableCommit
  | .ownershipSet _ _ | .fabricRequest _ | .moved _ | .packetDrop _ | .flitReceive _ | .flitRerequest _ _ _
  | .switchOver _ | .oldKeyDiscard _ _ | .slotTableEpoch | .slotBoundary | .messageSend _ | .messageDelivery _
  | .red _ | .partialTimer _ | .fwd _ | .finalReduction _ | .stepTimer _ | .dlv _ | .mcast _ | .heartbeatSend
  | .heartbeat _ _ _ | .peerLate _ | .peerSilent _ | .unlocked | .versionEntryCreate _ _ _ _ _
  | .versionEntryDestroy _ | .sendQueueBind _ _ => none

/-- An instruction none of whose static checks fails. -/
def Instr.wf (i : Instr) : Bool := (Instr.check i).isNone

end Sys2Proof
end

