-- ==== Sys2Proof/Decode.lean ====
section
/-! DEFINITION. The decoder, total on any bytes, and the encoder, both from R63 to R83. -/

namespace Sys2Proof

/-- Why bytes are no instruction (R84). -/
inductive Reject where
  /-- A halfword of the instruction is missing. -/
  | truncated
  /-- A reserved cop, SYS selector or op7 (R65, R66, R83). -/
  | reservedOpcode
  /-- A field the form keeps at 0 is not 0 (R66, R71, R76). -/
  | nonZeroField
  /-- The operands fail the named check of R84. -/
  | illFormed (e : IllFormed)
  deriving DecidableEq, Repr

/-- Length in halfwords from the first halfword (R63). -/
def lengthOf (h : Nat) : Nat := if h % 2 = 0 then 1 else if h % 4 = 1 then 2 else 4

/-- The number held little-endian by a list of bytes (R4). -/
def ofBytesLE : List Byte → Nat
  | [] => 0
  | b :: r => b.toNat + 256 * ofBytesLE r

/-- `n` bytes of a number, little-endian (R4). -/
def toBytesLE : Nat → Nat → List Byte
  | 0, _ => []
  | n + 1, w => BitVec.ofNat 8 w :: toBytesLE n (w / 256)

/-- Fields of the C form (R65). -/
def fieldsC (w : Nat) : CForm := ⟨BitVec.ofNat 5 (w >>> 7), BitVec.ofNat 5 (w >>> 2)⟩
/-- Fields of the R form (R67). -/
def fieldsR (w : Nat) : RForm :=
  ⟨BitVec.ofNat 7 (w >>> 18), BitVec.ofNat 7 (w >>> 11), BitVec.ofNat 7 (w >>> 4), BitVec.ofNat 2 (w >>> 2)⟩
/-- Fields of the I form (R69). -/
def fieldsI (w : Nat) : IForm :=
  ⟨BitVec.ofNat 7 (w >>> 18), BitVec.ofNat 7 (w >>> 11), BitVec.ofNat 9 (w >>> 2)⟩
/-- Fields of the B form (R70). -/
def fieldsB (w : Nat) : BForm := ⟨BitVec.ofNat 3 (w >>> 22), w.testBit 21, BitVec.ofNat 19 (w >>> 2)⟩
/-- Fields of the J form (R71). -/
def fieldsJ (w : Nat) : JForm :=
  ⟨BitVec.ofNat 4 (w >>> 21), BitVec.ofNat 7 (w >>> 14), BitVec.ofNat 3 (w >>> 11), w.testBit 10⟩
/-- Fields of the X form (R73). -/
def fieldsX (w : Nat) : XForm where
  d := BitVec.ofNat 8 (w >>> 9)
  a := BitVec.ofNat 8 (w >>> 17)
  b := BitVec.ofNat 8 (w >>> 25)
  c := BitVec.ofNat 8 (w >>> 33)
  p := BitVec.ofNat 3 (w >>> 41)
  pn := w.testBit 44
  wm := BitVec.ofNat 8 (w >>> 45)
  ss := BitVec.ofNat 3 (w >>> 53)
  se := w.testBit 56
  fs := BitVec.ofNat 3 (w >>> 57)
  md := BitVec.ofNat 4 (w >>> 60)
/-- Fields of the X-I form (R76). -/
def fieldsXI (w : Nat) : XIForm :=
  ⟨BitVec.ofNat 8 (w >>> 9), BitVec.ofNat 3 (w >>> 17), w.testBit 20, BitVec.ofNat 7 (w >>> 25),
    BitVec.ofNat 32 (w >>> 32)⟩

/-- The compact form (R65, R66). -/
def decodeC (w : Nat) : Except Reject Instr :=
  let f := fieldsC w
  match bits w 15 12, w.testBit 1 with
  | 0, false => .ok (.cMov f)
  | 0, true => .ok (.cMovImm f)
  | 1, false => .ok (.cAdd f)
  | 1, true => .ok (.cAddImm f)
  | 2, false => .ok (.cSub f)
  | 2, true => .ok (.cSubImm f)
  | 3, false => .ok (.cMul f)
  | 3, true => .ok (.cMulImm f)
  | 4, false => .ok (.cAnd f)
  | 4, true => .ok (.cAndImm f)
  | 5, false => .ok (.cOr f)
  | 5, true => .ok (.cOrImm f)
  | 6, false => .ok (.cXor f)
  | 6, true => .ok (.cXorImm f)
  | 7, false => .ok (.cShl f)
  | 7, true => .ok (.cShlImm f)
  | 8, false => .ok (.cShrl f)
  | 8, true => .ok (.cShrlImm f)
  | 9, false => .ok (.cShra f)
  | 9, true => .ok (.cShraImm f)
  | 10, false => .ok (.cFadd f)
  | 11, false => .ok (.cFsub f)
  | 12, false => .ok (.cFmul f)
  | 13, false => .ok (.cFmax f)
  | 14, false => .ok (.cFmin f)
  | 15, false =>
    if f.b != 0 then .error .nonZeroField else
    match f.d.toNat with
    | 0 => .ok .nop
    | 1 => .ok .cExit
    | 2 => .ok .cYield
    | 3 => .ok .waitAll
    | _ => .error .reservedOpcode
  | _, _ => .error .reservedOpcode

/-- A 32-bit form whose every field must be 0 (R67). -/
def nullary (w : Nat) (i : Instr) : Except Reject Instr :=
  if bits w 24 2 = 0 then .ok i else .error .nonZeroField

/-- A J-form instruction, whose [9:2] must be 0 (R71). -/
def decodeJ (w : Nat) (i : JForm → Instr) : Except Reject Instr :=
  if bits w 9 2 = 0 then .ok (i (fieldsJ w)) else .error .nonZeroField

/-- The 32-bit opcode map (R82). -/
def decode32 (w : Nat) : Except Reject Instr :=
  match bits w 31 25 with
  | 0 => .ok (.add (fieldsR w))
  | 1 => .ok (.sub (fieldsR w))
  | 2 => .ok (.mul (fieldsR w))
  | 3 => .ok (.mulhi (fieldsR w))
  | 4 => .ok (.mulhiu (fieldsR w))
  | 5 => .ok (.and (fieldsR w))
  | 6 => .ok (.or (fieldsR w))
  | 7 => .ok (.xor (fieldsR w))
  | 8 => .ok (.andn (fieldsR w))
  | 9 => .ok (.orn (fieldsR w))
  | 10 => .ok (.shl (fieldsR w))
  | 11 => .ok (.shrl (fieldsR w))
  | 12 => .ok (.shra (fieldsR w))
  | 13 => .ok (.rotl (fieldsR w))
  | 14 => .ok (.rotr (fieldsR w))
  | 15 => .ok (.min (fieldsR w))
  | 16 => .ok (.max (fieldsR w))
  | 17 => .ok (.minu (fieldsR w))
  | 18 => .ok (.maxu (fieldsR w))
  | 19 => .ok (.abs (fieldsR w))
  | 20 => .ok (.addsat (fieldsR w))
  | 21 => .ok (.subsat (fieldsR w))
  | 22 => .ok (.popc (fieldsR w))
  | 23 => .ok (.clz (fieldsR w))
  | 24 => .ok (.ctz (fieldsR w))
  | 25 => .ok (.brev (fieldsR w))
  | 26 => .ok (.bfx (fieldsR w))
  | 27 => .ok (.bfi (fieldsR w))
  | 28 => .ok (.permb (fieldsR w))
  | 29 => .ok (.lea (fieldsR w))
  | 30 => .ok (.add64 (fieldsR w))
  | 31 => .ok (.sub64 (fieldsR w))
  | 32 => .ok (.sel (fieldsR w))
  | 33 => .ok (.mov (fieldsR w))
  | 34 => .ok (.cmpeq (fieldsR w))
  | 35 => .ok (.cmpne (fieldsR w))
  | 36 => .ok (.cmplt (fieldsR w))
  | 37 => .ok (.cmple (fieldsR w))
  | 38 => .ok (.cmpltu (fieldsR w))
  | 39 => .ok (.cmpleu (fieldsR w))
  | 40 => .ok (.pand (fieldsR w))
  | 41 => .ok (.por (fieldsR w))
  | 42 => .ok (.pxor (fieldsR w))
  | 43 => .ok (.pnot (fieldsR w))
  | 44 => .ok (.p2v (fieldsR w))
  | 45 => .ok (.v2p (fieldsR w))
  | 46 => .ok (.srd (fieldsR w))
  | 47 => .ok (.swr (fieldsR w))
  | 48 => .ok (.addi (fieldsI w))
  | 49 => .ok (.muli (fieldsI w))
  | 50 => .ok (.andi (fieldsI w))
  | 51 => .ok (.ori (fieldsI w))
  | 52 => .ok (.xori (fieldsI w))
  | 53 => .ok (.shli (fieldsI w))
  | 54 => .ok (.shrli (fieldsI w))
  | 55 => .ok (.shrai (fieldsI w))
  | 56 => .ok (.rotli (fieldsI w))
  | 57 => .ok (.mini (fieldsI w))
  | 58 => .ok (.maxi (fieldsI w))
  | 59 => .ok (.cmpeqi (fieldsI w))
  | 60 => .ok (.cmpnei (fieldsI w))
  | 61 => .ok (.cmplti (fieldsI w))
  | 62 => .ok (.cmplei (fieldsI w))
  | 63 => .ok (.cmpltui (fieldsI w))
  | 64 => .ok (.fadd (fieldsR w))
  | 65 => .ok (.fsub (fieldsR w))
  | 66 => .ok (.fmul (fieldsR w))
  | 67 => .ok (.fmac (fieldsR w))
  | 68 => .ok (.fmin (fieldsR w))
  | 69 => .ok (.fmax (fieldsR w))
  | 70 => .ok (.fabs (fieldsR w))
  | 71 => .ok (.fneg (fieldsR w))
  | 72 => .ok (.fcmpeq (fieldsR w))
  | 73 => .ok (.fcmpne (fieldsR w))
  | 74 => .ok (.fcmplt (fieldsR w))
  | 75 => .ok (.fcmple (fieldsR w))
  | 76 => .ok (.fcmpun (fieldsR w))
  | 77 => .ok (.frcp (fieldsR w))
  | 78 => .ok (.frsq (fieldsR w))
  | 79 => .ok (.fsqrt (fieldsR w))
  | 80 => .ok (.fdiv (fieldsR w))
  | 81 => .ok (.fexp2 (fieldsR w))
  | 82 => .ok (.flog2 (fieldsR w))
  | 83 => .ok (.fsin (fieldsR w))
  | 84 => .ok (.fcos (fieldsR w))
  | 85 => .ok (.ftanh (fieldsR w))
  | 86 => .ok (.ffloor (fieldsR w))
  | 87 => .ok (.fceil (fieldsR w))
  | 88 => .ok (.frint (fieldsR w))
  | 89 => .ok (.ftrunc (fieldsR w))
  | 90 => .ok (.fscale (fieldsR w))
  | 91 => .ok (.fgetexp (fieldsR w))
  | 92 => .ok (.fclass (fieldsR w))
  | 93 => .ok (.hadd2 (fieldsR w))
  | 94 => .ok (.hmul2 (fieldsR w))
  | 95 => .ok (.hmac2 (fieldsR w))
  | 96 => .ok (.bra (fieldsB w))
  | 97 => .ok (.brx (fieldsR w))
  | 98 => .ok (.call (fieldsB w))
  | 99 => .ok (.callx (fieldsR w))
  | 100 => .ok (.ret (fieldsR w))
  | 101 => decodeJ w .jmset
  | 102 => decodeJ w .jmget
  | 103 => decodeJ w .join
  | 104 => decodeJ w .leave
  | 105 => decodeJ w .waitj
  | 106 => nullary w .reform
  | 107 => nullary w .home
  | 108 => nullary w .yield
  | 109 => nullary w .exit
  | 110 => .ok (.wait (fieldsI w))
  | 111 => .ok (.trap (fieldsI w))
  | 112 => .ok (.shfli (fieldsR w))
  | 113 => .ok (.shflu (fieldsR w))
  | 114 => .ok (.shfld (fieldsR w))
  | 115 => .ok (.shflx (fieldsR w))
  | 116 => .ok (.voteall (fieldsR w))
  | 117 => .ok (.voteany (fieldsR w))
  | 118 => .ok (.ballot (fieldsR w))
  | 119 => .ok (.lred (fieldsR w))
  | 120 => .ok (.lscan (fieldsR w))
  | 121 => .ok (.qxh (fieldsR w))
  | 122 => .ok (.qxv (fieldsR w))
  | 123 => .ok (.qxd (fieldsR w))
  | 124 => .ok (.qbc (fieldsR w))
  | 125 => .ok (.elect (fieldsR w))
  | 126 => .ok (.dp4a (fieldsR w))
  | 127 => .ok (.radd (fieldsR w))
  | _ => .error .reservedOpcode

/-- The 64-bit opcode map (R83). -/
def decode64 (w : Nat) : Except Reject Instr :=
  match bits w 8 2 with
  | 0 => .ok (.ld (fieldsX w))
  | 1 => .ok (.st (fieldsX w))
  | 2 => .ok (.ldl (fieldsX w))
  | 3 => .ok (.stl (fieldsX w))
  | 4 => .ok (.ldv (fieldsX w))
  | 5 => .ok (.vpin (fieldsX w))
  | 6 => .ok (.vunpin (fieldsX w))
  | 7 => .ok (.pf (fieldsX w))
  | 8 => .ok (.smap (fieldsX w))
  | 9 => .ok (.sunmap (fieldsX w))
  | 10 => .ok (.sflush (fieldsX w))
  | 11 => .ok (.sinv (fieldsX w))
  | 12 => .ok (.acp16 (fieldsX w))
  | 13 => .ok (.acps16 (fieldsX w))
  | 14 => .ok (.talloc (fieldsX w))
  | 15 => .ok (.tfree (fieldsX w))
  | 16 => .ok (.twait (fieldsX w))
  | 17 => .ok (.tstate (fieldsX w))
  | 18 => .ok (.fence (fieldsX w))
  | 19 => .ok (.fencex (fieldsX w))
  | 24 => if bits w 24 21 = 0 then .ok (.movi (fieldsXI w)) else .error .nonZeroField
  | 25 => .ok (.cvt (fieldsX w))
  | 26 => .ok (.cvtpk (fieldsX w))
  | 27 => .ok (.cvtq (fieldsX w))
  | 28 => .ok (.dph (fieldsX w))
  | 29 => .ok (.fma (fieldsX w))
  | 32 => .ok (.atom (fieldsX w))
  | 33 => .ok (.upd (fieldsX w))
  | 34 => .ok (.cas (fieldsX w))
  | 35 => .ok (.chain (fieldsX w))
  | 36 => .ok (.binit (fieldsX w))
  | 37 => .ok (.barr (fieldsX w))
  | 38 => .ok (.bwait (fieldsX w))
  | 39 => .ok (.barw (fieldsX w))
  | 40 => .ok (.btestp (fieldsX w))
  | 41 => .ok (.bdrop (fieldsX w))
  | 42 => .ok (.tbar (fieldsX w))
  | 48 => .ok (.qinit (fieldsX w))
  | 49 => .ok (.enq (fieldsX w))
  | 50 => .ok (.deq (fieldsX w))
  | 51 => .ok (.qstat (fieldsX w))
  | 52 => .ok (.qclose (fieldsX w))
  | 56 => .ok (.qldt (fieldsX w))
  | 57 => .ok (.qrnd (fieldsX w))
  | 58 => .ok (.qrndf (fieldsX w))
  | 59 => .ok (.qrnd2 (fieldsX w))
  | 60 => .ok (.qbern (fieldsX w))
  | 64 => .ok (.last (fieldsX w))
  | 65 => .ok (.lswap (fieldsX w))
  | 66 => .ok (.mstr (fieldsX w))
  | 67 => .ok (.mdrn (fieldsX w))
  | 68 => .ok (.mzero (fieldsX w))
  | 69 => .ok (.mstat (fieldsX w))
  | 70 => .ok (.twalk (fieldsX w))
  | 71 => .ok (.twnext (fieldsX w))
  | 72 => .ok (.twdone (fieldsX w))
  | 80 => .ok (.hstep (fieldsX w))
  | 81 => .ok (.hread (fieldsX w))
  | 82 => .ok (.col (fieldsX w))
  | 83 => .ok (.cwait (fieldsX w))
  | 84 => .ok (.slotq (fieldsX w))
  | 85 => .ok (.gettime (fieldsX w))
  | 88 => .ok (.assert (fieldsX w))
  | 89 => .ok (.brk (fieldsX w))
  | 90 => .ok (.rtrap (fieldsX w))
  | 91 => .ok (.idemb (fieldsX w))
  | 92 => .ok (.ideme (fieldsX w))
  | 93 => .ok (.launch (fieldsX w))
  | 94 => .ok (.ctxr (fieldsX w))
  | 95 => .ok (.ctxw (fieldsX w))
  | _ => .error .reservedOpcode

/-- The instruction of `n` halfwords with the bits `w`, before the checks of R84 on its operands. -/
def decodeRaw (n w : Nat) : Except Reject Instr :=
  if n = 1 then decodeC w else if n = 2 then decode32 w else decode64 w

/-- The instruction of `n` halfwords with the bits `w` (R63 to R84). -/
def decodeBits (n w : Nat) : Except Reject Instr :=
  match decodeRaw n w with
  | .error e => .error e
  | .ok i =>
    match Instr.check i with
    | some e => .error (.illFormed e)
    | none => .ok i

/-- The first instruction of a list of bytes, with its length in halfwords (R63). -/
def decode (bs : List Byte) : Except Reject (Instr × Nat) :=
  let n := lengthOf (ofBytesLE (bs.take 2))
  if bs.length < 2 * n ∨ bs.length < 2 then .error .truncated else
  match decodeBits n (ofBytesLE (bs.take (2 * n))) with
  | .error e => .error e
  | .ok i => .ok (i, n)

/-- The instruction the decoder reads from an instruction whose bits are `w`; bits above `nbits` are 0. -/
def decodeTableWord (nbits w : Nat) : Option Instr :=
  match decode (toBytesLE 8 (w % 2 ^ nbits)) with
  | .ok (i, _) => some i
  | .error _ => none

/-- A number with bit `n` set when `b` holds. -/
def flag (n : Nat) (b : Bool) : Nat := if b then 2 ^ n else 0

/-- The C form's bits (R65). -/
def wordC (cop : Nat) (imm : Bool) (f : CForm) : Nat := cop * 2 ^ 12 + f.d.toNat * 2 ^ 7 + f.b.toNat * 2 ^ 2 + flag 1 imm
/-- The R form's bits (R67). -/
def wordR (op : Nat) (f : RForm) : Nat :=
  op * 2 ^ 25 + f.d.toNat * 2 ^ 18 + f.a.toNat * 2 ^ 11 + f.b.toNat * 2 ^ 4 + f.m.toNat * 2 ^ 2 + 1
/-- The I form's bits (R69). -/
def wordI (op : Nat) (f : IForm) : Nat := op * 2 ^ 25 + f.d.toNat * 2 ^ 18 + f.a.toNat * 2 ^ 11 + f.imm.toNat * 2 ^ 2 + 1
/-- The B form's bits (R70). -/
def wordB (op : Nat) (f : BForm) : Nat := op * 2 ^ 25 + f.p.toNat * 2 ^ 22 + flag 21 f.n + f.off.toNat * 2 ^ 2 + 1
/-- The J form's bits (R71). -/
def wordJ (op : Nat) (f : JForm) : Nat :=
  op * 2 ^ 25 + f.j.toNat * 2 ^ 21 + f.a.toNat * 2 ^ 14 + f.p.toNat * 2 ^ 11 + flag 10 f.n + 1
/-- The X form's bits (R73). -/
def wordX (op : Nat) (x : XForm) : Nat :=
  x.md.toNat * 2 ^ 60 + x.fs.toNat * 2 ^ 57 + flag 56 x.se + x.ss.toNat * 2 ^ 53 + x.wm.toNat * 2 ^ 45 + flag 44 x.pn
    + x.p.toNat * 2 ^ 41 + x.c.toNat * 2 ^ 33 + x.b.toNat * 2 ^ 25 + x.a.toNat * 2 ^ 17 + x.d.toNat * 2 ^ 9
    + op * 2 ^ 2 + 3
/-- The X-I form's bits (R76). -/
def wordXI (op : Nat) (x : XIForm) : Nat :=
  x.imm.toNat * 2 ^ 32 + x.md.toNat * 2 ^ 25 + flag 20 x.pn + x.p.toNat * 2 ^ 17 + x.d.toNat * 2 ^ 9 + op * 2 ^ 2 + 3

/-- An instruction's length in halfwords and its bits; an operation or event of the table has none. -/
def encode : Instr → Option (Nat × Nat)
  | .cMov f => some (1, wordC 0 false f)
  | .cMovImm f => some (1, wordC 0 true f)
  | .cAdd f => some (1, wordC 1 false f)
  | .cAddImm f => some (1, wordC 1 true f)
  | .cSub f => some (1, wordC 2 false f)
  | .cSubImm f => some (1, wordC 2 true f)
  | .cMul f => some (1, wordC 3 false f)
  | .cMulImm f => some (1, wordC 3 true f)
  | .cAnd f => some (1, wordC 4 false f)
  | .cAndImm f => some (1, wordC 4 true f)
  | .cOr f => some (1, wordC 5 false f)
  | .cOrImm f => some (1, wordC 5 true f)
  | .cXor f => some (1, wordC 6 false f)
  | .cXorImm f => some (1, wordC 6 true f)
  | .cShl f => some (1, wordC 7 false f)
  | .cShlImm f => some (1, wordC 7 true f)
  | .cShrl f => some (1, wordC 8 false f)
  | .cShrlImm f => some (1, wordC 8 true f)
  | .cShra f => some (1, wordC 9 false f)
  | .cShraImm f => some (1, wordC 9 true f)
  | .cFadd f => some (1, wordC 10 false f)
  | .cFsub f => some (1, wordC 11 false f)
  | .cFmul f => some (1, wordC 12 false f)
  | .cFmax f => some (1, wordC 13 false f)
  | .cFmin f => some (1, wordC 14 false f)
  | .nop => some (1, 0xF000)
  | .cExit => some (1, 0xF080)
  | .cYield => some (1, 0xF100)
  | .waitAll => some (1, 0xF180)
  | .add f => some (2, wordR 0 f)
  | .sub f => some (2, wordR 1 f)
  | .mul f => some (2, wordR 2 f)
  | .mulhi f => some (2, wordR 3 f)
  | .mulhiu f => some (2, wordR 4 f)
  | .and f => some (2, wordR 5 f)
  | .or f => some (2, wordR 6 f)
  | .xor f => some (2, wordR 7 f)
  | .andn f => some (2, wordR 8 f)
  | .orn f => some (2, wordR 9 f)
  | .shl f => some (2, wordR 10 f)
  | .shrl f => some (2, wordR 11 f)
  | .shra f => some (2, wordR 12 f)
  | .rotl f => some (2, wordR 13 f)
  | .rotr f => some (2, wordR 14 f)
  | .min f => some (2, wordR 15 f)
  | .max f => some (2, wordR 16 f)
  | .minu f => some (2, wordR 17 f)
  | .maxu f => some (2, wordR 18 f)
  | .abs f => some (2, wordR 19 f)
  | .addsat f => some (2, wordR 20 f)
  | .subsat f => some (2, wordR 21 f)
  | .popc f => some (2, wordR 22 f)
  | .clz f => some (2, wordR 23 f)
  | .ctz f => some (2, wordR 24 f)
  | .brev f => some (2, wordR 25 f)
  | .bfx f => some (2, wordR 26 f)
  | .bfi f => some (2, wordR 27 f)
  | .permb f => some (2, wordR 28 f)
  | .lea f => some (2, wordR 29 f)
  | .add64 f => some (2, wordR 30 f)
  | .sub64 f => some (2, wordR 31 f)
  | .sel f => some (2, wordR 32 f)
  | .mov f => some (2, wordR 33 f)
  | .cmpeq f => some (2, wordR 34 f)
  | .cmpne f => some (2, wordR 35 f)
  | .cmplt f => some (2, wordR 36 f)
  | .cmple f => some (2, wordR 37 f)
  | .cmpltu f => some (2, wordR 38 f)
  | .cmpleu f => some (2, wordR 39 f)
  | .pand f => some (2, wordR 40 f)
  | .por f => some (2, wordR 41 f)
  | .pxor f => some (2, wordR 42 f)
  | .pnot f => some (2, wordR 43 f)
  | .p2v f => some (2, wordR 44 f)
  | .v2p f => some (2, wordR 45 f)
  | .srd f => some (2, wordR 46 f)
  | .swr f => some (2, wordR 47 f)
  | .addi f => some (2, wordI 48 f)
  | .muli f => some (2, wordI 49 f)
  | .andi f => some (2, wordI 50 f)
  | .ori f => some (2, wordI 51 f)
  | .xori f => some (2, wordI 52 f)
  | .shli f => some (2, wordI 53 f)
  | .shrli f => some (2, wordI 54 f)
  | .shrai f => some (2, wordI 55 f)
  | .rotli f => some (2, wordI 56 f)
  | .mini f => some (2, wordI 57 f)
  | .maxi f => some (2, wordI 58 f)
  | .cmpeqi f => some (2, wordI 59 f)
  | .cmpnei f => some (2, wordI 60 f)
  | .cmplti f => some (2, wordI 61 f)
  | .cmplei f => some (2, wordI 62 f)
  | .cmpltui f => some (2, wordI 63 f)
  | .fadd f => some (2, wordR 64 f)
  | .fsub f => some (2, wordR 65 f)
  | .fmul f => some (2, wordR 66 f)
  | .fmac f => some (2, wordR 67 f)
  | .fmin f => some (2, wordR 68 f)
  | .fmax f => some (2, wordR 69 f)
  | .fabs f => some (2, wordR 70 f)
  | .fneg f => some (2, wordR 71 f)
  | .fcmpeq f => some (2, wordR 72 f)
  | .fcmpne f => some (2, wordR 73 f)
  | .fcmplt f => some (2, wordR 74 f)
  | .fcmple f => some (2, wordR 75 f)
  | .fcmpun f => some (2, wordR 76 f)
  | .frcp f => some (2, wordR 77 f)
  | .frsq f => some (2, wordR 78 f)
  | .fsqrt f => some (2, wordR 79 f)
  | .fdiv f => some (2, wordR 80 f)
  | .fexp2 f => some (2, wordR 81 f)
  | .flog2 f => some (2, wordR 82 f)
  | .fsin f => some (2, wordR 83 f)
  | .fcos f => some (2, wordR 84 f)
  | .ftanh f => some (2, wordR 85 f)
  | .ffloor f => some (2, wordR 86 f)
  | .fceil f => some (2, wordR 87 f)
  | .frint f => some (2, wordR 88 f)
  | .ftrunc f => some (2, wordR 89 f)
  | .fscale f => some (2, wordR 90 f)
  | .fgetexp f => some (2, wordR 91 f)
  | .fclass f => some (2, wordR 92 f)
  | .hadd2 f => some (2, wordR 93 f)
  | .hmul2 f => some (2, wordR 94 f)
  | .hmac2 f => some (2, wordR 95 f)
  | .bra f => some (2, wordB 96 f)
  | .brx f => some (2, wordR 97 f)
  | .call f => some (2, wordB 98 f)
  | .callx f => some (2, wordR 99 f)
  | .ret f => some (2, wordR 100 f)
  | .jmset f => some (2, wordJ 101 f)
  | .jmget f => some (2, wordJ 102 f)
  | .join f => some (2, wordJ 103 f)
  | .leave f => some (2, wordJ 104 f)
  | .waitj f => some (2, wordJ 105 f)
  | .reform => some (2, 106 * 2 ^ 25 + 1)
  | .home => some (2, 107 * 2 ^ 25 + 1)
  | .yield => some (2, 108 * 2 ^ 25 + 1)
  | .exit => some (2, 109 * 2 ^ 25 + 1)
  | .wait f => some (2, wordI 110 f)
  | .trap f => some (2, wordI 111 f)
  | .shfli f => some (2, wordR 112 f)
  | .shflu f => some (2, wordR 113 f)
  | .shfld f => some (2, wordR 114 f)
  | .shflx f => some (2, wordR 115 f)
  | .voteall f => some (2, wordR 116 f)
  | .voteany f => some (2, wordR 117 f)
  | .ballot f => some (2, wordR 118 f)
  | .lred f => some (2, wordR 119 f)
  | .lscan f => some (2, wordR 120 f)
  | .qxh f => some (2, wordR 121 f)
  | .qxv f => some (2, wordR 122 f)
  | .qxd f => some (2, wordR 123 f)
  | .qbc f => some (2, wordR 124 f)
  | .elect f => some (2, wordR 125 f)
  | .dp4a f => some (2, wordR 126 f)
  | .radd f => some (2, wordR 127 f)
  | .ld x => some (4, wordX 0 x)
  | .st x => some (4, wordX 1 x)
  | .ldl x => some (4, wordX 2 x)
  | .stl x => some (4, wordX 3 x)
  | .ldv x => some (4, wordX 4 x)
  | .vpin x => some (4, wordX 5 x)
  | .vunpin x => some (4, wordX 6 x)
  | .pf x => some (4, wordX 7 x)
  | .smap x => some (4, wordX 8 x)
  | .sunmap x => some (4, wordX 9 x)
  | .sflush x => some (4, wordX 10 x)
  | .sinv x => some (4, wordX 11 x)
  | .acp16 x => some (4, wordX 12 x)
  | .acps16 x => some (4, wordX 13 x)
  | .talloc x => some (4, wordX 14 x)
  | .tfree x => some (4, wordX 15 x)
  | .twait x => some (4, wordX 16 x)
  | .tstate x => some (4, wordX 17 x)
  | .fence x => some (4, wordX 18 x)
  | .fencex x => some (4, wordX 19 x)
  | .movi x => some (4, wordXI 24 x)
  | .cvt x => some (4, wordX 25 x)
  | .cvtpk x => some (4, wordX 26 x)
  | .cvtq x => some (4, wordX 27 x)
  | .dph x => some (4, wordX 28 x)
  | .fma x => some (4, wordX 29 x)
  | .atom x => some (4, wordX 32 x)
  | .upd x => some (4, wordX 33 x)
  | .cas x => some (4, wordX 34 x)
  | .chain x => some (4, wordX 35 x)
  | .binit x => some (4, wordX 36 x)
  | .barr x => some (4, wordX 37 x)
  | .bwait x => some (4, wordX 38 x)
  | .barw x => some (4, wordX 39 x)
  | .btestp x => some (4, wordX 40 x)
  | .bdrop x => some (4, wordX 41 x)
  | .tbar x => some (4, wordX 42 x)
  | .qinit x => some (4, wordX 48 x)
  | .enq x => some (4, wordX 49 x)
  | .deq x => some (4, wordX 50 x)
  | .qstat x => some (4, wordX 51 x)
  | .qclose x => some (4, wordX 52 x)
  | .qldt x => some (4, wordX 56 x)
  | .qrnd x => some (4, wordX 57 x)
  | .qrndf x => some (4, wordX 58 x)
  | .qrnd2 x => some (4, wordX 59 x)
  | .qbern x => some (4, wordX 60 x)
  | .last x => some (4, wordX 64 x)
  | .lswap x => some (4, wordX 65 x)
  | .mstr x => some (4, wordX 66 x)
  | .mdrn x => some (4, wordX 67 x)
  | .mzero x => some (4, wordX 68 x)
  | .mstat x => some (4, wordX 69 x)
  | .twalk x => some (4, wordX 70 x)
  | .twnext x => some (4, wordX 71 x)
  | .twdone x => some (4, wordX 72 x)
  | .hstep x => some (4, wordX 80 x)
  | .hread x => some (4, wordX 81 x)
  | .col x => some (4, wordX 82 x)
  | .cwait x => some (4, wordX 83 x)
  | .slotq x => some (4, wordX 84 x)
  | .gettime x => some (4, wordX 85 x)
  | .assert x => some (4, wordX 88 x)
  | .brk x => some (4, wordX 89 x)
  | .rtrap x => some (4, wordX 90 x)
  | .idemb x => some (4, wordX 91 x)
  | .ideme x => some (4, wordX 92 x)
  | .launch x => some (4, wordX 93 x)
  | .ctxr x => some (4, wordX 94 x)
  | .ctxw x => some (4, wordX 95 x)
  | .instructionFetch _ _ _ | .operationCompletion _ _ | .deferredFault _ | .handlerEntry _ | .contextStop _
  | .formation _ | .formationPlacement _ | .groupRetire _ _ | .teamRetireStage2 _ | .teamRetireStage3 _
  | .gridComplete _ | .teamAdmit _ | .l1CopyExpire _ | .updCopyEviction _ | .chainTurn _ | .tileEntryFree _
  | .tileLanding _ | .tailObservation _ | .ringNop _ | .copyin _ | .copyout _ | .copylocal _ | .mcastin _ | .fill _
  | .commandCompletion _ _ | .commit _ | .timeout _ | .ldvTimeout _ | .cwaitTimeout _ | .gettimeRelease _
  | .qwData _ _ _ | .tableFetch _ _ _ | .requestAcceptance _ | .lastExecute _ _ | .lswapExecute _ _ | .mstrPass _ _
  | .mzeroExecute _ _ | .mdrnExecute _ _ | .mstatExecute _ _ | .pageWalk _ _ | .versionFlip _ | .launchRequest _
  | .gridAcceptance _ | .bindRecord _ _ _ | .preemption _ _ | .drainRedecision _ | .saveComplete _
  | .flushAndRestart _ | .powerUp _ | .perstDeassert _ | .bootVerify _ | .memoryInit _ | .ready
  | .railOutOfTolerance _ _ _ | .powerSample _ | .railOvercurrent _ _ _ | .withholdEnd _ | .apertureAccess _ _ _
  | .readCounter _ _ _ _ | .freeze _ _ | .clear _ _ | .setParam _ _ | .attest _ | .attach _ | .detach _ | .resume _
  | .preempt _ _ | .invalidate _ _ _ | .invalidationComplete _ | .migrate _ _ _ | .migrationRetry _
  | .setSaveRegion _ _ | .setAperture _ | .setLinkKey _ _ _ _ | .setCohort _ | .roster _ | .setGroup _ _ _
  | .regObject _ _ _ | .registerWrite _ _ | .linkTraining _ _ | .ptpMessage _ | .peerTableStage _ _ | .peerTableCommit
  | .ownershipSet _ _ | .fabricRequest _ | .moved _ | .packetDrop _ | .flitReceive _ | .flitRerequest _ _ _
  | .switchOver _ | .oldKeyDiscard _ _ | .slotTableEpoch | .slotBoundary | .messageSend _ | .messageDelivery _
  | .red _ | .partialTimer _ | .fwd _ | .finalReduction _ | .stepTimer _ | .dlv _ | .mcast _ | .heartbeatSend
  | .heartbeat _ _ _ | .peerLate _ | .peerSilent _ | .unlocked | .versionEntryCreate _ _ _ _ _
  | .versionEntryDestroy _ | .sendQueueBind _ _ => none

end Sys2Proof
end

