-- ==== Sys2Proof/Machine/Numbers.lean ====
section
/-! DEFINITION. Number formats, rounding, exceptional values and format slots (R33 to R62), over exact rationals. -/

namespace Sys2Proof.Machine

open Sys2Proof

/-- The value of a code: a NaN, an infinity, or a finite number; a zero carries its sign in `neg`. -/
inductive Val where
  | nan
  | inf (neg : Bool)
  | fin (neg : Bool) (q : Rat)
  deriving DecidableEq, Repr

/-- The sticky flags an operation sets (R38). -/
structure FpFlags where
  inv : Bool
  ovf : Bool
  unf : Bool
  deriving DecidableEq, Repr

/-- No flag. -/
def FpFlags.none : FpFlags := ⟨false, false, false⟩
/-- Both operations' flags. -/
def FpFlags.or (a b : FpFlags) : FpFlags := ⟨a.inv || b.inv, a.ovf || b.ovf, a.unf || b.unf⟩
/-- INV alone. -/
def FpFlags.ofInv (b : Bool) : FpFlags := ⟨b, false, false⟩

/-- 2 to an integer power. -/
def pow2 (e : Int) : Rat := if 0 ≤ e then ((2 ^ e.toNat : Nat) : Rat) else 1 / ((2 ^ (-e).toNat : Nat) : Rat)

/-- floor(log2 x) of a positive rational. -/
def floorLog2 (x : Rat) : Int :=
  let k : Int := (Nat.log2 x.num.toNat : Int) - (Nat.log2 x.den : Int)
  if pow2 k ≤ x then k else k - 1

/-- Whether an FMT code (R54) names a floating format. -/
def isFloat (f : Nat) : Bool := f ≤ 5
/-- Mantissa bits t (R35). -/
def mantBits (f : Nat) : Nat := [23, 10, 7, 3, 2, 1].getD f 23
/-- Exponent bits (R35). -/
def expBits (f : Nat) : Nat := [8, 5, 8, 4, 5, 2].getD f 8
/-- Bias (R35). -/
def expBias (f : Nat) : Nat := 2 ^ (expBits f - 1) - 1
/-- emin (R35). -/
def expMin (f : Nat) : Int := 1 - (expBias f : Int)
/-- Width of a format in bits (R34, R35, R54). -/
def fmtWidth (f : Nat) : Nat := [32, 16, 16, 8, 8, 4, 8, 8, 4, 32, 64, 64].getD f 32
/-- The code of the greatest finite value (R35, R36). -/
def maxCode (f : Nat) : Nat := [0x7F7FFFFF, 0x7BFF, 0x7F7F, 0x7E, 0x7B, 0x7].getD f 0
/-- The default NaN (R36); E2M1 has none. -/
def defaultNaN (f : Nat) : Nat := [0x7FC00000, 0x7E00, 0x7FC0, 0x7F, 0x7E, 0].getD f 0
/-- +Inf, in the formats that have one (R36). -/
def infCode (f : Nat) : Nat := [0x7F800000, 0x7C00, 0x7F80, 0, 0x7C, 0].getD f 0
/-- Whether a floating format has infinities (R36). -/
def hasInf (f : Nat) : Bool := f != 3 && f != 5

/-- The sign bit of a code. -/
def signBit (f : Nat) (neg : Bool) : Nat := if neg then 2 ^ (fmtWidth f - 1) else 0

/-- The value of a floating code (R35, R36); bits above the format are ignored (R33). -/
def decodeFloat (f code : Nat) : Val :=
  let t := mantBits f
  let m := code % 2 ^ t
  let e := code / 2 ^ t % 2 ^ expBits f
  let neg := code.testBit (fmtWidth f - 1)
  let top := 2 ^ expBits f - 1
  if hasInf f && e == top then (if m = 0 then .inf neg else .nan)
  else if f == 3 && e == 15 && m == 7 then .nan
  else
    let mag : Rat := if e = 0 then (m : Rat) * pow2 (expMin f - t) else ((2 ^ t + m : Nat) : Rat) * pow2 ((e : Int) - expBias f - t)
    .fin neg (if neg then -mag else mag)

/-- The code of a value the format holds exactly, or of a special value (R35, R36). -/
def encodeFloat (f : Nat) : Val → Nat
  | .nan => defaultNaN f
  | .inf neg => signBit f neg + infCode f
  | .fin neg q =>
    if q = 0 then signBit f neg else
    let a := |q|
    let e := max (floorLog2 a) (expMin f)
    let m := (a * pow2 (mantBits f - e)).floor.toNat
    signBit f (q < 0) + (if m < 2 ^ mantBits f then m else ((e + expBias f).toNat * 2 ^ mantBits f + (m - 2 ^ mantBits f)))

/-- The greatest finite magnitude of a floating format. -/
def maxFinite (f : Nat) : Rat := match decodeFloat f (maxCode f) with | .fin _ q => q | _ => 0

/-- Least value of an integer format (R34). -/
def intMin (f : Nat) : Int :=
  if f = 6 then -128 else if f = 7 then 0 else if f = 8 then -8 else if f = 9 then -(2 ^ 31) else if f = 10 then -(2 ^ 62 - 2 ^ 20) else -(2 ^ 63)
/-- Greatest value of an integer format (R34). -/
def intMax (f : Nat) : Int :=
  if f = 6 then 127 else if f = 7 then 255 else if f = 8 then 7 else if f = 9 then 2 ^ 31 - 1 else if f = 10 then 2 ^ 62 - 2 ^ 20 - 1 else 2 ^ 63 - 1

/-- Reverses the low `n` bits of `x` (R62). -/
def brev : Nat → Nat → Nat
  | 0, _ => 0
  | n + 1, x => (x % 2) * 2 ^ n + brev n (x / 2)

/-- The dither offset d of mode RS (R56, R57). -/
def ditherOffset (ePos phase : Nat) : Nat := brev 5 ((ePos + phase) % 32)

/-- Rounds to an integer under RND 0 RNE, 1 RZ, 2 RU, 3 RD, 4 RS with offset d (R56). -/
def roundInt (mode d : Nat) (y : Rat) : Int :=
  let fl := y.floor
  if mode = 0 then
    let r := y - fl
    if r < 1 / 2 then fl else if 1 / 2 < r then fl + 1 else if fl % 2 = 0 then fl else fl + 1
  else if mode = 1 then (if y < 0 then y.ceil else fl)
  else if mode = 2 then y.ceil
  else if mode = 3 then fl
  else (y + ((d : Rat) + 1 / 2) / 32).floor

/-- The unit in the last place at a non-zero value (R56). -/
def ulpOf (f : Nat) (x : Rat) : Rat :=
  if isFloat f then pow2 (max (floorLog2 |x|) (expMin f) - mantBits f) else 1

/-- round_to with an unbounded exponent: the value before overflow is judged (R56). -/
def roundUnbounded (f mode d : Nat) (x : Rat) : Rat :=
  if x = 0 then 0 else (roundInt mode d (x / ulpOf f x) : Rat) * ulpOf f x

/-- Rounds an exact value under the IEEE range, overflow giving an infinity (R47, R117). Sets UNF under R38. -/
def roundIeee (f : Nat) : Val → Val × Bool
  | .nan => (.nan, false)
  | .inf n => (.inf n, false)
  | .fin n q =>
    if q = 0 then (.fin n 0, false) else
    let r := roundUnbounded f 0 0 q
    if maxFinite f < |r| then (.inf (q < 0), false) else (.fin (q < 0) r, |r| < pow2 (expMin f))

/-- The exact product of two values; the flag says that it is invalid (R117). -/
def mulVal : Val → Val → Val × Bool
  | .nan, _ => (.nan, false)
  | _, .nan => (.nan, false)
  | .inf a, .inf b => (.inf (a != b), false)
  | .inf a, .fin b q => if q = 0 then (.nan, true) else (.inf (a != b), false)
  | .fin a q, .inf b => if q = 0 then (.nan, true) else (.inf (a != b), false)
  | .fin a p, .fin b q => (.fin (a != b) (p * q), false)

/-- The exact sum of two terms; `rd` is mode RD, which gives an exact zero sum the sign − (R39). -/
def addVal (rd : Bool) : Val → Val → Val × Bool
  | .nan, _ => (.nan, false)
  | _, .nan => (.nan, false)
  | .inf a, .inf b => if a = b then (.inf a, false) else (.nan, true)
  | .inf a, .fin _ _ => (.inf a, false)
  | .fin _ _, .inf b => (.inf b, false)
  | .fin a p, .fin b q =>
    if p + q = 0 then (.fin (rd || (p = 0 && a && b)) 0, false)
    else (.fin (p + q < 0) (p + q), false)

/-- A value with its sign inverted. -/
def negVal : Val → Val
  | .nan => .nan
  | .inf a => .inf (!a)
  | .fin a q => .fin (!a) (-q)

/-- The exact a × b + c (R118). -/
def fmaVal (rd : Bool) (a b c : Val) : Val × Bool :=
  let (p, i) := mulVal a b
  if i then (.nan, c != .nan) else addVal rd p c

/-- The exact quotient (R117). -/
def divVal : Val → Val → Val × Bool
  | .nan, _ => (.nan, false)
  | _, .nan => (.nan, false)
  | .inf _, .inf _ => (.nan, true)
  | .inf a, .fin b _ => (.inf (a != b), false)
  | .fin a _, .inf b => (.fin (a != b) 0, false)
  | .fin a p, .fin b q =>
    if q = 0 then (if p = 0 then (.nan, true) else (.inf (a != b), false)) else (.fin (a != b) (p / q), false)

/-- The integer square root of `n` below 2^k, found bit by bit from a start `r`. -/
def isqrtFrom (n : Nat) : Nat → Nat → Nat
  | 0, r => r
  | k + 1, r => isqrtFrom n k (if (r + 2 ^ k) * (r + 2 ^ k) ≤ n then r + 2 ^ k else r)
/-- The integer square root. -/
def isqrt (n : Nat) : Nat := isqrtFrom n (Nat.log2 n / 2 + 1) 0

/-- A rational between the neighbours of √x that decides every rounding of √x to 24 bits: √x itself where it is rational
at the working scale, else a point strictly between two scaled integers (R119). -/
def sqrtPoint (x : Rat) : Rat :=
  -- √x = isqrt(x · 4^k) / 2^k up to one unit, with the scaled root above 2^40
  let k := (60 - floorLog2 x).toNat
  let n := (x * ((4 ^ k : Nat) : Rat)).floor.toNat
  let r := isqrt n
  (if ((r * r : Nat) : Rat) = x * ((4 ^ k : Nat) : Rat) then (r : Rat) else (r : Rat) + 1 / 2) / ((2 ^ k : Nat) : Rat)

/-- √ of a value (R119). -/
def sqrtVal : Val → Val × Bool
  | .nan => (.nan, false)
  | .inf n => if n then (.nan, true) else (.inf false, false)
  | .fin n q => if q = 0 then (.fin n 0, false) else if q < 0 then (.nan, true) else (.fin false (sqrtPoint q), false)

/-- Delivers an exact result in a format under RNE with its flags (R37, R38). -/
def deliver (f : Nat) (x : Val × Bool) : Nat × FpFlags :=
  let (v, unf) := roundIeee f x.1
  (encodeFloat f v, ⟨x.2, false, unf⟩)

/-- a + b in a format under RNE. -/
def fpAdd (f a b : Nat) : Nat × FpFlags := deliver f (addVal false (decodeFloat f a) (decodeFloat f b))
/-- a − b in a format under RNE. -/
def fpSub (f a b : Nat) : Nat × FpFlags := deliver f (addVal false (decodeFloat f a) (negVal (decodeFloat f b)))
/-- a × b in a format under RNE. -/
def fpMul (f a b : Nat) : Nat × FpFlags := deliver f (mulVal (decodeFloat f a) (decodeFloat f b))
/-- a × b + c in a format under RNE with one rounding. -/
def fpFma (f a b c : Nat) : Nat × FpFlags := deliver f (fmaVal false (decodeFloat f a) (decodeFloat f b) (decodeFloat f c))
/-- a / b in a format under RNE. -/
def fpDiv (f a b : Nat) : Nat × FpFlags := deliver f (divVal (decodeFloat f a) (decodeFloat f b))
/-- √a in a format under RNE. -/
def fpSqrt (f a : Nat) : Nat × FpFlags := deliver f (sqrtVal (decodeFloat f a))

/-- The place of a value that is not NaN in the order that puts −0 below +0 (R41). -/
def orderKey : Val → Int × Rat × Int
  | .nan => (0, 0, 0)
  | .inf n => (if n then -1 else 1, 0, 0)
  | .fin n q => (0, q, if n then 0 else 1)

/-- Whether the first value orders strictly below the second, −0 below +0 (R41). -/
def belowVal (a b : Val) : Bool :=
  let (i, p, m) := orderKey a
  let (j, q, n) := orderKey b
  i < j || (i == j && (p < q || (p == q && m < n)))

/-- minimumNumber and maximumNumber of FP32 codes (R41). -/
def fpMinMax (wantMax : Bool) (a b : Nat) : Nat :=
  let x := decodeFloat 0 a
  let y := decodeFloat 0 b
  if x = .nan then (if y = .nan then defaultNaN 0 else b)
  else if y = .nan then a
  else if belowVal (if wantMax then x else y) (if wantMax then y else x) then b else a

/-- Numerical comparison of FP32 codes: 0 unordered, 1 less, 2 equal, 3 greater (R123). -/
def fpCompare (a b : Nat) : Nat :=
  let x := decodeFloat 0 a
  let y := decodeFloat 0 b
  if x = .nan ∨ y = .nan then 0 else
  let (i, p, _) := orderKey x
  let (j, q, _) := orderKey y
  if i < j || (i == j && p < q) then 1 else if i == j && p == q then 2 else 3

/-- Moduli of RES63 (R48). -/
def m1 : Nat := 2 ^ 21 - 1
def m2 : Nat := 2 ^ 21
def m3 : Nat := 2 ^ 21 + 1
/-- M = m1·m2·m3 (R48). -/
def resM : Nat := m1 * m2 * m3

/-- Packs three residues (R48). -/
def resPack (x1 x2 x3 : Nat) : Nat := x1 % m1 + (x2 % m2) * 2 ^ 21 + (x3 % m3) * 2 ^ 42
/-- The residues of a code, reduced (R49). -/
def resX1 (c : Nat) : Nat := bits c 20 0 % m1
def resX2 (c : Nat) : Nat := bits c 41 21
def resX3 (c : Nat) : Nat := bits c 63 42 % m3
/-- Encodes an integer (R50). -/
def resEncode (n : Int) : Nat := resPack (n % (m1 : Int)).toNat (n % (m2 : Int)).toNat (n % (m3 : Int)).toNat
/-- Sum of two codes, channel by channel (R112). -/
def resAdd (a b : Nat) : Nat := resPack (resX1 a + resX1 b) (resX2 a + resX2 b) (resX3 a + resX3 b)
/-- Difference of two codes, channel by channel (R112). -/
def resSub (a b : Nat) : Nat := resPack (resX1 a + (m1 - resX1 b)) (resX2 a + (m2 - resX2 b)) (resX3 a + (m3 - resX3 b))
/-- The signed value of a code by the remainder theorem (R51). -/
def resDecode (c : Nat) : Int :=
  let x := (resX1 c * 2 ^ 20 * (m2 * m3) + resX2 c * (2 ^ 21 - 1) * (m1 * m3) + resX3 c * (2 ^ 20 + 1) * (m1 * m2)) % resM
  if resM ≤ 2 * x then (x : Int) - resM else x

/-- Fields of a format-slot descriptor (R53). -/
def slotFmt (w : Word) : Nat := bits w.toNat 4 0
def slotBlk (w : Word) : Nat := bits w.toNat 6 5
def slotRnd (w : Word) : Nat := bits w.toNat 9 7
def slotOvp (w : Word) : Nat := bits w.toNat 11 10
def slotFtz (w : Word) : Bool := bit w.toNat 12
/-- SCALE, a signed power of two (R53). -/
def slotScale (w : Word) : Int := let b := bits w.toNat 23 16; if 128 ≤ b then (b : Int) - 256 else b
/-- A malformed slot (R55). -/
def slotMalformed (w : Word) : Bool :=
  bits w.toNat 31 24 != 0 || bits w.toNat 15 13 != 0 || 5 ≤ slotRnd w || 2 ≤ slotBlk w || 12 ≤ slotFmt w
    || (slotBlk w == 1 && !(3 ≤ slotFmt w && slotFmt w ≤ 6))
/-- The slot names MX blocks. -/
def slotMx (w : Word) : Bool := slotBlk w == 1

/-- A subnormal of a format reads as a zero of its sign under FTZ (R40). -/
def flushVal (f : Nat) (ftz : Bool) : Val → Val
  | .fin n q => if ftz && q != 0 && |q| < pow2 (expMin f) then .fin n 0 else .fin n q
  | v => v

/-- Two's complement reading of the low `w` bits. -/
def signedOf (w c : Nat) : Int := let x := c % 2 ^ w; if 2 ^ (w - 1) ≤ x then (x : Int) - 2 ^ w else x

/-- The value a source code has under its format and FTZ (R33 to R36, R40, R51). -/
def sourceVal (f : Nat) (ftz : Bool) (code : Nat) : Val :=
  if isFloat f then flushVal f ftz (decodeFloat f code)
  else
    let n : Int := if f = 10 then resDecode code else if f = 7 then (code % 256 : Nat) else signedOf (fmtWidth f) code
    .fin (n < 0) n

/-- Whether a conversion between FMT codes is legal (R59): only a float into RES63 is not. -/
def legalConversion (src tgt : Nat) : Bool := !(isFloat src && tgt == 10)

/-- The outcome of one conversion: the code with its flags and, under TRAP, whether the element traps; the code is then
the SAT outcome, which a helper lane takes (R61). -/
structure Conv where
  code : Nat
  flags : FpFlags
  trap : Bool
  deriving DecidableEq, Repr

/-- The code of an integer in an integer format, or in RES63. -/
def encodeInt (f : Nat) (n : Int) : Nat := if f = 10 then resEncode n else (n % (2 ^ fmtWidth f : Nat)).toNat

/-- The outcome of an out-of-range floating result (R61). `ovp`: 0 SAT, 1 INF, 2 NAN; `k`: 0 finite overflow, 1 infinity, 2 NaN. -/
def floatOutcome (f ovp k : Nat) (neg : Bool) : Nat × FpFlags :=
  let sat := signBit f neg + maxCode f
  if f = 5 then (if k = 2 then (0, ⟨false, true, false⟩) else (sat, ⟨false, !(k == 0 && ovp == 0), false⟩))
  else if f = 3 then
    if k = 2 then (defaultNaN 3, FpFlags.none)
    else if ovp = 0 then (sat, ⟨false, k == 1, false⟩)
    else (if ovp = 1 then signBit 3 neg + 0x7F else 0x7F, FpFlags.ofInv true)
  else if k = 2 then (defaultNaN f, FpFlags.none)
  else if k = 1 then (signBit f neg + infCode f, FpFlags.none)
  else if ovp = 0 then (sat, FpFlags.none)
  else if ovp = 1 then (signBit f neg + infCode f, FpFlags.none)
  else (defaultNaN f, FpFlags.ofInv true)

/-- Whether a case of R61 passes through under every policy. -/
def passesThrough (f k : Nat) : Bool := (f != 3 && f != 5 && k != 0 && isFloat f) || (f == 3 && k == 2)

/-- Rounds an exact value into a target slot's format, with the outcome of R61 out of range (R56, R40). -/
def convertVal (slot : Word) (ePos phase : Nat) (v : Val) : Conv :=
  let f := slotFmt slot
  let ovp := slotOvp slot
  let pol := if ovp = 3 then 0 else ovp
  let d := ditherOffset ePos phase
  let out (k : Nat) (neg : Bool) : Conv :=
    if isFloat f then
      let r := floatOutcome f pol k neg
      ⟨r.1, r.2, ovp == 3 && !passesThrough f k⟩
    else if k = 2 then ⟨0, ⟨false, true, false⟩, ovp == 3⟩
    else ⟨encodeInt f (if neg then intMin f else intMax f), ⟨false, k == 1 || pol != 0, false⟩, ovp == 3⟩
  match v with
  | .nan => out 2 false
  | .inf n => out 1 n
  | .fin n q =>
    if isFloat f then
      if q = 0 then ⟨encodeFloat f (.fin n 0), FpFlags.none, false⟩ else
      let r := roundUnbounded f (slotRnd slot) d q
      if maxFinite f < |r| then out 0 (q < 0)
      else
        let small : Bool := |r| < pow2 (expMin f)
        let r' : Rat := if small && slotFtz slot then 0 else r
        ⟨encodeFloat f (.fin (q < 0) r'), ⟨false, false, small⟩, false⟩
    else
      let m := roundInt (slotRnd slot) d q
      if m < intMin f then out 0 true else if intMax f < m then out 0 false else ⟨encodeInt f m, FpFlags.none, false⟩

/-- The value to round: SCALE applies from an integer or RES63 source into a floating target (R53, R60). -/
def scaledVal (src : Nat) (slot : Word) (v : Val) : Val :=
  if !isFloat src && isFloat (slotFmt slot) then
    match v with
    | .fin n q => .fin n (q * pow2 (slotScale slot))
    | w => w
  else v

/-- Converts a source code from a source slot into a target slot (R128). -/
def convertCode (tgt src : Word) (ePos phase code : Nat) : Conv :=
  convertVal tgt ePos phase (scaledVal (slotFmt src) tgt (sourceVal (slotFmt src) (slotFtz src) code))

/-- emax_elem (R42). -/
def emaxElem (f : Nat) : Int := if f = 3 then 8 else if f = 4 then 15 else if f = 5 then 2 else 0

/-- The magnitude of a value; infinities and NaNs count as zero. -/
def magVal : Val → Rat
  | .fin _ q => |q|
  | _ => 0
/-- Whether a value is finite. -/
def finiteVal : Val → Bool
  | .fin _ _ => true
  | _ => false

/-- The scale code of a block (R45). -/
def blockScale (f : Nat) (vs : List Val) : Nat :=
  if vs.any (fun v => !finiteVal v) then 0xFF
  else
    let amax := vs.foldl (fun m v => max m (magVal v)) 0
    if amax = 0 then 0 else
    let x := floorLog2 amax - emaxElem f
    ((max (-127) (min 127 x)) + 127).toNat

/-- One element of a block under its scale (R45). MXINT8 elements are in units of 2^-6 (R42). -/
def blockElement (slot : Word) (c ePos phase : Nat) (v : Val) : Conv :=
  let f := slotFmt slot
  if c = 0xFF then ⟨0, FpFlags.none, false⟩ else
  match v with
  | .fin n q =>
    if q = 0 then ⟨if f = 6 then 0 else signBit f n, FpFlags.none, false⟩
    else convertVal slot ePos phase (.fin n (q * pow2 (127 - (c : Int)) * (if f = 6 then 64 else 1)))
  | _ => ⟨0, FpFlags.none, false⟩

/-- Applies a block's scales to an exact block sum (R46, R47). -/
def scaleBlock (ca cb : Nat) (s : Val × Bool) : Val × FpFlags :=
  if ca = 0xFF ∨ cb = 0xFF then (.nan, FpFlags.none) else
  match s.1 with
  | .fin _ q =>
    if q = 0 then (.fin false 0, FpFlags.none) else
    let r := roundIeee 0 (.fin (q < 0) (q * pow2 ((ca : Int) - 127 + ((cb : Int) - 127))))
    (r.1, ⟨false, !finiteVal r.1, r.2⟩)
  | v => (v, FpFlags.ofInv s.2)

/-- The exact sum of products of a block: pairs of values, with whether some product was invalid (R46, R332). -/
def blockSum (ps : List (Val × Val)) : Val × Bool :=
  let r := ps.foldl (fun (acc : Val × Bool × Bool) (p : Val × Val) =>
    -- the sum, whether a NaN came from operands that hold none, whether an operand was NaN
    let m := mulVal p.1 p.2
    let a := addVal false acc.1 m.1
    (a.1, acc.2.1 || m.2 || a.2, acc.2.2 || p.1 == .nan || p.2 == .nan)) (.fin false 0, false, false)
  match r.1 with
  | .nan => (.nan, r.2.1 && !r.2.2)
  | .fin _ q => (.fin (q < 0) q, false)
  | v => (v, false)

/-- Adds a block result to an FP32 accumulator word (R46). -/
def accAdd (acc : Nat) (t : Val) : Nat × FpFlags := deliver 0 (addVal false (decodeFloat 0 acc) t)

/-- Combines an old value and an operand under an atomic operation code (R80, R234); `w` is 32 or 64. The flag is INV. -/
def atomicOp (op w old x : Nat) : Nat × Bool :=
  let s (n : Nat) : Int := signedOf w n
  if op = 0 then ((old + x) % 2 ^ w, false)
  else if op = 1 then (Nat.land old x, false)
  else if op = 2 then (Nat.lor old x, false)
  else if op = 3 then (Nat.xor old x, false)
  else if op = 4 then (if s old ≤ s x then old else x, false)
  else if op = 5 then (if s x ≤ s old then old else x, false)
  else if op = 6 then (if old ≤ x then old else x, false)
  else if op = 7 then (if x ≤ old then old else x, false)
  else if op = 8 then (x, false)
  else if op = 9 then let r := fpAdd 0 old x; (r.1, r.2.inv)
  else if op = 10 then (fpMinMax false old x, false)
  else if op = 11 then (fpMinMax true old x, false)
  else (resAdd old x, false)

/-- The identity of an operation for a width (R162, R237). -/
def atomicIdentity (op w : Nat) : Nat :=
  if op = 1 ∨ op = 6 then 2 ^ w - 1
  else if op = 4 then 2 ^ (w - 1) - 1
  else if op = 5 then 2 ^ (w - 1)
  else if op = 9 then 0x80000000
  else if op = 10 ∨ op = 11 then 0x7FC00000
  else 0

end Sys2Proof.Machine
end

