-- ==== Sys2Proof/Machine/State.lean ====
section
/-! DEFINITION. The state of the package as plain data, the reasons a step can stop, and the state at reset.
Times are in hundredths of a nanosecond on the device time base (`now`), and in arithmetic cycles (`cycle`). -/

namespace Sys2Proof.Machine

open Sys2Proof

/-- Why a step stops. -/
inductive Fault where
  deriving DecidableEq, Repr

/-- Why a step is refused. -/
inductive Refusal where
  /-- Raised by an arm of `exec` whose instruction has no meaning yet. Safe. -/
  | notModelled (mnemonic : String)
  deriving DecidableEq, Repr

/-- A set of lines a release carries (R366): a list of physical lines, or the mark "invalidate all" (R367). -/
inductive Sig where
  | lines (ls : List Nat)
  | all
  deriving DecidableEq, Repr

/-- What signal_fault records of a fault (R299, R301, R306, R489). -/
structure FaultInfo where
  code : Nat
  detail : Nat
  len : Nat
  addr : Nat
  insn : Nat
  fpc : Nat
  deriving DecidableEq, Repr

/-- The lane-held trap registers of R305. -/
structure TrapRegs where
  pc : DWord
  cause : Word
  addr : DWord
  insn : DWord
  fpc : DWord
  scr0 : Word
  scr1 : Word
  scr2 : Word
  scr3 : Word
  deriving DecidableEq, Repr

/-- The blocking instruction a lane is held in (R230, R257, R276, R342, R392, R483). -/
inductive HoldKind where
  | ldv | twait | tfree | bwait | barw | chain | enq | deq | request | hstep | cwait | gettime
  deriving DecidableEq, Repr

/-- A held lane's instruction with the operand values it sampled at issue. -/
structure Hold where
  kind : HoldKind
  x : XForm
  insn : Nat
  /-- Effective address, tile entry or request number. -/
  ea : Nat
  /-- Physical or object address, where the kind has one. -/
  pa : Nat
  /-- Floor, target phase, mask or target time. -/
  v1 : Nat
  /-- Arrival phase, operand or element length. -/
  v2 : Nat
  /-- Cycle at which a timeout expires, if there is one. -/
  deadline : Option Nat
  /-- Place in a waiting line, in order of arrival. -/
  order : Nat
  /-- The number of the issue, or of the request the Last holds. -/
  issue : Nat
  /-- The request the lane's instruction has sent through the fabric, where it waits for the reply; else 0. -/
  pkt : Nat := 0
  deriving DecidableEq, Repr

/-- What a lane is doing (R136). Away, parked and exited are separate marks. -/
inductive Cond where
  | running
  | join (j : Nat)
  | waitj (j : Nat)
  | tbar (id : Nat)
  | held (h : Hold)
  deriving DecidableEq, Repr

/-- A lane: R13, R31, R305 and the marks of R136. -/
structure Lane where
  v : Tab Word
  p : BitVec 8
  pc : DWord
  sb : Tab Nat
  cond : Cond
  parked : Bool
  faultCode : Nat
  helper : Bool
  /-- The bin or formation the lane has been filed in by REFORM, while it is away (R154). -/
  away : Option Nat
  /-- Cycle at which the lane was filed in its bin, while it is away (R154, R169). -/
  filed : Nat
  /-- The fault that parked the lane, until the handler is entered in the next cycle (R301). -/
  staged : Option (FaultInfo × Bool)
  trap : TrapRegs
  /-- Deferred faults held pending, oldest first (R489). -/
  deferred : List FaultInfo
  /-- Cycle at which the lane became ready at its PC (R137). -/
  since : Nat
  /-- Number of the join completion that released the lane, until it next issues (R138). -/
  released : Option Nat
  /-- Registers with bad parity, numbered as DETAIL numbers them (R20, R306): v0 to v127, 256 to 263 for p. -/
  badParity : List Nat
  /-- Lines written or received and not yet covered by a system-scope release (R366). -/
  sig : Sig
  /-- Signatures that loads have received and an acquire fence has yet to apply (R228). -/
  seen : Sig
  /-- Widest scope of a FENCE.REL the lane has executed (R363); 0 for none. -/
  fenced : Nat
  /-- Instructions the lane has issued, by which a fault found later knows whether it is deferred (R489). -/
  issues : Nat
  /-- Length and bits of the instruction the lane issued last, which a waiting lane stands in (R301). -/
  last : Nat × Nat
  /-- The join register at whose JOIN or WAITJ a SAVE found the lane waiting, until the lane has executed it again (R152). -/
  back : Option Nat
  deriving DecidableEq, Repr

/-- A group: R14. -/
structure Group where
  s : Tab Word
  j : Tab (BitVec 32)
  arrival : Tab (BitVec 32)
  exited : BitVec 32
  lanes : Tab Lane
  retired : Bool
  /-- Issue partition and context (R165, R166). -/
  partition : Nat
  context : Nat
  /-- Registers with bad parity: 128 to 191 for s0 to s63, 264 to 275 for j0 to j11 (R20, R306). -/
  badParity : List Nat
  deriving DecidableEq, Repr

/-- State of a 64-byte sector of a stash-mapped line (R185), with the physical sector it holds. -/
inductive Sector where
  | invalid
  | clean (pa : Nat)
  | dirty (pa : Nat)
  deriving DecidableEq, Repr

/-- A stash mapping (R184, R219). `sectors` is indexed by sector within the range. -/
structure Mapping where
  laddr : Nat
  gaddr : Nat
  len : Nat
  sectors : Tab Sector
  deriving DecidableEq, Repr

/-- A started command of a ring (R193, R196). -/
structure Command where
  index : Nat
  w0 : Nat
  w1 : Nat
  w2 : Nat
  w3 : Nat
  /-- The half-open ranges of local bytes it writes, by which later commands of its ring are held back (R196). -/
  ranges : List (Nat × Nat)
  /-- The teams it delivers to (R199). -/
  members : List Nat
  /-- It has ended in an error after its start (R198). -/
  failed : Bool
  complete : Bool
  deriving DecidableEq, Repr

/-- The engine's view of a team's command ring (R192, R195, R198). -/
structure Ring where
  tail : Nat
  head : Nat
  done : Nat
  err : Nat
  halted : Bool
  started : List Command
  deriving DecidableEq, Repr

/-- Where a team stands between its bind record and the end of stage 4 (R166, R175, R394). -/
inductive Phase where
  | bound | running | stage1 | stage2 | stage3 | gone
  | stopping | saving | flushing | saved
  deriving DecidableEq, Repr

/-- A team: R31, with its place (R166), its bind record (R386) and its progress estimate (R395). -/
structure Team where
  grid : Nat
  teamid : Nat
  die : Nat
  core : Nat
  slot : Nat
  phase : Phase
  release : Nat
  resume : Bool
  backed : Bool
  groups : Tab Group
  base : Nat
  tag : Nat
  localMem : List Host.Cell
  /-- Sectors of the region holding uncorrectable data (R430). -/
  localBad : List Nat
  gate : Bool
  ring : Ring
  stash : List Mapping
  /-- TBAR arrival sets, keyed by 32 × id + group (R256). -/
  tbar : Tab (BitVec 32)
  /-- Pin counts, keyed by version index (R215). -/
  pins : Tab Nat
  inRegion : Bool
  idemEntry : DWord
  issued : Nat
  issuedAtIdem : Nat
  /-- Times in ns of the team's issues in the last 10 µs (R395), and of its admission or latest resume. -/
  issueLog : List Nat
  admitted : Nat
  dphase : BitVec 5
  terr : BitVec 7
  /-- The bits of %terr set in a cycle, and that cycle: an SWR of the same cycle leaves them set (R26). -/
  terrSet : BitVec 7
  terrAt : Nat
  /-- The latest SWR to each special register: its cycle and the group that issued it (R28). -/
  swrs : Tab (Nat × Nat)
  qseed : BitVec 33
  /-- Action under way: 0 none, 1 DRAIN, 2 SAVE, 3 FLUSH, and the time in ns at which it began (R394, R395). -/
  action : Nat
  actionAt : Nat
  /-- A DRAIN that is decided again after 2 × D_DRAIN (R395). -/
  redecide : Bool
  /-- The number of the pre-emption request the action belongs to (R383). -/
  request : Nat
  /-- Unreleased signatures of lanes that a flush has discarded, which the restarted lanes' releases cover (R374). -/
  carry : Sig
  deriving DecidableEq, Repr

/-- What stopped a context (R307, R308). -/
structure StopInfo where
  cause : Nat
  place : Nat
  teamid : Nat
  pc : Nat
  addr : Nat
  time : Nat
  where_ : Nat
  count : Nat
  /-- The cycle of the recorded event: an event of the same cycle in an earlier lane takes its place (R308). -/
  cycle : Nat
  written : Bool
  deriving DecidableEq, Repr

/-- A grid context: the launch record as accepted (R377 to R380) and the context state of R31 and R385. -/
structure Grid where
  record : Nat
  root : Nat
  entry : Nat
  args : Nat
  status : Nat
  handler : Nat
  qtabP : Nat
  qtabN : Nat
  flags : Nat
  nteams : Nat
  shape : Nat
  regs : Nat
  localSize : Nat
  fmt : Tab Word
  start : Nat
  stagger : Nat
  lcores : Nat
  expect : Nat
  die : Nat
  /-- The index of its context entry, by die (R385). -/
  contexts : Tab Nat
  t0 : Nat
  /-- Its number in the order of acceptance, and the time in ns at which a team of it was last bound (R399). -/
  acceptedAt : Nat
  lastBind : Nat
  nextTeam : Nat
  liveTeams : Nat
  first : Bool
  attached : Bool
  stop : Option StopInfo
  preempts : Nat
  lastPre : Nat
  /-- The pre-emption requests under way, by number, each with the bits of LASTPRE it has gathered (R383). -/
  requests : Tab Nat
  done : Bool
  deriving DecidableEq, Repr

/-- A reform bin or formation (R154, R169). -/
structure Bin where
  core : Nat
  team : Nat
  pc : DWord
  members : List LaneRef
  formed : Bool
  /-- Partition and context number 12 or 13, once placed. -/
  place : Option (Nat × Nat)
  deriving DecidableEq, Repr

/-- What an operation in flight still waits for (R171). -/
inductive OpWait where
  | ready
  | landing (n : Nat)
  | commit (n : Nat)
  | fabric (pkt : Nat)
  | request (cl n : Nat)
  /-- A gang access on its way: the target team, offset and bytes, the tag the region had at issue, and a store's data or a barrier
  instruction's operand (R183). -/
  | gang (t off n tag : Nat) (data : List Byte)
  deriving DecidableEq, Repr

/-- A lane waiting on an object at a home (R255, R265, R272). `localTo` is 1 + the team whose region holds a local object. -/
structure Waiter where
  lane : LaneRef
  kind : HoldKind
  pa : Nat
  localTo : Nat
  deriving DecidableEq, Repr

/-- An operation in flight for a lane (R170, R171). `issue` is the number of the issue it belongs to; the operations of one issue that are
marked `together` complete in one event, since the instruction writes once for the group (R16, R75). -/
structure Op where
  lane : LaneRef
  issue : Nat
  together : Bool
  slot : Option Nat
  writes : List (Nat × Word)
  preds : List (Nat × Bool)
  wait : OpWait
  /-- Advances the team's dither phase by this amount at completion (R58). -/
  phase : Nat
  /-- Registers a reply fills: the first register, the width code and, for status, the code (R203). -/
  fill : Option (Nat × Nat)
  /-- The lane's count of issues when the operation issued (R489). -/
  mark : Nat
  info : FaultInfo
  /-- A fault found after issue: the operation ends in it (R172, R489). -/
  late : Option FaultInfo
  /-- The access paths, as bits, whose later accesses a fence has put after this operation: bit 0 the lane's stores, the others as R78 numbers
  them (R228, R229). -/
  fenced : Nat := 0
  deriving DecidableEq, Repr

/-- A tile-table entry (R187). -/
structure Tile where
  team : Nat
  slot : Nat
  kind : Bool
  size : Nat
  base : Nat
  /-- 0 EMPTY, 1 FILLING, 2 READY, 3 DRAINING. -/
  state : Nat
  drains : Nat
  clr : Bool
  bitmap : Nat
  counts : Tab Nat
  /-- Posted matrix requests and started commands that hold the entry (R223, R321). -/
  users : Nat
  deriving DecidableEq, Repr

/-- Bytes on their way into a tile (R190, R226). -/
structure Landing where
  core : Nat
  /-- The tile-table entry; none for bytes of the region itself, at the offset. -/
  entry : Option Nat
  team : Nat
  g : Nat
  tag : Nat
  off : Nat
  data : List Byte
  closing : Bool
  op : Option Nat
  /-- The command the bytes belong to, if a command brings them: the issuing team and the index. -/
  cmd : Option (Nat × Nat)
  order : Nat
  deriving DecidableEq, Repr

/-- A commit on its way to its home (R269, R270). -/
structure Commit where
  lane : LaneRef
  ctl : Nat
  index : Nat
  gen : Nat
  sig : Sig
  op : Nat
  bad : Bool
  deriving DecidableEq, Repr

/-- A team's CHAIN request held at its home until its turn (R244). `total` and `prefixes` are the combined contribution and
each group's P(g). -/
structure ChainReq where
  team : Nat
  pa : Nat
  op : Nat
  width : Nat
  total : Nat
  /-- For each gathered lane: the lane, P(g) and x(l). -/
  lanes : List (LaneRef × Nat × Nat)
  deriving DecidableEq, Repr

/-- An L1 copy of a sector (R365). -/
structure L1Copy where
  core : Nat
  pa : Nat
  data : List Byte
  filled : Nat
  /-- The copy holds uncorrectable data (R430). -/
  bad : Bool := false
  deriving DecidableEq, Repr

/-- An update-only copy (R237): one partial result per word of the line, where one has been merged. -/
structure UpdCopy where
  core : Nat
  line : Nat
  op : Nat
  width : Nat
  parts : Tab Nat
  team : Nat
  sig : Sig
  rel : Bool
  deriving DecidableEq, Repr

/-- A cached translation (R409). -/
structure TlbEntry where
  grid : Nat
  va : Nat
  size : Nat
  pte : Nat
  deriving DecidableEq, Repr

/-- A 64-byte sector held in an L1 instruction cache, by its virtual address (R64). -/
structure ICopy where
  core : Nat
  grid : Nat
  va : Nat
  bytes : List Byte
  deriving DecidableEq, Repr

/-- A version entry (R414). -/
structure Version where
  version : Nat
  incoming : Nat
  pins : Nat
  state : Nat
  sel : Bool
  frame0 : Nat
  frame1 : Nat
  /-- The flip of the FULL frame has been counted as deferred (R422). -/
  deferred : Bool := false
  deriving DecidableEq, Repr

/-- A result held for a versioned page (R417, R418), with its completion word. -/
structure Publication where
  ver : Nat
  step : Nat
  data : List Byte
  cword : Nat
  word : Nat
  deriving DecidableEq, Repr

/-- A stationary plane (R323). -/
structure Plane where
  fmt : Nat
  mx : Bool
  ftz : Bool
  rows : List Host.Cell
  scales : List Host.Cell
  flags : List Nat
  deriving DecidableEq, Repr

/-- A Treadle walk (R335, R353). -/
structure Walk where
  /-- The team that made it, by its grid and its number: a walk outlives the binding at which SAVE found it (R335, R342). -/
  grid : Nat
  teamid : Nat
  levels : Nat
  extents : List Nat
  bindings : List Nat
  /-- Row-major positions of the tuples handed out. -/
  handed : List Nat
  deriving DecidableEq, Repr

/-- The kinds of matrix request (R326). -/
inductive ReqKind where
  | last | lswap | mstr | mzero | mdrn | mstat
  deriving DecidableEq, Repr

/-- A request posted to a Last (R326). -/
structure Req where
  kind : ReqKind
  x : XForm
  team : Nat
  g : Nat
  quarter : Nat
  lanes : List LaneRef
  ctl : Nat
  /-- Control words and local addresses of an MDRN's lanes. -/
  ctls : List (Nat × Nat)
  /-- Resolved sources: tile entry or mbN, as base, limit and, for a tile, 1 + entry. -/
  src : Nat × Nat × Nat
  scale : Nat × Nat × Nat
  gen : Nat
  prio : Nat
  accepted : Bool
  at_ : Nat
  phase : Nat
  issue : Nat
  pc : Nat
  insn : Nat
  /-- RES63 path, known from acceptance on (R325). -/
  res : Bool
  deriving DecidableEq, Repr

/-- The Last of a cluster (R320). -/
structure Last where
  holder : Option (Nat × Nat)
  mb : List Host.Cell
  mbBad : List Nat
  acc : Tab Nat
  counts : Tab Nat
  owners : Tab Nat
  active : Plane
  shadow : Plane
  ga : Nat
  gl : Nat
  shv : Bool
  walks : Tab Walk
  table : Tab Req
  deriving DecidableEq, Repr

/-- A queue window (R279). -/
structure Window where
  grid : Nat
  ctl : Nat
  drops : Nat
  deriving DecidableEq, Repr

/-- A request this device has sent through the fabric (R442 to R445). -/
structure Sent where
  peer : Nat
  cls : Nat
  seq : Nat
  epoch : Nat
  count : Option Nat
  kind : PacketKind
  offset : Nat
  data : List Byte
  gen : Nat
  resent : Bool
  /-- Answered MOVED or not yet admitted, and waiting for earlier packets to its peer (R440, R442); or a scheduled packet that is to be sent
  again from the store (R487). -/
  waits : Bool
  /-- It has yet to be admitted: a commit, or a link that is down, holds its peer's traffic (R440, R447). -/
  fresh : Bool := false
  /-- The target has answered that the request waits there: it has been delivered, and no bound counts any more (R251, R446). -/
  held : Bool := false
  /-- Time of admission, from which the delivery bound counts (R446). -/
  at_ : Nat
  team : Nat
  op : Option Nat
  /-- The command of a ring that has sent it: the team and the index (R196). -/
  cmd : Option (Nat × Nat) := none
  /-- The landings that its reply fills (R194). -/
  lands : List Nat := []
  /-- The send queue it has come from, as part of a message (R454, R487). -/
  queue : Option Nat := none
  deriving DecidableEq, Repr

/-- Stream state at the sender (R444, R445). -/
structure Stream where
  seq : Nat
  epoch : Nat
  stores : Nat
  deriving DecidableEq, Repr

/-- Stream state at the target (R443 to R445). -/
structure Inbound where
  src : Nat
  logical : Nat
  cls : Nat
  /-- Sequence numbers performed, each with its time and its reply. -/
  performed : List (Nat × Nat × List Byte)
  /-- Stores performed, by epoch. -/
  stores : Tab Nat
  /-- Epochs whose release is visible: every epoch below this one. -/
  visible : Nat
  deriving DecidableEq, Repr

/-- A request that has arrived and is held unperformed (R441, R444, R445). `owned` marks one whose logical id has been OWNED since it arrived,
`waits` one that waits on an object. -/
structure Arrival where
  p : Packet
  owned : Bool
  waits : Bool
  deriving DecidableEq, Repr

/-- A key slot of a sealed link (R449, R450). -/
structure KeySlot where
  key : Nat
  salt : Nat
  ctr : Nat
  seen : List Nat
  inUse : Bool
  marker : Option Nat
  deriving DecidableEq, Repr

/-- A sealed flit kept for retries (R448, R452), with the sent request it carries, or 0. -/
structure StoredFlit where
  slot : Nat
  ctr : Nat
  bytes : List Byte
  resends : Nat
  packet : Nat
  deriving DecidableEq, Repr

/-- One direction of a sealed link (R450). -/
structure SealLink where
  current : Nat
  slots : Tab KeySlot
  store : List StoredFlit
  deriving DecidableEq, Repr

/-- A port: the UALink port groups 0 to 23, each one x4, two x2 or four x1 ports, and the Ultra Ethernet ports 24 to 31 (R435). -/
structure Port where
  /-- Lanes of each port of a group, as Trara has configured it at bring-up. -/
  config : Nat := 4
  /-- The trained ports of the group by number, each up, or down because its peer was refused. -/
  links : Tab Bool := []
  /-- Time at which the port is free again (R455). -/
  busy : Nat
  deriving DecidableEq, Repr

/-- A circuit slot table with its EPOCH and NSLOT (R453). -/
structure SlotTable where
  entries : Tab Nat
  epoch : Nat
  nslot : Nat
  deriving DecidableEq, Repr

/-- A send queue (R454). -/
structure SendQueue where
  peer : Option Nat
  msgs : List Message
  deriving DecidableEq, Repr

/-- The state of an open step at a final reducer (R457, R465). -/
structure StepState where
  group : Nat
  step : Nat
  det : Bool
  non : Nat
  nlate : Nat
  acc : List Nat
  w : Nat
  seen : List Nat
  first : Option Nat
  pending : List Contribution
  hops : List Nat
  deriving DecidableEq, Repr

/-- A partial reducer's gathering (R469). -/
structure Partial_ where
  group : Nat
  step : Nat
  n : Nat
  gathered : Nat
  wsum : Nat
  acc : List Nat
  seen : List Nat
  first : Nat
  hops : List Nat
  det : Bool
  forwarded : Bool
  deriving DecidableEq, Repr

/-- A Heel-table entry of another peer (R472). STATE: 1 LIVE, 2 LATE, 3 SILENT, 4 WITHDRAWN. -/
structure HeelEntry where
  heard : Nat
  step : Nat
  state : Nat
  deriving DecidableEq, Repr

/-- The cohort (R475). -/
structure Cohort where
  ident : Nat
  own : Nat
  size : Nat
  lead : Nat
  tLate : Nat
  tSilent : Nat
  entries : Tab HeelEntry
  deriving DecidableEq, Repr

/-- What the cohort's events and engines still have to send on (R461, R473). -/
inductive Outgoing where
  | contribution (peer : Nat) (c : Contribution)
  | result (peer : Nat) (r : ResultPacket)
  | heartbeat (ident idx step time : Nat)
  | message (m : Message)
  | moved (src seq : Nat)
  | reply (src seq : Nat) (data : List Byte)
  | rerequest (peer slot ctr : Nat)
  | flit (peer slot ctr : Nat) (bytes : List Byte)
  /-- Trara is told of a link that seals on under CURRENT at the forced counter, or whose old key has gone (R451). -/
  | linkNotice (peer : Nat)
  | interrupt (grid : Nat)
  | stopNotice (grid : Nat)
  | aperture (data : List Byte)
  deriving DecidableEq, Repr

/-- A migration under way (R411). -/
structure Migration where
  grid : Nat
  va : Nat
  size : Nat
  old : Nat
  new : Nat
  retries : Nat
  /-- A versioned page (R420): `old` is its version index, and `new` names the new index and both frames. -/
  versioned : Bool := false
  deriving DecidableEq, Repr

/-- Where an error that cannot be corrected has struck (R20, R430): the home of a sector, a sector of a team's region, of an operand buffer or of an
L1 copy, or a register of a lane or a group, numbered as DETAIL numbers it. -/
inductive Upset where
  | home (pa : Nat)
  | region (team k : Nat)
  | buffer (cluster k : Nat)
  | copy (n : Nat)
  | lane (r : LaneRef) (n : Nat)
  | group (r : LaneRef) (n : Nat)
  deriving DecidableEq, Repr

/-- Who moves next: plain data that names the next step. -/
inductive Turn where
  /-- The offered subset of a group issues. -/
  | issue (team g : Nat)
  /-- The offered subset of a formation issues. -/
  | formation (n : Nat)
  /-- The arithmetic cycle ends (R424). -/
  | pass
  /-- The directory of a home evicts a sector, which it recalls from every stash (R185). -/
  | evict (pa : Nat)
  /-- An error strikes that cannot be corrected (R20, R430). -/
  | upset (u : Upset)
  /-- An error is met and corrected, in SRAM or in DRAM (R430). -/
  | corrected (sram : Bool)
  /-- The host reads BAR0 (R433). -/
  | hostRead (off len : Nat)
  /-- Power is removed (R423). -/
  | powerOff
  /-- An operation or event of the table comes about. -/
  | event (i : Instr)
  deriving DecidableEq, Repr

/-- The subset that is issuing (R137): its lanes in lane order, its PC, the instruction's bits and length, and the number of the issue. -/
structure Issue where
  team : Nat
  lanes : List LaneRef
  formation : Bool
  pc : DWord
  len : Nat
  insn : Nat
  num : Nat
  deriving DecidableEq, Repr

/-- How far bring-up has come (R423). -/
inductive BootPhase where
  | off | rails | clocks | verified | initialised | ready | failed
  deriving DecidableEq, Repr

/-- The package. -/
structure State where
  /-- Arithmetic cycles since reset (R424, %clock). -/
  cycle : Nat
  /-- Device time base in hundredths of a nanosecond (R5, R437). -/
  now : Nat
  /-- Correction of the time base still to be steered in, in hundredths of a nanosecond (R437). -/
  steer : Int
  unlocked : Bool
  boot : BootPhase
  bootFail : Option Nat
  /-- BAR0 READY (R433). -/
  ready : Bool
  cur : Issue
  turns : List Turn
  /-- Partitions that have issued in this cycle: core and partition (R167). -/
  issuedNow : List (Nat × Nat)
  /-- Physical memory: device DRAM, and host memory at bit 46 (R401). -/
  mem : List Host.Cell
  /-- Physical 64-byte sectors holding uncorrectable data (R430). -/
  bad : List Nat
  teams : Tab Team
  grids : Tab Grid
  bins : Tab Bin
  tiles : Tab Tile
  tagCounter : Tab Nat
  ops : Tab Op
  waiters : Tab Waiter
  landings : Tab Landing
  commits : Tab Commit
  chains : Tab ChainReq
  l1 : Tab L1Copy
  upd : Tab UpdCopy
  icache : List ICopy
  /-- Signature fields, keyed by physical address in 4-byte words (R367). -/
  sigs : Tab Sig
  /-- DET marks: physical line and the grid that marked it (R242). -/
  marks : List (Nat × Nat)
  tlb : List TlbEntry
  invals : Tab (Nat × Nat × Nat)
  migrations : Tab Migration
  /-- Cached Pricker dimensions: core, grid and dimension, least recently used first (R284). -/
  qcache : List (Nat × Nat × Nat × List Nat)
  lasts : Tab Last
  versions : Tab Version
  publications : Tab Publication
  windows : Tab Window
  /-- Launch queue control block of each die and its ring, as physical addresses (R375). -/
  launchCtl : Tab Nat
  /-- Page-table root Trara loads into the next context of each die (R403). -/
  roots : Tab Nat
  /-- Launch request taken and waiting for a context entry: die, record (R385). -/
  accepting : List (Nat × Nat)
  /-- Teams admitted in the last µs: the die and the time in ns (R427). -/
  admits : List (Nat × Nat)
  nextGrid : Nat
  /-- Team images held in the save region, by team key (R397): whole teams, and the Last of a gang. -/
  images : Tab Team
  tileImages : Tab (List (Nat × Tile))
  gangImages : Tab Last
  saveBase : Nat
  saveSize : Nat
  saveUsed : Nat
  aperture : Nat
  params : Tab Nat
  counters : Tab Nat
  frozen : List Nat
  cyclesBase : Tab Nat
  attestLeaf : Nat
  fuseDigest : List Byte
  fuseVersion : BitVec 32
  identity : Nat
  bootDigests : List (List Byte)
  /-- Mailbox response words, the request words and the doorbell (R434). -/
  response : List Nat
  request : Tab Nat
  doorbell : Bool
  /-- Issue is withheld until this time in ns, by die (R426); and while the power mean is above PLIMIT. -/
  withheld : Tab Nat
  powerHold : Bool
  /-- Power samples of the last 1 ms, newest first: time in ns and power in mW (R426). -/
  powerLog : List (Nat × Nat)
  dev : Nat
  /-- This device's Ultra Ethernet endpoint address (R438, R487). -/
  endpoint : Nat
  peers : Tab Nat
  staged : Tab Nat
  peerGen : Tab Nat
  owner : Tab Nat
  fabricGrid : Nat
  streams : Tab Stream
  inbound : Tab Inbound
  /-- Requests held at this device as a target, in order of arrival. -/
  arrivals : List Arrival
  sent : Tab Sent
  outgoing : List Outgoing
  ports : Tab Port
  txLinks : Tab SealLink
  rxLinks : Tab SealLink
  /-- Authenticated flit bodies passed to the transaction layer (R452), and failed authentications by peer, slot, CTR. -/
  flits : List (Nat × List Byte)
  sealFails : Tab Nat
  slotTable : SlotTable
  nextTable : SlotTable
  tablePending : Bool
  /-- Entry of the slot that stands, once a boundary has begun one (R453). -/
  slotNow : Option Nat
  slotStart : Nat
  queues : Tab SendQueue
  groups : Tab Nat
  closed : Tab Nat
  steps : Tab StepState
  partials : Tab Partial_
  cohort : Option Cohort
  /-- %step (R23, R478). -/
  heelStep : Nat
  objects : List (Nat × Nat)
  lastHeartbeat : Nat
  /-- Reform age thresholds set by Trara, by core (R154). -/
  ageThreshold : Tab Nat
  /-- The model's own: next key for operations and requests, next number of an issue and of a release, and the counter
  the free values of Config are drawn with. -/
  nextKey : Nat
  freeCount : Nat
  deriving DecidableEq, Repr

/-- Trap registers of a lane that has never faulted (R305). -/
def TrapRegs.zero : TrapRegs := ⟨0, 0, 0, 0, 0, 0, 0, 0, 0⟩

/-- A plane at reset: zero, format BF16, flags clear (R320). -/
def Plane.zero : Plane := { fmt := 2, mx := false, ftz := false, rows := [], scales := [], flags := [] }

/-- A Last that no gang holds, with the reset values of R320. -/
def Last.zero : Last :=
  { holder := none, mb := [], mbBad := [], acc := [], counts := [], owners := [], active := Plane.zero,
    shadow := Plane.zero, ga := 0, gl := 0, shv := false, walks := [], table := [] }

/-- No subset is issuing. -/
def Issue.none : Issue := { team := 0, lanes := [], formation := false, pc := 0, len := 0, insn := 0, num := 0 }

/-- The empty circuit slot table (R453). -/
def SlotTable.zero : SlotTable := { entries := [], epoch := 0, nslot := 0 }

/-- The package before step 1 of bring-up (R423): every rail down, nothing trained, READY clear. Memory lists nothing,
so that every byte reads as zero, as step 4 leaves it. -/
def State.reset : State :=
  { cycle := 0, now := 0, steer := 0, unlocked := true, boot := .off, bootFail := none, ready := false,
    cur := Issue.none, turns := [], issuedNow := [], mem := [], bad := [], teams := [], grids := [], bins := [], tiles := [],
    tagCounter := [], ops := [], waiters := [], landings := [], commits := [], chains := [], l1 := [], upd := [],
    icache := [], sigs := [], marks := [], tlb := [], invals := [], migrations := [], qcache := [], lasts := [],
    versions := [], publications := [], windows := [], launchCtl := [], roots := [], accepting := [], admits := [], nextGrid := 1,
    images := [], tileImages := [], gangImages := [], saveBase := 0, saveSize := 0, saveUsed := 0, aperture := 0,
    params := [], counters := [], frozen := [], cyclesBase := [], attestLeaf := 0, fuseDigest := [], fuseVersion := 0,
    identity := 0, bootDigests := [], response := [], request := [], doorbell := false, withheld := [],
    powerHold := false, powerLog := [], dev := 0, endpoint := 0, peers := [], staged := [], peerGen := [], owner := [],
    fabricGrid := 0, streams := [], inbound := [], arrivals := [], sent := [], outgoing := [], ports := [], txLinks := [],
    rxLinks := [], flits := [], sealFails := [], slotTable := SlotTable.zero, nextTable := SlotTable.zero,
    tablePending := false, slotNow := none, slotStart := 0, queues := [], groups := [], closed := [], steps := [],
    partials := [], cohort := none, heelStep := 0, objects := [], lastHeartbeat := 0, ageThreshold := [],
    nextKey := 1, freeCount := 0 }

end Sys2Proof.Machine
end

