-- ==== Sys2Proof/Machine/Ops.lean ====
section
/-! DEFINITION. The named operations over lanes, groups, teams, counters and time; parking a lane, entering the trap handler and
returning from it; and how an operation in flight is posted and completes. -/

namespace Sys2Proof.Machine

open Sys2Proof

/-! ### Empty records, which a table gives for a key it does not list -/

/-- A lane at group start, at PC 0 (R13). -/
def Lane.zero : Lane :=
  { v := [], p := 1, pc := 0, sb := [], cond := .running, parked := false, faultCode := 0, helper := false, away := none,
    filed := 0, staged := none, trap := TrapRegs.zero, deferred := [], since := 0, released := none, badParity := [], sig := .lines [],
    seen := .lines [], fenced := 0, issues := 0, last := (0, 0), back := none }
/-- A group with no lanes (R14). -/
def Group.zero : Group :=
  { s := [], j := [], arrival := [], exited := 0, lanes := [], retired := false, partition := 0, context := 0, badParity := [] }
/-- A ring at admission (R192). -/
def Ring.zero : Ring := { tail := 0, head := 0, done := 0, err := 0, halted := false, started := [] }
/-- No team. -/
def Team.zero : Team :=
  { grid := 0, teamid := 0, die := 0, core := 0, slot := 0, phase := .gone, release := 0, resume := false, backed := false,
    groups := [], base := 0, tag := 0, localMem := [], localBad := [], gate := false, ring := Ring.zero, stash := [], tbar := [],
    pins := [], inRegion := false, idemEntry := 0, issued := 0, issuedAtIdem := 0, issueLog := [], admitted := 0, dphase := 0,
    terr := 0, terrSet := 0, terrAt := 0, swrs := [], qseed := 0, action := 0, actionAt := 0, redecide := false, request := 0, carry := .lines [] }
/-- No grid. -/
def Grid.zero : Grid :=
  { record := 0, root := 0, entry := 0, args := 0, status := 0, handler := 0, qtabP := 0, qtabN := 0, flags := 0, nteams := 0,
    shape := 0, regs := 0, localSize := 0, fmt := [], start := 0, stagger := 0, lcores := 0, expect := 0, die := 0, contexts := [],
    t0 := 0, acceptedAt := 0, lastBind := 0, nextTeam := 0, liveTeams := 0, first := false, attached := false, stop := none,
    preempts := 0, lastPre := 0, requests := [], done := false }
/-- An unallocated tile entry (R187). -/
def Tile.zero : Tile :=
  { team := 0, slot := 0, kind := false, size := 0, base := 0, state := 0, drains := 0, clr := false, bitmap := 0, counts := [], users := 0 }

/-! ### Lookup and update -/

/-- Adds a number to the first place of a list that holds an element, if it is new. -/
def insertNew [DecidableEq α] (x : α) (l : List α) : List α := if x ∈ l then l else l ++ [x]

/-- Elements of a list, each once, in the order of their first places. -/
def distinct [DecidableEq α] (l : List α) : List α := l.foldl (fun a x => insertNew x a) []

/-- The team of a key. -/
def State.team (s : State) (t : Nat) : Team := Tab.getD s.teams t Team.zero
/-- Replaces a team. -/
def State.setTeam (s : State) (t : Nat) (x : Team) : State := { s with teams := Tab.set s.teams t x }
/-- Changes a team; nothing, where there is no such team. -/
def State.modTeam (s : State) (t : Nat) (f : Team → Team) : State :=
  match Tab.find s.teams t with
  | some x => s.setTeam t (f x)
  | none => s
/-- The grid of a %gridid. -/
def State.grid (s : State) (g : Nat) : Grid := Tab.getD s.grids g Grid.zero
/-- Replaces a grid. -/
def State.setGrid (s : State) (g : Nat) (x : Grid) : State := { s with grids := Tab.set s.grids g x }
/-- The grid a team belongs to. -/
def State.gridOf (s : State) (t : Nat) : Grid := s.grid (s.team t).grid
/-- A group of a team. -/
def Team.group (t : Team) (g : Nat) : Group := Tab.getD t.groups g Group.zero
/-- Replaces a group. -/
def Team.setGroup (t : Team) (g : Nat) (x : Group) : Team := { t with groups := Tab.set t.groups g x }
/-- A lane of a group. -/
def Group.lane (x : Group) (l : Nat) : Lane := Tab.getD x.lanes l Lane.zero
/-- Replaces a lane. -/
def Group.setLane (x : Group) (l : Nat) (y : Lane) : Group := { x with lanes := Tab.set x.lanes l y }
/-- The home group of a lane. -/
def State.group (s : State) (r : LaneRef) : Group := (s.team r.team).group r.g
/-- Changes the home group of a lane. -/
def State.modGroup (s : State) (r : LaneRef) (f : Group → Group) : State :=
  s.modTeam r.team (fun t => t.setGroup r.g (f (t.group r.g)))
/-- A lane. -/
def State.lane (s : State) (r : LaneRef) : Lane := (s.group r).lane r.l
/-- Changes a lane. -/
def State.modLane (s : State) (r : LaneRef) (f : Lane → Lane) : State :=
  s.modGroup r (fun x => x.setLane r.l (f (x.lane r.l)))
/-- The core of a team, numbered over the package (R434). -/
def Team.gcore (t : Team) : Nat := t.die * 208 + t.core
/-- The cluster of a team, numbered over the package (R318, R434). -/
def Team.cluster (t : Team) : Nat := t.die * 52 + t.core / 4

/-! ### Fields of the launch record -/

/-- DET (R378). -/
def Grid.det (g : Grid) : Bool := bit g.flags 0
/-- STRICT (R378). -/
def Grid.strict (g : Grid) : Bool := bit g.flags 2
/-- The idempotence flag (R378). -/
def Grid.idem (g : Grid) : Bool := bit g.flags 1
/-- PRIO (R378). -/
def Grid.prio (g : Grid) : Nat := bits g.flags 5 4
/-- Groups per team (R379). -/
def Grid.ngroups (g : Grid) : Nat := bits g.shape 20 16 + 1
/-- Lanes per team (R379). -/
def Grid.lanes (g : Grid) : Nat := bits g.shape 10 0
/-- Teams per gang (R379). -/
def Grid.gangSize (g : Grid) : Nat := bits g.shape 25 24 + 1
/-- MATRIX (R379). -/
def Grid.matrix (g : Grid) : Bool := bit g.shape 26
/-- NREG (R380). -/
def Grid.nreg (g : Grid) : Nat := bits g.regs 7 0
/-- Teams in the grid (R377). -/
def Grid.teamCount (g : Grid) : Nat := if g.nteams = 0 then 2 ^ 32 else g.nteams
/-- A format slot (R53). -/
def Grid.slot (g : Grid) (n : Nat) : Word := Tab.getD g.fmt n 0
/-- Rank of a team in its gang (R379). -/
def State.rankOf (s : State) (t : Nat) : Nat := (s.team t).teamid % (s.gridOf t).gangSize
/-- Index of a team's gang (R379). -/
def State.gangOf (s : State) (t : Nat) : Nat := (s.team t).teamid / (s.gridOf t).gangSize

/-- The device time base in whole ns (R5, R437). -/
def State.ns (s : State) : Nat := s.now / 100

/-! ### Counters and sticky flags -/

/-- Key of a performance counter: unit class, unit index, number and partition (R434). -/
def counterKey (cls idx num part : Nat) : Nat := ((cls * 1024 + idx) * 64 + num) * 4 + part
/-- Whether a unit's counters are frozen (R434). -/
def State.isFrozen (s : State) (cls idx : Nat) : Bool := s.frozen.contains (cls * 1024 + idx)
/-- Adds to a 48-bit counter of a unit that is not frozen (R178, R434). -/
def State.count (s : State) (cls idx num : Nat) (n : Nat := 1) (part : Nat := 0) : State :=
  if s.isFrozen cls idx then s else
  let k := counterKey cls idx num part
  { s with counters := Tab.set s.counters k ((Tab.getD s.counters k 0 + n) % 2 ^ 48) }

/-- The bits of a team's %terr that have been set in a cycle (R26). -/
def Team.terrOf (x : Team) (cycle : Nat) : BitVec 7 := if x.terrAt = cycle then x.terrSet else 0
/-- Sets bits of a team's %terr in a cycle (R26). -/
def Team.raiseTerr (x : Team) (cycle : Nat) (b : BitVec 7) : Team :=
  { x with terr := x.terr ||| b, terrSet := x.terrOf cycle ||| b, terrAt := cycle }
/-- Sets a bit of a team's %terr (R26). -/
def State.setTerr (s : State) (t n : Nat) : State := s.modTeam t (fun x => x.raiseTerr s.cycle (BitVec.ofNat 7 (2 ^ n)))
/-- Sets the flags an operation raised in its team's %terr (R26, R38). -/
def State.setFlags (s : State) (t : Nat) (f : FpFlags) : State :=
  let n := (if f.inv then 64 else 0) + (if f.unf then 32 else 0) + (if f.ovf then 16 else 0)
  if n = 0 then s else s.modTeam t (fun x => x.raiseTerr s.cycle (BitVec.ofNat 7 n))

/-! ### Registers -/

/-- The register an X-form field names, in a lane (R73); an R-form field names v0 to v127 as 0 to 127, and s0 to s63 as 128 on.
An s-register is the home group's (R94). -/
def State.reg (s : State) (r : LaneRef) (n : Nat) : Word :=
  if n < 128 then Tab.getD (s.lane r).v n 0
  else if n < 192 then Tab.getD (s.group r).s (n - 128) 0
  else 0
/-- A pair (R13, R14); register 255 reads as a pair of zeros (R73). -/
def State.reg64 (s : State) (r : LaneRef) (n : Nat) : Nat :=
  if n < 192 then (s.reg r n).toNat + 2 ^ 32 * (s.reg r (n + 1)).toNat else 0
/-- The number held by `k` consecutive registers, the lowest least significant. -/
def State.regRun (s : State) (r : LaneRef) (n : Nat) : Nat → Nat
  | 0 => 0
  | k + 1 => (if n < 192 then (s.reg r n).toNat else 0) + 2 ^ 32 * State.regRun s r (n + 1) k
/-- A predicate; p0 reads as true (R13). -/
def Lane.pred (x : Lane) (k : Nat) : Bool := k == 0 || x.p.getLsbD k
/-- Sets a predicate; a write to p0 is discarded (R13). -/
def Lane.setPred (x : Lane) (k : Nat) (b : Bool) : Lane :=
  if k = 0 ∨ 8 ≤ k then x
  else { x with p := if b then x.p ||| BitVec.ofNat 8 (2 ^ k) else x.p &&& ~~~ BitVec.ofNat 8 (2 ^ k) }
/-- Writes a register by its X-form number with fresh parity (R20); 255 discards (R73). -/
def State.setReg (s : State) (r : LaneRef) (n : Nat) (w : Word) : State :=
  if n < 128 then s.modLane r (fun x => { x with v := Tab.set x.v n w, badParity := x.badParity.filter (· != n) })
  else if n < 192 then s.modGroup r (fun x => { x with s := Tab.set x.s (n - 128) w, badParity := x.badParity.filter (· != n) })
  else s
/-- Writes registers in turn. -/
def State.setRegs (s : State) (r : LaneRef) (ws : List (Nat × Word)) : State := ws.foldl (fun s w => s.setReg r w.1 w.2) s
/-- Writes predicates in turn. -/
def State.setPreds (s : State) (r : LaneRef) (ps : List (Nat × Bool)) : State :=
  ps.foldl (fun s p => s.modLane r (fun x => { x.setPred p.1 p.2 with badParity := x.badParity.filter (· != 256 + p.1) })) s
/-- A pair of writes that puts a 64-bit value into registers n, n + 1; none for 255. -/
def pairWrites (n v : Nat) : List (Nat × Word) :=
  if n < 192 then [(n, BitVec.ofNat 32 v), (n + 1, BitVec.ofNat 32 (v / 2 ^ 32))] else []
/-- Writes that put a number into `k` consecutive registers. -/
def runWrites (n v : Nat) : Nat → List (Nat × Word)
  | 0 => []
  | k + 1 => if n < 192 then (n, BitVec.ofNat 32 v) :: runWrites (n + 1) (v / 2 ^ 32) k else []

/-! ### Lane conditions -/

/-- In handler: INH of TRAP_CAUSE (R302, R306). -/
def Lane.inHandler (x : Lane) : Bool := x.trap.cause.getLsbD 8
/-- Whether a lane has exited or does not exist (R14). -/
def State.exited (s : State) (r : LaneRef) : Bool := (s.group r).exited.getLsbD r.l
/-- A lane that executes what its subset issues: neither exited nor parked, an in-handler lane counting as running (R301). -/
def State.live (s : State) (r : LaneRef) : Bool := !s.exited r && (!(s.lane r).parked || (s.lane r).inHandler)
/-- A helper lane (R21). -/
def State.isHelper (s : State) (r : LaneRef) : Bool := (s.lane r).helper
/-- Whether a lane's guard holds (R30, R74). -/
def State.guard (s : State) (p : BitVec 3) (neg : Bool) (r : LaneRef) : Bool := (s.lane r).pred p.toNat != neg
/-- The lanes of the issuing subset that are neither exited nor parked. -/
def State.present (s : State) : List LaneRef := s.cur.lanes.filter s.live
/-- active_lanes() in lane order (R30). -/
def State.active (s : State) (p : BitVec 3) (neg : Bool) : List LaneRef := s.present.filter (s.guard p neg)
/-- The lanes of a group that exist, in lane order. -/
def State.groupLanes (s : State) (t g : Nat) : List LaneRef := ((s.team t).group g).lanes.map (fun e => ⟨t, g, e.1⟩)
/-- The lanes of a team, in lane order (R29). -/
def State.teamLanes (s : State) (t : Nat) : List LaneRef := (s.team t).groups.flatMap (fun e => s.groupLanes t e.1)
/-- Moves a lane past an instruction of `n` halfwords (R18); it is ready from the next cycle on (R137). -/
def State.advance (s : State) (r : LaneRef) (n : Nat) : State :=
  s.modLane r (fun x => { x with pc := x.pc + BitVec.ofNat 64 (2 * n), since := s.cycle + 1, released := none })
/-- Moves lanes past the current instruction. -/
def State.advanceAll (s : State) (rs : List LaneRef) : State := rs.foldl (fun s r => s.advance r s.cur.len) s
/-- Sends a lane to an address; bit 0 is ignored (R18). A target with any of bits [63:57] set is fetched as an unmapped address (R18, R146),
while R13 has those bits of a PC always 0: the model keeps them in the lane's PC, so that the fetch fails and TRAP_PC and TRAP_FPC name the
target (DESIGN CHOICE, log entry 72). -/
def State.jump (s : State) (r : LaneRef) (pc : Nat) : State :=
  s.modLane r (fun x => { x with pc := BitVec.ofNat 64 (pc / 2 * 2), since := s.cycle + 1, released := none })

/-- Returns an away thread to its home group (R155). -/
def State.returnHome (s : State) (r : LaneRef) : State :=
  match (s.lane r).away with
  | none => s
  | some n =>
    let b := (Tab.find s.bins n).map (fun b => { b with members := b.members.filter (· != r) })
    let bins := match b with
      | none => s.bins
      | some b => if b.members.isEmpty then Tab.erase s.bins n else Tab.set s.bins n b
    { s.modLane r (fun x => { x with away := none }) with bins := bins }

/-! ### Faults, traps and stops -/

/-- A fault at the current instruction (R301, R306). -/
def State.faultHere (s : State) (code detail addr : Nat) : FaultInfo :=
  { code := code, detail := detail, len := s.cur.len, addr := addr, insn := s.cur.insn, fpc := s.cur.pc.toNat }

/-- Place of a lane in lane order among the lanes of its grid (R29). -/
def State.laneOrder (s : State) (r : LaneRef) : Nat := ((s.team r.team).teamid * 32 + r.g) * 32 + r.l
/-- Records a stopping event (R307, R308): every one is counted, and the one recorded is that of the first lane in lane order among the
events of the earliest cycle. `flags` holds ASSERT and DOUBLE. -/
def State.stopEvent (s : State) (r : LaneRef) (i : FaultInfo) (flags : Nat) : State :=
  let t := s.team r.team
  let g := s.grid t.grid
  let mine (n : Nat) : StopInfo :=
    { cause := i.detail * 2 ^ 16 + flags + i.code, place := t.die * 256 + t.core, teamid := t.teamid, pc := i.fpc,
      addr := i.addr, time := s.now / 100, where_ := r.g * 256 + r.l, count := n, cycle := s.cycle, written := false }
  let st := match g.stop with
    | some st =>
      if st.cycle = s.cycle ∧ !st.written ∧ s.laneOrder r < (st.teamid * 32 + st.where_ / 256) * 32 + st.where_ % 256 then mine (st.count + 1)
      else { st with count := st.count + 1 }
    | none => mine 1
  s.setGrid t.grid { g with stop := some st }

/-- Counts a translation fault on its die (R422). -/
def State.countFault (s : State) (t code : Nat) : State :=
  if code = 5 ∨ code = 7 then s.count 3 (s.team t).die 3 else if code = 6 then s.count 3 (s.team t).die 4 else s

/-- Parks a lane with a fault (R299, R489), returned home first if it is away (R157). A fault in handler stops the context with
DOUBLE (R303), and so does any fault when the launch record names no handler (R304). -/
def State.park (s : State) (r : LaneRef) (i : FaultInfo) (defer : Bool) : State :=
  let s := (s.returnHome r).countFault r.team i.code
  if (s.lane r).inHandler then (s.stopEvent r i 256).modLane r (fun x => { x with cond := .running, since := s.cycle + 1 })
  else
    let s := s.modLane r (fun x => { x with parked := true, faultCode := i.code, staged := some (i, defer), cond := .running, back := none })
    if (s.gridOf r.team).handler = 0 then s.stopEvent r i 0 else s

/-- signal_fault for one lane at the current instruction (R30). -/
def State.raise (s : State) (r : LaneRef) (code : Nat) (addr : Nat := 0) (detail : Nat := 0) : State :=
  s.park r (s.faultHere code detail addr) false
/-- signal_fault for several lanes (R30). -/
def State.raiseAll (s : State) (rs : List LaneRef) (code : Nat) (addr : Nat := 0) (detail : Nat := 0) : State :=
  rs.foldl (fun s r => s.raise r code addr detail) s

/-- TRAP_CAUSE (R306). -/
def causeWord (i : FaultInfo) (defer inh : Bool) : Word :=
  BitVec.ofNat 32 (i.detail % 2 ^ 16 * 2 ^ 16 + i.len * 2 ^ 12 + (if defer then 512 else 0) + (if inh then 256 else 0) + i.code)

/-- Taking an exception: a parked lane enters the trap handler (R301). The saved PC is the PC the lane stands at, which is the
faulting instruction's or, after a deferred fault, the resume point (R489). -/
def State.enterHandler (s : State) (r : LaneRef) : State :=
  match (s.lane r).staged with
  | none => s
  | some (i, defer) =>
    let h := (s.gridOf r.team).handler
    if h = 0 then s else
    s.modLane r (fun x => { x with
      staged := none, since := s.cycle + 1, released := none, cond := .running, pc := BitVec.ofNat 64 h,
      trap := { x.trap with pc := x.pc, fpc := BitVec.ofNat 64 i.fpc, cause := causeWord i defer true,
                            addr := BitVec.ofNat 64 i.addr, insn := BitVec.ofNat 64 i.insn } })

/-- Returning from an exception (R313): the lane leaves the handler at TRAP_PC, or past the faulting instruction under SKIP unless
the fault was deferred; its oldest pending fault, if any, is then taken at once (R489). -/
def State.leaveHandler (s : State) (r : LaneRef) (skip : Bool) : State :=
  let x := s.lane r
  let len := bits x.trap.cause.toNat 15 12
  let pc := if skip && !x.trap.cause.getLsbD 9 then x.trap.pc + BitVec.ofNat 64 (2 * len) else x.trap.pc
  let s := s.modLane r (fun x => { x with
    pc := pc, parked := false, faultCode := 0, since := s.cycle + 1, released := none, cond := .running,
    trap := { x.trap with cause := x.trap.cause &&& ~~~ 256#32 }, deferred := x.deferred.tail })
  match x.deferred with
  | [] => s
  | i :: _ => s.park r i true

/-! ### Operations in flight -/

/-- Whether a hold waits for the reply to a request sent through the fabric, and the operation is the one that awaits it. -/
def Hold.awaits (h : Hold) (o : Op) : Bool := h.pkt != 0 && o.wait == .fabric h.pkt
/-- Scoreboard count of a slot (R17). -/
def Lane.slotCount (x : Lane) (k : Nat) : Nat := Tab.getD x.sb k 0
/-- Adds 1 to the slot the instruction sets, if it sets one (R75, R170). -/
def State.raiseSlot (s : State) (r : LaneRef) (x : XForm) : State :=
  if x.se then s.modLane r (fun y => { y with sb := Tab.set y.sb x.ss.toNat (y.slotCount x.ss.toNat + 1) }) else s
/-- Subtracts 1 from a slot at completion (R170). -/
def State.dropSlot (s : State) (r : LaneRef) (k : Option Nat) : State :=
  match k with
  | none => s
  | some k => s.modLane r (fun y => { y with sb := Tab.set y.sb k (y.slotCount k - 1) })
/-- The slot an X form sets. -/
def slotOf (x : XForm) : Option Nat := if x.se then some x.ss.toNat else none

/-- A fresh key. -/
def State.fresh (s : State) : Nat × State := (s.nextKey, { s with nextKey := s.nextKey + 1 })

/-- Registers of a list of writes that are s-registers. -/
def sWrites (ws : List (Nat × Word)) : List Nat := (ws.map Prod.fst).filter (fun n => 128 ≤ n)

/-- An operation that has been performed and has yet to complete. One that writes an s-register completes with the others of its issue, so
that the register takes the value of the last lane that has not faulted (R16). -/
def State.newOp (s : State) (r : LaneRef) (x : XForm) (ws : List (Nat × Word)) (ps : List (Nat × Bool)) : Op :=
  { lane := r, issue := s.cur.num, together := !(sWrites ws).isEmpty, slot := slotOf x, writes := ws, preds := ps, wait := .ready, phase := 0,
    fill := none, mark := (s.lane r).issues, info := s.faultHere 0 0 0, late := none }

/-- Puts an operation in flight: the lane's slot rises and the lane goes on (R170). -/
def State.post (s : State) (o : Op) (x : XForm) : Nat × State :=
  let k := s.nextKey
  let s := (s.raiseSlot o.lane x).advance o.lane s.cur.len
  (k, { s with ops := Tab.set s.ops k o, nextKey := k + 1 })

/-- Performs an operation for a lane: its results land when it completes (R171). -/
def State.finish (s : State) (r : LaneRef) (x : XForm) (ws : List (Nat × Word)) (ps : List (Nat × Bool) := []) : State :=
  (s.post (s.newOp r x ws ps) x).2

/-- Performs an operation that ends in a fault found after issue (R489): it completes when the fault is raised (R172). Until then the
interlock holds its destinations, registers and predicates alike. -/
def State.finishLate (s : State) (r : LaneRef) (x : XForm) (ws : List (Nat × Word)) (code : Nat) (addr : Nat := 0)
    (ps : List (Nat × Bool) := []) : State :=
  (s.post { s.newOp r x ws ps with late := some (s.faultHere code 0 addr) } x).2

/-- Puts an operation in flight for a lane that stays where it is. -/
def State.postStay (s : State) (o : Op) (x : XForm) : State :=
  { s.raiseSlot o.lane x with ops := Tab.set s.ops s.nextKey o, nextKey := s.nextKey + 1 }

/-- Holds a lane in a blocking instruction: its slot rises and its PC stays (R230, R257, R276). -/
def State.hold (s : State) (r : LaneRef) (h : Hold) : State :=
  (s.raiseSlot r h.x).modLane r (fun y => { y with cond := .held h })

/-- Registers waiting for an operation of a lane: the lane's own and its group's s-registers (R170). -/
def State.pendingWrites (s : State) (r : LaneRef) : List Nat :=
  s.ops.flatMap (fun e =>
    let o := e.2
    if o.lane.team = r.team ∧ o.lane.g = r.g then
      ((o.writes.map Prod.fst) ++ o.preds.map (fun (p : Nat × Bool) => 256 + p.1)).filter (fun n => (128 ≤ n && n < 192) || decide (o.lane.l = r.l))
    else [])

/-- A lane released from a hold goes on past its X form. -/
def State.goOn8 (s : State) (r : LaneRef) : State :=
  s.modLane r (fun y => { y with cond := .running, pc := y.pc + 8, since := s.cycle + 1, released := none })
/-- The operation of a lane that was held, with the slot it has raised. -/
def State.heldOp (s : State) (r : LaneRef) (h : Hold) (ws : List (Nat × Word)) (ps : List (Nat × Bool)) : Op :=
  { lane := r, issue := h.issue, together := !(sWrites ws).isEmpty, slot := slotOf h.x, writes := ws, preds := ps, wait := .ready, phase := 0,
    fill := none, mark := (s.lane r).issues, late := none,
    info := { code := 0, detail := 0, len := 4, addr := 0, insn := h.insn, fpc := (s.lane r).pc.toNat } }
/-- A held lane goes on while its operation is in flight. -/
def State.releaseOp (s : State) (r : LaneRef) (o : Op) : State :=
  ({ s with ops := Tab.set s.ops s.nextKey o, nextKey := s.nextKey + 1 } : State).goOn8 r
/-- Completes a held lane: its results are written, its slot falls and it goes on at its next instruction. An s-register is written when
every lane of the issue has been answered, so that lane's part stays in flight until then (R16, R75). -/
def State.release (s : State) (r : LaneRef) (ws : List (Nat × Word)) (ps : List (Nat × Bool)) : State :=
  match (s.lane r).cond with
  | .held h =>
    if (sWrites ws).isEmpty then (((s.setRegs r ws).setPreds r ps).dropSlot r (slotOf h.x)).goOn8 r
    else s.releaseOp r (s.heldOp r h ws ps)
  | _ => s

/-- Withdraws a held lane with no effect: its slot falls and its PC stays (R230, R257, R276). -/
def State.withdraw (s : State) (r : LaneRef) : State :=
  match (s.lane r).cond with
  | .held h => (s.dropSlot r (slotOf h.x)).modLane r (fun y => { y with cond := .running, since := s.cycle + 1 })
  | _ => s

/-- Faults a held lane at its instruction (R172, R299). -/
def State.faultHeld (s : State) (r : LaneRef) (code : Nat) (addr : Nat := 0) : State :=
  match (s.lane r).cond with
  | .held h =>
    let pc := (s.lane r).pc.toNat
    (s.dropSlot r (slotOf h.x)).park r { code := code, detail := 0, len := 4, addr := addr, insn := h.insn, fpc := pc } false
  | _ => s

/-! ### Common prologue of an instruction -/

/-- Whether the read of a lane's guard fails parity checking (R20). -/
def State.guardLost (s : State) (p : BitVec 3) (r : LaneRef) : Bool := p != 0 && (s.lane r).badParity.contains (256 + p.toNat)
/-- The fault a present lane takes before the instruction has any effect, with its DETAIL and address: a guard whose read fails (R20); in a
lane whose guard holds, a failed static check; then a register whose read fails, the lane's own or a group's, which every active lane takes
(R20, R306: the lowest number where several fail). The spec does not order several faults of one lane at one instruction; the
model takes a static fault first, then REGISTER_PARITY, then what the meaning itself raises, DET_VIOLATION among it (DESIGN CHOICE, log entry
70). -/
def State.verdict (s : State) (p : BitVec 3) (neg : Bool) (bad : State → LaneRef → Option (Nat × Nat))
    (parity : State → LaneRef → Option Nat × Option Nat) (r : LaneRef) : Option (Nat × Nat × Nat) :=
  if s.guardLost p r then some (3, 256 + p.toNat, 0)
  else if !s.guard p neg r then none
  else match bad s r with
    | some (code, addr) => some (code, 0, addr)
    | none =>
      let readers := (s.active p neg).filter (fun q => !s.guardLost p q && (bad s q).isNone)
      match ((parity s r).1.toList ++ readers.filterMap (fun q => (parity s q).2)).min? with
      | some n => some (3, n, 0)
      | none => none
/-- Executes an instruction with a guard: lanes whose guard is false go on, lanes with a fault take it, and `f` acts on the other active
lanes. -/
def execute (p : BitVec 3) (neg : Bool) (bad : State → LaneRef → Option (Nat × Nat)) (parity : State → LaneRef → Option Nat × Option Nat)
    (f : State → List LaneRef → State) (s : State) : State :=
  let rest := s.present.filter (fun r => !s.guard p neg r && !s.guardLost p r)
  let s1 := s.present.foldl (fun s' r => match s.verdict p neg bad parity r with
    | some (code, detail, addr) => s'.raise r code addr detail
    | none => s') (s.advanceAll rest)
  f s1 ((s.active p neg).filter (fun r => (s.verdict p neg bad parity r).isNone))

end Sys2Proof.Machine
end

