-- ==== Sys2Proof/Machine/QueueBlock.lean ====
section
/-! DEFINITION. The control block of a queue (R259 to R261) as a 512-bit number, with its check (R264). -/

namespace Sys2Proof.Machine

open Sys2Proof

/-- One shift of the CRC (R260). -/
def crcShift (c : Nat) : Nat := if 2 ^ 15 ≤ c then Nat.xor (c * 2 % 2 ^ 16) 0x1021 else c * 2 % 2 ^ 16
/-- Takes one byte into the CRC. -/
def crcByte (c b : Nat) : Nat :=
  let x := Nat.xor c (b * 256)
  crcShift (crcShift (crcShift (crcShift (crcShift (crcShift (crcShift (crcShift x)))))))
/-- CRC over the first `k` bytes of a number, from the lowest (R260). -/
def crcOf (n : Nat) : Nat → Nat
  | 0 => 0xFFFF
  | k + 1 => crcByte (crcOf n k) (bits n (8 * k + 7) (8 * k))

/-- The fields of a control block (R259). `state`: 0 OPEN, 1 CLOSED, 2 BROKEN. -/
structure QBlock where
  base : Nat
  tail : Nat
  head : Nat
  free : Nat
  resv : Nat
  esz4 : Nat
  log2cap : Nat
  state : Nat
  owner : Nat
  gen : Nat
  pend : Nat
  deriving DecidableEq, Repr

/-- Reads a block. -/
def qDecode (n : Nat) : QBlock :=
  { base := bits n 63 0, tail := bits n 95 64, head := bits n 127 96, free := bits n 159 128, resv := bits n 191 160,
    esz4 := bits n 199 192, log2cap := bits n 204 200, state := bits n 209 208, owner := bits n 217 216, gen := bits n 239 224,
    pend := bits n 511 256 }
/-- Bytes 0x00 to 0x1D of a block. -/
def qLow (q : QBlock) : Nat :=
  q.base % 2 ^ 64 + q.tail % 2 ^ 32 * 2 ^ 64 + q.head % 2 ^ 32 * 2 ^ 96 + q.free % 2 ^ 32 * 2 ^ 128 + q.resv % 2 ^ 32 * 2 ^ 160
    + q.esz4 % 2 ^ 8 * 2 ^ 192 + q.log2cap % 2 ^ 5 * 2 ^ 200 + q.state % 4 * 2 ^ 208 + q.owner % 4 * 2 ^ 216 + q.gen % 2 ^ 16 * 2 ^ 224
/-- A block's 512 bits, its CRC recomputed (R260). -/
def qEncode (q : QBlock) : Nat := qLow q + crcOf (qLow q) 30 * 2 ^ 240 + q.pend % 2 ^ 256 * 2 ^ 256
/-- C (R259). -/
def QBlock.cap (q : QBlock) : Nat := 2 ^ q.log2cap
/-- E in bytes (R259). -/
def QBlock.esize (q : QBlock) : Nat := 4 * (q.esz4 + 1)
/-- Elements visible and not taken. -/
def QBlock.visible (q : QBlock) : Nat := (q.tail + (2 ^ 32 - q.head)) % 2 ^ 32
/-- Whether the stored CRC is right (R260). -/
def qCrcOk (n : Nat) : Bool := bits n 255 240 == crcOf n 30
/-- check(q) at a home on a die (R264). -/
def qCheck (die n : Nat) : Bool :=
  let q := qDecode n
  qCrcOk n && bits n 223 218 == 0 && bits n 215 210 == 0 && bits n 207 205 == 0 && q.state != 3 && q.state != 2
    && decide (1 ≤ q.log2cap) && decide (q.log2cap ≤ 24) && q.owner == die && decide (q.visible ≤ q.cap)
    && q.free == (q.cap + 2 ^ 33 - q.visible - q.resv) % 2 ^ 32 && decide (q.resv ≤ 256) && decide (q.pend < 2 ^ q.resv)
/-- Whether 64 bytes at a home on a die stand as a control block that the home keeps: right CRC, reserved fields 0, and its own die as OWNER
(R259, R260; log entry 66). -/
def qStands (die n : Nat) : Bool :=
  let q := qDecode n
  qCrcOk n && bits n 223 218 == 0 && bits n 215 210 == 0 && bits n 207 205 == 0 && q.state != 3 && decide (1 ≤ q.log2cap) &&
    decide (q.log2cap ≤ 24) && q.owner == die
/-- A block set BROKEN: its other bytes stand, and the CRC is recomputed (R264, R265). -/
def qBreak (n : Nat) : Nat :=
  let low := bits n 207 0 + 2 * 2 ^ 208 + bits n 239 210 * 2 ^ 210
  low + crcOf low 30 * 2 ^ 240 + bits n 511 256 * 2 ^ 256
/-- Address of the element with an index (R261). -/
def QBlock.slotAddr (q : QBlock) (i : Nat) : Nat := q.base + i % q.cap * q.esize
/-- A reservation's index and the block after it (R262, R269). -/
def QBlock.reserve (q : QBlock) : Nat × QBlock := ((q.tail + q.resv) % 2 ^ 32, { q with resv := q.resv + 1, free := q.free - 1 })
/-- Makes every committed reservation at the front visible (R270). -/
def QBlock.front : Nat → QBlock → QBlock
  | 0, q => q
  | n + 1, q =>
    if 0 < q.resv ∧ q.pend % 2 = 1 then
      QBlock.front n { q with pend := q.pend / 2, tail := (q.tail + 1) % 2 ^ 32, resv := q.resv - 1 }
    else q
/-- A commit of an index (R270). -/
def QBlock.commit (q : QBlock) (i : Nat) : QBlock :=
  let k := (i + (2 ^ 32 - q.tail)) % 2 ^ 32
  QBlock.front 256 { q with pend := Nat.lor q.pend (2 ^ k) }
/-- A take (R262, R271). -/
def QBlock.take (q : QBlock) : QBlock := { q with head := (q.head + 1) % 2 ^ 32, free := q.free + 1 }
/-- The block QINIT writes (R268). -/
def qMake (base cap esize owner gen : Nat) : QBlock :=
  { base := base, tail := 0, head := 0, free := cap, resv := 0, esz4 := esize / 4 - 1, log2cap := Nat.log2 cap, state := 0, owner := owner,
    gen := gen, pend := 0 }
/-- Whether QINIT refuses its parameters for a block at an address (R268). -/
def qParamBad (ctl base cap esize : Nat) : Bool :=
  !(decide (2 ≤ cap) && decide (cap ≤ 2 ^ 24) && 2 ^ Nat.log2 cap == cap) || esize % 4 != 0 || decide (esize < 4) || decide (256 < esize)
    || base % 4 != 0 || bits base 63 56 != 0 || (decide (base < ctl + 64) && decide (ctl < base + cap * esize))

end Sys2Proof.Machine
end

