-- ==== Sys2Proof/Machine/Memory.lean ====
section
/-! DEFINITION. Memory: the canonical byte list, translation (R401 to R407), the home of a line with its copies, signatures and
armed objects (R185, R237, R238, R255, R366 to R368), and local memory with its stash (R181 to R186). -/

namespace Sys2Proof.Machine

open Sys2Proof

/-! ### Bytes in canonical form -/

/-- What an unlisted byte reads as: zero, as bring-up leaves all memory (R423). -/
def memDefault : Byte := 0
/-- Reads one byte. -/
def memGet : List Host.Cell → Nat → Byte
  | [], _ => memDefault
  | (a, b) :: r, k => if a = k then b else memGet r k
/-- Writes one byte; a byte equal to the default is not listed. -/
def memSet : List Host.Cell → Nat → Byte → List Host.Cell
  | [], k, v => if v = memDefault then [] else [(k, v)]
  | (a, b) :: r, k, v =>
    if k < a then (if v = memDefault then (a, b) :: r else (k, v) :: (a, b) :: r)
    else if k = a then (if v = memDefault then r else (k, v) :: r)
    else (a, b) :: memSet r k v
/-- The canonical form: addresses strictly rising, no entry equal to the default. -/
def Memory.wf : List Host.Cell → Bool
  | [] => true
  | (a, b) :: r => b != memDefault && (match r with | [] => true | (c, _) :: _ => decide (a < c)) && Memory.wf r
/-- Reads `n` bytes. -/
def memGetN (m : List Host.Cell) (a : Nat) : Nat → List Byte
  | 0 => []
  | n + 1 => memGet m a :: memGetN m (a + 1) n
/-- Writes bytes at rising addresses. -/
def memSetN : List Host.Cell → Nat → List Byte → List Host.Cell
  | m, _, [] => m
  | m, a, b :: bs => memSetN (memSet m a b) (a + 1) bs
/-- Little-endian reading (R4). -/
def leNat : List Byte → Nat
  | [] => 0
  | b :: r => b.toNat + 256 * leNat r
/-- Little-endian bytes (R4). -/
def leBytes : Nat → Nat → List Byte
  | 0, _ => []
  | n + 1, v => BitVec.ofNat 8 v :: leBytes n (v / 256)
/-- Bytes of zero. -/
def zeros (n : Nat) : List Byte := List.replicate n 0

/-- A number in memory as it stands. -/
def State.memNat (s : State) (pa n : Nat) : Nat := leNat (memGetN s.mem pa n)
/-- Line of an address (R4). -/
def lineOf (pa : Nat) : Nat := pa / 256 * 256
/-- Sector of an address (R4). -/
def sectorOf (pa : Nat) : Nat := pa / 64 * 64
/-- First addresses of the sectors a range touches. -/
def sectorsOf (pa n : Nat) : List Nat :=
  if n = 0 then [] else (List.range ((pa + n - 1) / 64 - pa / 64 + 1)).map (fun i => (pa / 64 + i) * 64)
/-- First addresses of the lines a range touches. -/
def linesOf (pa n : Nat) : List Nat :=
  if n = 0 then [] else (List.range ((pa + n - 1) / 256 - pa / 256 + 1)).map (fun i => (pa / 256 + i) * 256)

/-! ### Signatures (R366 to R368) -/

/-- Union of signatures. Two hash functions set at most 512 bits for 256 lines; from there on the union is "invalidate all" (R367). -/
def Sig.or : Sig → Sig → Sig
  | .lines a, .lines b => let l := b.foldl (fun l x => insertNew x l) a; if l.length < 256 then .lines l else .all
  | _, _ => .all
/-- Whether a signature matches a line. -/
def Sig.covers : Sig → Nat → Bool
  | .lines a, l => a.contains l
  | .all, _ => true
/-- The signature field of a line (R367). It is kept by 4-byte word, so that a store to another word of the line does not take away
what a release left (R363; log entry 9); an acquire receives the whole line's. -/
def State.field (s : State) (line : Nat) : Sig :=
  s.sigs.foldl (fun g e => if e.1 / 64 = line / 256 then g.or e.2 else g) (.lines [])
/-- A store with a release part replaces the field at the words it writes (R367). -/
def State.putField (s : State) (pa n : Nat) (g : Sig) : State :=
  { s with sigs := (List.range ((pa + n - 1) / 4 - pa / 4 + 1)).foldl (fun t i => Tab.set t (pa / 4 + i) g) s.sigs }
/-- A store without a release part empties the field at the words it overwrites (R367). -/
def State.emptyField (s : State) (pa n : Nat) : State :=
  { s with sigs := s.sigs.filter (fun e => !(pa ≤ 4 * e.1 && 4 * e.1 + 4 ≤ pa + n)) }
/-- A read-modify-write with a release part ORs its signature into the field (R367). -/
def State.orField (s : State) (pa : Nat) (g : Sig) : State :=
  { s with sigs := Tab.set s.sigs (pa / 4) ((Tab.getD s.sigs (pa / 4) (.lines [])).or g) }
/-- A lane has written a line (R366). -/
def State.noteWrite (s : State) (r : LaneRef) (line : Nat) : State :=
  s.modLane r (fun x => { x with sig := x.sig.or (.lines [line]) })
/-- Drops a core's L1 copies of the sectors a signature matches. -/
def State.dropL1 (s : State) (core : Nat) (g : Sig) : State :=
  { s with l1 := s.l1.filter (fun e => !(e.2.core == core && g.covers (lineOf e.2.pa))) }
/-- Turns the CLEAN sectors of a mapping that a signature matches to INVALID. -/
def Mapping.drop (m : Mapping) (g : Sig) : Mapping :=
  { m with sectors := m.sectors.map (fun e => match e.2 with
      | .clean pa => (e.1, if g.covers (lineOf pa) then .invalid else .clean pa)
      | x => (e.1, x)) }
/-- Applies a signature for a team (R368). -/
def State.applySig (s : State) (t : Nat) (g : Sig) : State :=
  if g = .lines [] then s else
  (s.dropL1 (s.team t).gcore g).modTeam t (fun x => { x with stash := x.stash.map (fun m => m.drop g) })
/-- Adds lines to the signature that a lane's next releases carry (R366). -/
def State.receive (s : State) (r : LaneRef) (g : Sig) : State := s.modLane r (fun x => { x with sig := x.sig.or g })
/-- The acquire part of an access to a line at a scope: the field is received, so that the lane's next releases carry it, and at gang scope
or wider it is applied (R366, R368). Within a core nothing has to be invalidated. -/
def State.acquireSig (s : State) (r : LaneRef) (scope : Nat) (g : Sig) : State :=
  if scope = 0 then s else (if 4 ≤ scope then s.applySig r.team g else s).receive r g
/-- A strong load without an acquire part keeps the signature it met for a later acquire fence (R228). -/
def State.noteSeen (s : State) (r : LaneRef) (scope : Nat) (g : Sig) : State :=
  if scope = 0 ∨ g = .lines [] then s else s.modLane r (fun x => { x with seen := x.seen.or g })
/-- What a release of a lane carries (R366): every line it has written or received. A release below gang scope carries it too, so that what
happens before one of its observers' wider releases is covered by them (R364); and no release takes a line out, since a later one at a
narrower scope may be the one that is read. -/
def State.releaseSig (s : State) (r : LaneRef) : Sig := (s.lane r).sig

/-- Drops every core's L1 copies and every CLEAN stash sector of a range of lines (R371, R415). -/
def State.dropAll (s : State) (pa n : Nat) : State :=
  let s := { s with l1 := s.l1.filter (fun e => !(pa ≤ e.2.pa && e.2.pa < pa + n)) }
  { s with teams := s.teams.map (fun e => (e.1, { e.2 with stash := e.2.stash.map (fun m =>
      { m with sectors := m.sectors.map (fun x => match x.2 with
          | .clean p => (x.1, if pa ≤ p && p < pa + n then .invalid else .clean p)
          | y => (x.1, y)) }) })) }

/-! ### Armed lines (R255) -/

/-- Removes waiters. -/
def State.dropWaiters (s : State) (p : Waiter → Bool) : State :=
  { s with waiters := s.waiters.filter (fun e => !p e.2) }
/-- A reservation on a queue is lost: the reserver faults with QUEUE_CORRUPT (R264), after the fact (R489). -/
def State.loseCommits (s : State) (p : Commit → Bool) : State :=
  let cs := s.commits.filter (fun e => p e.2)
  if cs.isEmpty then s else
  let ks := cs.map (fun e => e.2.op)
  { s with
    commits := s.commits.filter (fun e => !p e.2),
    ops := s.ops.map (fun e => if ks.contains e.1 then (e.1, { e.2 with wait := .ready, late := some { e.2.info with code := 0x11, addr := 0 } }) else e) }
/-- The lanes that share a held issue: one take serves them all (R267). -/
def State.mates (s : State) (r : LaneRef) (order : Nat) : List LaneRef :=
  (s.groupLanes r.team r.g).filter (fun q => match (s.lane q).cond with | .held h => h.order == order | _ => false)
/-- The lanes for which a waiter stands. -/
def State.waiting (s : State) (w : Waiter) : List LaneRef :=
  match (s.lane w.lane).cond with
  | .held h => s.mates w.lane h.order
  | _ => []
/-- Sets a queue block BROKEN, as the home does; its uncommitted reservers fault (R264, R265). -/
def State.breakBlock (s : State) (pa : Nat) : State :=
  (({ s with mem := memSetN s.mem pa (leBytes 64 (qBreak (leNat (memGetN s.mem pa 64)))) } : State).dropAll pa 64).loseCommits (fun c => c.ctl == pa)
/-- Breaks objects of an armed line, those of the waiters named: each waiter faults, with QUEUE_CORRUPT at a queue (R265) and
OBJECT_BROKEN elsewhere (R255). -/
def State.breakWaiters (s : State) (p : Waiter → Bool) : State :=
  let ws := (s.waiters.filter (fun e => p e.2)).map Prod.snd
  if ws.isEmpty then s else
  let s := s.dropWaiters p
  let s := { s with chains := s.chains.filter (fun e => !(ws.any (fun w => w.kind == .chain && w.localTo == 0 && w.pa == e.2.pa))) }
  let isQueue (w : Waiter) : Bool := w.kind == .enq || w.kind == .deq
  let s := (distinct ((ws.filter isQueue).map (·.pa))).foldl (fun s pa => s.breakBlock pa) s
  ws.foldl (fun s w => if isQueue w then (s.waiting w).foldl (fun s q => s.faultHeld q 0x11) s else s.faultHeld w.lane 0x10) s
/-- Breaks the objects of an armed line of global memory. -/
def State.breakLine (s : State) (line : Nat) : State := s.breakWaiters (fun w => w.localTo == 0 && lineOf w.pa == line)
/-- Breaks the objects of an armed line of a team's region. -/
def State.breakLocal (s : State) (t line : Nat) : State := s.breakWaiters (fun w => w.localTo == t + 1 && lineOf w.pa == line)

/-! ### The home (R185, R238) -/

/-- Writes bytes of memory as they stand. -/
def State.poke (s : State) (pa : Nat) (bs : List Byte) : State := { s with mem := memSetN s.mem pa bs }

/-- The DIRTY sectors of a team that hold a physical sector: mapping index, sector index. -/
def Team.dirtyAt (t : Team) (pa : Nat) : List (Nat × Nat) :=
  (t.stash.zipIdx).flatMap (fun e => (e.1.sectors.filter (fun x => x.2 == .dirty pa)).map (fun x => (e.2, x.1)))
/-- Sets the state of a sector of a mapping. -/
def Team.setSector (t : Team) (m k : Nat) (x : Sector) : Team :=
  { t with stash := t.stash.modify m (fun y => { y with sectors := Tab.set y.sectors k x }) }
/-- Local offset of a sector of a mapping. -/
def Team.sectorOff (t : Team) (m k : Nat) : Nat := match t.stash[m]? with | some y => y.laddr + 64 * k | none => 0

/-- The stop record of an event that reaches no lane (R432). -/
def lostStop (cycle time addr : Nat) : StopInfo :=
  { cause := 8, place := 0, teamid := 0, pc := 0, addr := addr, time := time, where_ := 0, count := 1, cycle := cycle, written := false }

/-- Stops a grid for a lost event that reaches no lane (R432). -/
def State.stopLost (s : State) (g addr : Nat) : State :=
  let x := s.grid g
  if !x.strict then s else
  match x.stop with
  | some st => s.setGrid g { x with stop := some { st with count := st.count + 1 } }
  | none => s.setGrid g { x with stop := some (lostStop s.cycle (s.now / 100) addr) }

/-- Writes back one DIRTY sector; a sector that holds uncorrectable data is lost and counted (R431). -/
def State.writeBack (s : State) (t m k pa : Nat) (after : Sector) : State :=
  let x := s.team t
  let off := x.sectorOff m k
  let s1 := s.modTeam t (fun y => y.setSector m k after)
  if x.localBad.contains (off / 64) then
    (s1.count 4 0 5).stopLost x.grid (match x.stash[m]? with | some y => y.gaddr + 64 * k | none => 0)
  else s1.poke pa (memGetN x.localMem off 64)

/-- Recalls every DIRTY copy of a sector: write back, then CLEAN. -/
def State.recallDirty (s : State) (pa : Nat) : State :=
  s.teams.foldl (fun s e => (e.2.dirtyAt pa).foldl (fun s d => s.writeBack e.1 d.1 d.2 pa (.clean pa)) s) s
/-- Turns every CLEAN stash copy of a sector to INVALID. -/
def State.dropClean (s : State) (pa : Nat) : State :=
  if s.teams.all (fun e => e.2.stash.isEmpty) then s else
  { s with teams := s.teams.map (fun e => (e.1, { e.2 with stash := e.2.stash.map (fun m =>
      { m with sectors := m.sectors.map (fun x => if x.2 == .clean pa then (x.1, .invalid) else x) }) })) }

/-- The directory evicts a sector: a DIRTY copy is written back, and no stash holds the sector any more (R185). -/
def State.evictSector (s : State) (pa : Nat) : State := (s.recallDirty pa).dropClean pa

/-- A combination meets a sector that may hold uncorrectable data (R431, R432): its words count as zeros, MEMDROP of the team that merged, or a stop
of its grid under STRICT, since no lane receives them. -/
def State.updBad (s : State) (t pa : Nat) : State :=
  if !s.bad.contains pa then s else
  let s := s.count 4 0 3
  if (s.gridOf t).strict then s.stopLost (s.team t).grid 0 else s.setTerr t 0
/-- Combines one update-only copy into its line (R238), a read-modify-write of each word it touches. INV goes to the team that merged into the
copy last (DEDUCED, log entry 31). -/
def State.combineCopy (s : State) (c : UpdCopy) : State :=
  let w := c.width / 8
  let s := (distinct (c.parts.map (fun e => sectorOf (c.line + w * e.1)))).foldl (fun s p => s.updBad c.team p) s
  let s := c.parts.foldl (fun s e =>
    let pa := c.line + w * e.1
    let s := (s.recallDirty (sectorOf pa)).dropClean (sectorOf pa)
    let old := if s.bad.contains (sectorOf pa) then 0 else s.memNat pa w
    let r := atomicOp c.op c.width old e.2
    (s.poke pa (leBytes w r.1)).setFlags c.team (FpFlags.ofInv r.2)) s
  let s := if c.parts.isEmpty then s else s.breakLine c.line
  if c.rel then c.parts.foldl (fun s e => s.orField (c.line + w * e.1) c.sig) s else s
/-- Combines every update-only copy of a line (R238). -/
def State.combineLine (s : State) (line : Nat) : State :=
  let cs := s.upd.filter (fun e => e.2.line == line)
  if cs.isEmpty then s else
  cs.foldl (fun s e => s.combineCopy e.2) { s with upd := s.upd.filter (fun e => e.2.line != line) }

/-- Sectors the L1 data cache of a core holds (R165). -/
def l1Sectors : Nat := 2048
/-- Makes room for `n` sectors in a core's L1: the copies filled longest ago go, and where that does not suffice, update-only copies, of four
sectors each, which are sent for combination (R165, R238). -/
def State.roomFor (s : State) (core n : Nat) : State :=
  let mine := s.l1.filter (fun e => e.2.core == core)
  let upd := s.upd.filter (fun e => e.2.core == core)
  let excess := mine.length + 4 * upd.length + n - l1Sectors
  if excess = 0 then s else
  let old := (mine.take excess).map Prod.fst
  let us := upd.take ((excess - mine.length + 3) / 4)
  us.foldl (fun s e => s.combineCopy e.2)
    { s with l1 := s.l1.filter (fun e => !old.contains e.1), upd := s.upd.filter (fun e => !us.any (fun u => u.1 == e.1)) }

/-- What the home does before it serves a read (R185, R238). -/
def State.prepRead (s : State) (pa n : Nat) : State :=
  (linesOf pa n).foldl (fun s l => s.combineLine l) ((sectorsOf pa n).foldl (fun s p => s.recallDirty p) s)
/-- What the home does before it serves a write (R185, R238). -/
def State.prepWrite (s : State) (pa n : Nat) : State :=
  let s := s.prepRead pa n
  (sectorsOf pa n).foldl (fun s p => s.dropClean p) s
/-- Bytes of a sector copy updated by a store. -/
def patch (base : Nat) (data : List Byte) (pa : Nat) (bs : List Byte) : List Byte :=
  data.zipIdx.map (fun e => if pa ≤ base + e.2 then (bs[base + e.2 - pa]?).getD e.1 else e.1)
/-- A store goes through to its own core's L1 copy (R358). -/
def State.patchL1 (s : State) (core pa : Nat) (bs : List Byte) : State :=
  { s with l1 := s.l1.map (fun e =>
      if e.2.core == core && (sectorsOf pa bs.length).contains e.2.pa then (e.1, { e.2 with data := patch e.2.pa e.2.data pa bs }) else e) }
/-- A write at the home that breaks the objects of an armed line. -/
def State.homeWrite (s : State) (pa : Nat) (bs : List Byte) : State :=
  let s := (s.prepWrite pa bs.length).poke pa bs
  (linesOf pa bs.length).foldl (fun s l => s.breakLine l) s
/-- A write at the home by an operation on its own object, which breaks nothing (R255). -/
def State.objectWrite (s : State) (pa : Nat) (bs : List Byte) : State :=
  (s.prepWrite pa bs.length).poke pa bs
/-- The bytes the home serves, with whether a sector of them holds uncorrectable data; its bytes are then zero (R430). -/
def State.serve (s : State) (pa n : Nat) : List Byte × Bool :=
  if s.bad.isEmpty then (memGetN s.mem pa n, false) else
  ((List.range n).map (fun i => if s.bad.contains (sectorOf (pa + i)) then 0 else memGet s.mem (pa + i)),
   (sectorsOf pa n).any (fun p => s.bad.contains p))
/-- A read at the home. -/
def State.homeRead (s : State) (pa n : Nat) : List Byte × Bool × State :=
  let s := s.prepRead pa n
  let v := s.serve pa n
  (v.1, v.2, s)
/-- Drops a core's L1 copies of the sectors of a range. -/
def State.dropL1At (s : State) (core pa n : Nat) : State :=
  { s with l1 := s.l1.filter (fun e => !(e.2.core == core && (sectorsOf pa n).contains e.2.pa)) }
/-! ### Physical and virtual addresses (R401 to R407) -/
/-- A read at the home by a thread of a core: the core's L1 copies of what it has read are dropped, so that no later load of the thread
returns an older value (R359). -/
def State.homeReadBy (s : State) (core pa n : Nat) : List Byte × Bool × State :=
  let h := s.homeRead pa n
  (h.1, h.2.1, h.2.2.dropL1At core pa n)

/-- Whether a physical address lies in host memory. -/
def isHost (pa : Nat) : Bool := bits pa 47 46 == 1
/-- Whether a physical address is valid (R401). -/
def physValid (pa : Nat) : Bool :=
  pa < 2 ^ 48 && (isHost pa || (bits pa 47 40 == 0 && decide (bits pa 37 0 < 48 * 2 ^ 30)))
/-- Die of a device address (R401). -/
def dieOfPa (pa : Nat) : Nat := bits pa 39 38
/-- Bytes a leaf at a level maps (R404). -/
def leafSize (level : Nat) : Nat := if level = 2 then 2 ^ 30 else if level = 1 then 2 ^ 21 else 2 ^ 16
/-- Index bits of a level (R404). -/
def levelIndex (level va : Nat) : Nat :=
  if level = 4 then bits va 55 48 else if level = 3 then bits va 47 39 else if level = 2 then bits va 38 30
  else if level = 1 then bits va 29 21 else bits va 20 16
/-- Alignment of the table an entry of a level points to (R404). -/
def tableAlign (level : Nat) : Nat := if level = 1 then 256 else 4096

/-- Checks an entry under R405 and R406: the fields of a leaf, a pointer or a fault. -/
def entryFault (s : State) (level e : Nat) : Bool :=
  let leaf := bit e 1
  let ver := bit e 6
  let pa := bits e 47 8 * 256
  !bit e 0 || bits e 63 48 != 0 || bit e 7 || bit e 5
    || (level == 0 && !leaf) || (3 ≤ level && leaf)
    || (ver && (!leaf || level != 1 || bit e 3 || bit e 4 || !bit e 2))
    || (if leaf then
          (if ver then bits e 47 20 != 0 || (Tab.find s.versions (bits e 19 8)).isNone
           else pa % leafSize level != 0 || !physValid pa)
        else pa % tableAlign level != 0 || !physValid pa)

/-- How an address is reached. -/
inductive Place where
  /-- A physical address; the version index where the page is versioned. -/
  | mem (pa : Nat) (ver : Option Nat)
  | fabric
  /-- A fault code, and whether an entry read met uncorrectable data. -/
  | bad (code : Nat) (ue : Bool)
  deriving DecidableEq, Repr

/-- The outcome of a walk: a leaf entry and its page size, or a fault. -/
inductive WalkEnd where
  | leaf (e size : Nat)
  | bad (code : Nat) (ue : Bool)
  deriving DecidableEq, Repr

/-- An entry as a walker reads it, at its home (R404); none where it meets uncorrectable data. -/
def State.entryAt (s : State) (pa : Nat) : Option Nat :=
  let s := s.prepRead pa 8
  if s.bad.contains (sectorOf pa) then none else some (s.memNat pa 8)
/-- The walk of R404 from an entry address, with `level + 1` levels left. Entries are read at their homes. -/
def walkFrom (s : State) (strict : Bool) (va : Nat) : Nat → Nat → WalkEnd
  | level, pa =>
    match s.entryAt pa with
    | none => .bad (if strict then 8 else 5) true
    | some e =>
      if entryFault s level e then .bad 5 false
      else if bit e 1 then .leaf e (leafSize level)
      else match level with
        | 0 => .bad 5 false
        | l + 1 => walkFrom s strict va l (bits e 47 8 * 256 + 8 * levelIndex l va)

/-- The settled frame of a version entry (R401, R413, R414). -/
def State.settled (s : State) (v : Nat) : Nat :=
  match Tab.find s.versions v with
  | some x => bits v 11 10 * 2 ^ 38 + (if x.sel then x.frame1 else x.frame0) * 2 ^ 21
  | none => 0
/-- The incoming frame of a version entry. -/
def State.incoming (s : State) (v : Nat) : Nat :=
  match Tab.find s.versions v with
  | some x => bits v 11 10 * 2 ^ 38 + (if x.sel then x.frame0 else x.frame1) * 2 ^ 21
  | none => 0

/-- Whether a translation permits an access (R407): 0 read, 1 write, 2 fetch; 3 is no access, as a pin makes none (R215). -/
def permits (e acc : Nat) : Bool :=
  if acc = 0 then bit e 2 else if acc = 1 then bit e 2 && bit e 3 && !bit e 6 else if acc = 2 then bit e 4 else true

/-- A leaf's place for an address and an access (R407). -/
def State.leafPlace (s : State) (e size va acc : Nat) : Place :=
  if !permits e acc then .bad 6 false
  else if bit e 6 then
    let v := bits e 19 8
    if (Tab.find s.versions v).isNone then .bad 5 false else .mem (s.settled v + va % size) (some v)
  else .mem (bits e 47 8 * 256 + va % size) none

/-- The cached translation of an address, if there is one (R409, R410). -/
def State.tlbHit (s : State) (g va : Nat) : Option TlbEntry :=
  s.tlb.find? (fun e => e.grid == g && decide (e.va ≤ va) && decide (va < e.va + e.size))

/-- The walk of a grid's address. -/
def State.walkVa (s : State) (g va : Nat) : WalkEnd :=
  walkFrom s (s.grid g).strict va 4 ((s.grid g).root + 8 * levelIndex 4 va)

/-- Reads an address value as R403 does, through a cached translation or the walk. -/
def State.place (s : State) (g va acc : Nat) : Place :=
  if bits va 63 57 ≠ 0 then .bad 5 false
  else if bit va 56 then .fabric
  else match s.tlbHit g va with
    | some e => s.leafPlace e.pte e.size va acc
    | none =>
      match s.walkVa g va with
      | .leaf e size => s.leafPlace e size va acc
      | .bad c ue => .bad c ue

/-- Whether a page under migration, one that is not versioned, held a physical address (R411). -/
def Migration.covers (m : Migration) (pa : Nat) : Bool := !m.versioned && decide (m.old ≤ pa) && decide (pa < m.old + m.size)
/-- Counts an entry read that met uncorrectable data (R406, R431). -/
def State.countUe (s : State) (ue : Bool) : State := if ue then s.count 4 0 3 else s

/-! ### Loads and stores of global memory by threads -/

/-- The outcome of a read: the state, the bytes, whether they met uncorrectable data, and a fault found at the home. -/
structure Got where
  s : State
  data : List Byte
  drop : Bool
  late : Option Nat
  deriving DecidableEq, Repr

/-- The DET mark of a line faults a thread of its grid (R242). -/
def State.marked (s : State) (g pa : Nat) : Bool := s.marks.contains (lineOf pa, g)

/-- Uncorrectable data met by a thread's read: zeros, MEMDROP and a count, or the STRICT fault (R207, R431, R432). -/
def State.metBad (s : State) (r : LaneRef) (counter : Nat) (drop : Bool) : State × Option Nat :=
  if !drop then (s, none) else
  let s := s.count 4 0 counter
  if (s.gridOf r.team).strict then (s, some 8) else (s.setTerr r.team 0, none)
/-- Uncorrectable data met by a load: a helper lane takes no fault and sets no flag (R22, R309). -/
def State.loadBad (s : State) (r : LaneRef) (counter : Nat) (drop : Bool) : State × Option Nat :=
  if s.isHelper r then (if drop then s.count 4 0 counter else s, none) else s.metBad r counter drop

/-- A load of global memory at its home (R358, R242). -/
def State.readHome (s : State) (r : LaneRef) (pa n : Nat) : Got :=
  let h := s.homeReadBy (s.team r.team).gcore pa n
  let g := (s.team r.team).grid
  if h.2.2.marked g pa then { s := h.2.2, data := zeros n, drop := false, late := if s.isHelper r then none else some 0x19 }
  else
    let b := h.2.2.loadBad r 3 h.2.1
    { s := b.1, data := h.1, drop := h.2.1, late := b.2 }

/-- Brings a sector into a core's L1, in place of an older copy of it. -/
def State.fillL1 (s : State) (core pa : Nat) (data : List Byte) : State :=
  let s := ({ s with l1 := s.l1.filter (fun e => !(e.2.core == core && e.2.pa == pa)) } : State).roomFor core 1
  { s with l1 := Tab.set s.l1 s.nextKey { core := core, pa := pa, data := data, filled := s.cycle }, nextKey := s.nextKey + 1 }

/-- What a load of a line learns of its signature field: an acquire receives and applies it, another strong load keeps it (R228, R366, R368). -/
def State.meetField (s : State) (r : LaneRef) (pa scope ord : Nat) : State :=
  let f := s.field (lineOf pa)
  if ord % 2 = 1 then s.acquireSig r scope f else s.noteSeen r scope f
/-- A load of at most one sector (R209, R358, R365): at scopes 0 to 3 the core's L1 copy serves it, or a fill; at scopes 4 to 7 the
home does. -/
def State.readGlobal (s : State) (r : LaneRef) (pa n scope ord : Nat) : Got :=
  let core := (s.team r.team).gcore
  let copy := if scope < 4 && !isHost pa then (s.l1.find? (fun e => e.2.core == core && e.2.pa == sectorOf pa)).map Prod.snd else none
  match copy with
  | some c =>
    let b := (s.meetField r pa scope ord).loadBad r 5 c.bad
    { s := b.1, data := if c.bad then zeros n else (c.data.drop (pa - c.pa)).take n, drop := c.bad, late := b.2 }
  | none =>
    let g := s.readHome r pa n
    let s := if scope < 4 && !isHost pa && !g.drop && g.late.isNone && !g.s.marked (s.team r.team).grid pa then
        g.s.fillL1 core (sectorOf pa) (memGetN (g.s.prepRead (sectorOf pa) 64).mem (sectorOf pa) 64)
      else g.s
    { g with s := s.meetField r pa scope ord }

/-- A store of global memory (R209, R358, R367). A strong store that follows a release fence of its lane carries the lane's
signature too (R363). -/
def State.writeGlobal (s : State) (r : LaneRef) (pa : Nat) (bs : List Byte) (scope ord : Nat) : State :=
  let core := (s.team r.team).gcore
  let s := (s.homeWrite pa bs).patchL1 core pa bs
  if isHost pa then s else
  let line := lineOf pa
  let s := s.noteWrite r line
  let rel := 2 ≤ ord
  let fenced := decide (1 ≤ scope) && decide (1 ≤ (s.lane r).fenced)
  if rel || fenced then s.putField pa bs.length (s.releaseSig r) else s.emptyField pa bs.length

/-! ### Local memory (R181 to R186) -/

/-- Whether a team holds its slot and its region. -/
def Team.resident (t : Team) : Bool :=
  match t.phase with
  | .running | .stage1 | .stage2 | .stage3 | .stopping | .saving | .flushing => true
  | .bound | .gone | .saved => false
/-- The resident member of a team's gang with a rank. -/
def State.gangMember (s : State) (t rank : Nat) : Option Nat :=
  let me := s.team t
  let id := s.gangOf t * (s.gridOf t).gangSize + rank
  if (s.gridOf t).gangSize ≤ rank then none else
  (s.teams.find? (fun e => e.2.grid == me.grid && e.2.teamid == id && e.2.resident)).map Prod.fst
/-- Size of a team's region in bytes (R180, R378). -/
def State.regionSize (s : State) (t : Nat) : Nat := (s.gridOf t).localSize
/-- The team and offset a local address reaches, or none where R182 faults with LOCAL_BOUNDS. -/
def State.localPlace (s : State) (t a w : Nat) : Option (Nat × Nat) :=
  let off := bits a 18 0
  if bits a 31 22 ≠ 0 then none
  else if !bit a 21 then (if bits a 20 19 ≠ 0 ∨ s.regionSize t < off + w then none else some (t, off))
  else match s.gangMember t (bits a 20 19) with
    | none => none
    | some u => if s.regionSize u < off + w then none else some (u, off)

/-- The mapping and sector a local offset lies in. -/
def Team.stashAt (t : Team) (off : Nat) : Option (Nat × Nat × Mapping) :=
  (t.stash.zipIdx.find? (fun e => decide (e.1.laddr ≤ off) && decide (off < e.1.laddr + e.1.len))).map
    (fun e => (e.2, (off - e.1.laddr) / 64, e.1))

/-- What became of an access to a stash sector. -/
inductive StashEnd where
  /-- Done; whether a fill met uncorrectable data, and the physical sector reached. -/
  | ok (s : State) (drop : Bool) (pa : Nat)
  /-- A fault at issue. -/
  | fault (s : State) (code : Nat)
  /-- A fault found at the home. -/
  | late (s : State) (code : Nat)
  deriving DecidableEq, Repr

/-- Brings a sector to CLEAN or DIRTY for a read (R185). `thread` is false for an engine, which the DET mark does not stop. -/
def State.stashRead (s : State) (t m k : Nat) (mp : Mapping) (thread : Bool) : StashEnd :=
  match Tab.getD mp.sectors k .invalid with
  | .clean pa => .ok s false pa
  | .dirty pa => .ok s false pa
  | .invalid =>
    let g := (s.team t).grid
    match s.place g (mp.gaddr + 64 * k) 0 with
    | .bad c ue => .fault (s.countUe ue) c
    | .fabric => .fault s 6
    | .mem pa _ =>
      if isHost pa then .fault s 6 else
      let h := s.homeRead pa 64
      if thread && h.2.2.marked g pa then .late h.2.2 0x19 else
      let s := h.2.2.modTeam t (fun x => { x.setSector m k (.clean pa) with localMem := memSetN x.localMem (mp.laddr + 64 * k) h.1 })
      .ok s h.2.1 pa
/-- The state of a sector of a team's mapping. -/
def State.sectorState (s : State) (t m k : Nat) : Sector :=
  match (s.team t).stash[m]? with
  | some mp => Tab.getD mp.sectors k .invalid
  | none => .invalid
/-- Brings a sector to DIRTY for a write (R185); `whole` marks a block-transfer write of the whole sector, which needs no fill. The home
first combines update-only copies and recalls the other sharers (R185, R238), so that the sector holds what the line holds then. `breaks` says
that the write breaks what is armed in the line, as every write but a barrier instruction's on its own object does (R255, R265). -/
def State.stashWrite (s : State) (t m k : Nat) (mp : Mapping) (whole thread : Bool) (breaks : Bool := true) : StashEnd :=
  match Tab.getD mp.sectors k .invalid with
  | .dirty pa => .ok (if breaks then s.breakLine (lineOf pa) else s) false pa
  | _ =>
    let g := (s.team t).grid
    match s.place g (mp.gaddr + 64 * k) 1 with
    | .bad c ue => .fault (s.countUe ue) c
    | .fabric => .fault s 6
    | .mem pa _ =>
      if isHost pa then .fault s 6 else
      let s := s.prepRead pa 64
      if !whole && thread && s.sectorState t m k == .invalid && s.marked g pa then .late s 0x19 else
      let s := if breaks then s.breakLine (lineOf pa) else s
      let filled : StashEnd := if whole || s.sectorState t m k != .invalid then .ok s false pa else s.stashRead t m k { mp with sectors := [] } thread
      match filled with
      | .ok s drop _ =>
        let s := (s.dropClean pa).dropL1At (s.team t).gcore pa 64
        .ok (s.modTeam t (fun x => x.setSector m k (.dirty pa))) drop pa
      | e => e

/-- The outcome of a local access: a fault at issue, or the state, bytes and a fault found later. -/
inductive LocalEnd where
  | ok (g : Got)
  | fault (s : State) (code : Nat)
  deriving DecidableEq, Repr

/-- A thread's load of `n` bytes, within one sector, of a team's region (R185, R186, R207). What it has read through the stash its own core
no longer holds older (R359). -/
def State.readLocal (s : State) (r : LaneRef) (t off n : Nat) : LocalEnd :=
  let plain (s : State) (drop : Bool) : LocalEnd :=
    let x := s.team t
    if x.localBad.contains (off / 64) then
      let b := s.loadBad r 5 true
      .ok { s := b.1, data := zeros n, drop := true, late := b.2 }
    else
      let b := s.loadBad r 3 drop
      .ok { s := b.1, data := memGetN x.localMem off n, drop := drop, late := b.2 }
  match (s.team t).stashAt off with
  | none => plain s false
  | some (m, k, mp) =>
    match s.stashRead t m k mp true with
    | .fault s c => .fault s c
    | .late s c => .ok { s := s, data := zeros n, drop := false, late := if s.isHelper r then none else some c }
    | .ok s drop pa => plain (s.dropL1At (s.team r.team).gcore pa 64) drop

/-- Writes bytes of a team's region as they stand. -/
def State.pokeLocal (s : State) (t off : Nat) (bs : List Byte) : State :=
  s.modTeam t (fun x => { x with localMem := memSetN x.localMem off bs })

/-- A thread's write within one sector of a team's region (R185). Armed local objects of the line break (R255). -/
def State.writeLocal (s : State) (r : LaneRef) (t off : Nat) (bs : List Byte) : LocalEnd :=
  let fin (s : State) (late : Option Nat) : LocalEnd := .ok { s := s, data := [], drop := false, late := late }
  match (s.team t).stashAt off with
  | none => fin ((s.pokeLocal t off bs).breakLocal t (lineOf off)) none
  | some (m, k, mp) =>
    match s.stashWrite t m k mp false true with
    | .fault s c => .fault s c
    | .late s c => fin s (some c)
    | .ok s drop pa =>
      let s := (((s.pokeLocal t off bs).breakLocal t (lineOf off)).dropL1At (s.team r.team).gcore pa 64).noteWrite r (lineOf pa)
      let b := s.metBad r 3 drop
      fin b.1 b.2

/-- A block as the home holds it; one that meets uncorrectable data reads as a block that fails its check (R278). -/
def State.blockRead (s : State) (pa : Nat) : Nat × State := let h := s.homeRead pa 64; (if h.2.1 then 0 else leNat h.1, h.2.2)

end Sys2Proof.Machine
end

