-- ==== Sys2Proof/Machine/FabricOps.lean ====
section
/-! DEFINITION. Sending requests through the fabric window: the peer table, streams and epochs (R438 to R445), and sealing (R449 to
R451). -/

namespace Sys2Proof.Machine

open Sys2Proof

/-- Logical peer and offset of a fabric-window address (R438). -/
def fabricPeer (va : Nat) : Nat := bits va 55 46
/-- Offset of a fabric-window address (R438). -/
def fabricOffset (va : Nat) : Nat := bits va 45 0
/-- A peer-table entry (R438). -/
def State.peerEntry (s : State) (p : Nat) : Nat := Tab.getD s.peers p 0
/-- The fault of a thread's access to a fabric-window address, if it is refused (R439). -/
def State.fabricFault (s : State) (va : Nat) : Option Nat :=
  let e := s.peerEntry (fabricPeer va)
  if !bit e 63 then some 5
  else if bit e 62 || bits e 23 0 == 0 then some 6
  else none
/-- GEN of a logical peer (R438). -/
def State.gen (s : State) (p : Nat) : Nat := Tab.getD s.peerGen p 0
/-- The record of a port that has not been trained. -/
def Port.zero : Port := { config := 4, links := [], busy := 0 }
/-- Whether a port is up (R435). -/
def Port.up (x : Port) : Bool := x.links.any (fun e => e.2)
/-- Whether a logical peer has no port that is up: of its PORTS where it is of TIER 0, of the Ultra Ethernet ports where it is of TIER 1
(R435, R438). Nothing is admitted to it until one is (R447; log entry 75). -/
def State.linkDown (s : State) (p : Nat) : Bool :=
  let e := s.peerEntry p
  decide (p < 1024) && !(s.ports.any (fun x => x.2.up && (if bit e 62 then decide (24 ≤ x.1) else decide (x.1 < 24) && bit e x.1)))
/-- Whether earlier packets to a peer, admitted before a commit, are still under way; one that waits at its target has been delivered. -/
def State.unsettled (s : State) (p : Nat) : Bool := s.sent.any (fun e => e.2.peer == p && !e.2.waits && !e.2.held && e.2.gen != s.gen p)
/-- Whether new requests to a peer wait: after a commit that changed it, for the earlier packets, those to be sent again among them (R440);
and for a port (R447). -/
def State.fabricBusy (s : State) (p : Nat) : Bool :=
  s.linkDown p || s.sent.any (fun e => e.2.peer == p && !e.2.held && (e.2.gen != s.gen p || e.2.fresh))
/-- Key of a stream: logical peer and class (R444). -/
def streamKey (p cls : Nat) : Nat := p * 4 + cls
/-- A stream's state at the sender. -/
def State.stream (s : State) (p cls : Nat) : Stream := Tab.getD s.streams (streamKey p cls) { seq := 0, epoch := 0, stores := 0 }

/-! ### Sealed flits (R449 to R451) -/

/-- Adds to what the device still has to send on. -/
def State.emit (s : State) (o : Outgoing) : State := { s with outgoing := s.outgoing ++ [o] }
/-- An empty key slot. -/
def KeySlot.zero : KeySlot := { key := 0, salt := 0, ctr := 0, seen := [], inUse := false, marker := none }
/-- A sealed link with no keys. -/
def SealLink.zero : SealLink := { current := 0, slots := [], store := [] }
/-- A slot of a link. -/
def SealLink.slot (l : SealLink) (k : Nat) : KeySlot := Tab.getD l.slots k KeySlot.zero
/-- Whether a slot holds a key that new flits may be sealed under: not an old one, which only serves retries (R451). -/
def KeySlot.serves (k : KeySlot) : Bool := k.inUse && k.marker.isNone
/-- A link whose CURRENT is empty or used up goes over to NEXT, where NEXT holds a key; of a used-up key every flit stands before the change
(R451). -/
def SealLink.ready (l : SealLink) : SealLink :=
  let c := l.slot l.current
  let used := decide (2 ^ 32 ≤ c.ctr)
  if (!c.inUse || used) && (l.slot (1 - l.current)).serves then
    { l with current := 1 - l.current,
             slots := if c.inUse && c.marker.isNone then Tab.set l.slots l.current { c with marker := some (2 ^ 32 - 1) } else l.slots }
  else l
/-- Installs a key in NEXT, unless NEXT holds one in use (R450); where CURRENT is empty the key's slot becomes CURRENT, at both ends alike. -/
def SealLink.install (l : SealLink) (key salt : Nat) : Option SealLink :=
  let next := 1 - l.current
  if (l.slot next).inUse then none
  else some ({ l with slots := Tab.set l.slots next { KeySlot.zero with key := key, salt := salt, inUse := true } } : SealLink).ready
/-- HDR of a flit (R449). -/
def flitHdr (mark : Bool) (slot ctr : Nat) : Nat := (if mark then 2 ^ 63 else 0) + slot % 2 * 2 ^ 62 + ctr % 2 ^ 32
/-- IV: SALT followed by CTR (R449). -/
def flitIv (salt ctr : Nat) : Nat := salt * 2 ^ 32 + ctr
/-- Additional authenticated data: HDR, then the DEV numbers of source and target (R449). -/
def flitAad (hdr src dst : Nat) : Nat := hdr * 2 ^ 32 + src * 2 ^ 16 + dst
/-- Counter value that the forced marker takes (R451). -/
def forcedCtr : Nat := 2 ^ 32 - 2 ^ 16
/-- Seals one flit under CURRENT, from device `dev` to `peer`: the link after it, and its bytes; none where the link sends nothing. -/
def SealLink.sealFlit (l : SealLink) (dev peer : Nat) (mark : Bool) (body : List Byte) (packet : Nat) : Option (SealLink × Nat × List Byte) :=
  let c := l.slot l.current
  if !c.inUse || decide (2 ^ 32 ≤ c.ctr) then none else
  let hdr := flitHdr mark l.current c.ctr
  let e := Config.gcmSeal c.key (flitIv c.salt c.ctr) (flitAad hdr dev peer) body
  let bytes := leBytes 8 hdr ++ (e.1 ++ zeros 232).take 232 ++ leBytes 16 e.2
  some ({ l with slots := Tab.set l.slots l.current { c with ctr := c.ctr + 1, marker := if mark then some c.ctr else c.marker },
                 store := l.store ++ [{ slot := l.current, ctr := c.ctr, bytes := bytes, resends := 0, packet := packet }] }, c.ctr, bytes)
/-- Sends the marker of a switch-over under CURRENT and swaps (R451); nothing where NEXT is empty. -/
def State.sendMarker (s : State) (peer : Nat) : State :=
  let l := Tab.getD s.txLinks peer SealLink.zero
  if !(l.slot (1 - l.current)).serves then s else
  match l.sealFlit s.dev peer true (zeros 232) 0 with
  | none => s
  | some (m, ctr, bytes) =>
    ({ s with txLinks := Tab.set s.txLinks peer { m with current := 1 - l.current } } : State).emit (.flit peer l.current ctr bytes)
/-- Seals one flit of a packet to a device, with the forced switch-over first where its counter value has come (R449, R451). What a flit's
body holds is the standard's transaction layer: free values (log entry 5). -/
def State.sealOne (s : State) (peer packet : Nat) : State :=
  let l := (Tab.getD s.txLinks peer SealLink.zero).ready
  let s := { s with txLinks := Tab.set s.txLinks peer l }
  let s := if (l.slot l.current).ctr ≠ forcedCtr then s
    else if (l.slot (1 - l.current)).serves then s.sendMarker peer else s.emit (.linkNotice peer)
  let l := Tab.getD s.txLinks peer SealLink.zero
  match l.sealFlit s.dev peer false (leBytes 232 (Config.freeValue s.freeCount)) packet with
  | none => s
  | some (m, ctr, bytes) =>
    ({ s with txLinks := Tab.set s.txLinks peer m, freeCount := s.freeCount + 1 } : State).emit (.flit peer l.current ctr bytes)
/-- Flits that carry a packet with `n` bytes of data: 232 bytes each (R449). -/
def flitCount (n : Nat) : Nat := max 1 ((n + 231) / 232)
/-- Seals a packet with `n` bytes of data to a device. -/
def State.sealTo (s : State) (peer packet n : Nat) : State := (List.range (flitCount n)).foldl (fun s _ => s.sealOne peer packet) s
/-- The number under which an answer to a device stands among the peers that packets go to. -/
def answerPeer (dev : Nat) : Nat := 1024 + dev
/-- The device to which a packet is sealed end to end: a logical peer of TIER 0 with SEC = 0, or the device an answer goes to, where a
logical peer names it so (R438, R449). -/
def State.sealedTo (s : State) (p : Nat) : Option Nat :=
  if p < 1024 then (let e := s.peerEntry p; if bit e 62 || bit e 61 then none else some (bits e 73 64))
  else if s.peers.any (fun e => bit e.2 63 && !bit e.2 62 && !bit e.2 61 && answerPeer (bits e.2 73 64) == p) then some (p - 1024) else none
/-- Seals a packet where its link is sealed. -/
def State.sealPacket (s : State) (p packet n : Nat) : State :=
  match s.sealedTo p with
  | some d => s.sealTo d packet n
  | none => s
/-- A packet is acknowledged or dropped: its entries in the retransmit store are freed (R448). -/
def State.settleSent (s : State) (n : Nat) : State :=
  { s with sent := Tab.erase s.sent n,
           txLinks := s.txLinks.map (fun e => (e.1, { e.2 with store := e.2.store.filter (fun (f : StoredFlit) => f.packet != n) })) }
/-- Sends a packet that waits: one answered MOVED again, on the current mapping and within its first bound (R442, R446), or one that is
admitted now. -/
def State.resendPacket (s : State) (n : Nat) (q : Sent) : State :=
  ({ s with sent := Tab.set s.sent n { q with resent := !q.fresh, fresh := false, waits := false, gen := s.gen q.peer,
                                              at_ := if q.fresh then s.now else q.at_ } } : State).sealPacket q.peer n q.data.length
/-- Sends the packets that wait, in their original order, for each peer with no replacement staged, none of whose earlier packets is still under
way, and with a port (R440, R442, R447). Scheduled packets wait for a slot (R487). -/
def State.resendMoved (s : State) : State :=
  (s.sent.filter (fun e => e.2.waits && e.2.queue.isNone && (e.2.fresh || (Tab.find s.staged e.2.peer).isNone) && !s.unsettled e.2.peer
      && !s.linkDown e.2.peer)).foldl
    (fun s' e => s'.resendPacket e.1 e.2) s

/-! ### Sending -/

/-- Admits a packet, or lets it wait while its peer's traffic is held (R440, R447). -/
def State.inject (s : State) (q : Sent) : State :=
  let n := s.nextKey
  let wait := s.fabricBusy q.peer
  let s := { s with sent := Tab.set s.sent n { q with waits := wait, fresh := wait }, nextKey := n + 1 }
  if wait then s else s.sealPacket q.peer n q.data.length
/-- Sends a request of class 0 (R443 to R445). A release at pod scope or wider carries COUNT and ends its epoch. -/
def State.send (s : State) (t : Nat) (op : Option Nat) (va : Nat) (kind : PacketKind) (data : List Byte) (release : Bool) : State :=
  let p := fabricPeer va
  let st := s.stream p 0
  let isStore := kind == .write
  let st' : Stream :=
    { seq := (st.seq + 1) % 2 ^ 32,
      epoch := if release then (st.epoch + 1) % 2 ^ 16 else st.epoch,
      stores := if release then 0 else if isStore then st.stores + 1 else st.stores }
  ({ s with streams := Tab.set s.streams (streamKey p 0) st' } : State).inject
    { peer := p, cls := 0, seq := st.seq, epoch := st.epoch, count := if release then some st.stores else none, kind := kind,
      offset := fabricOffset va, data := data, gen := s.gen p, resent := false, waits := false, at_ := s.now,
      team := t, op := op }
/-- A packet sent in a class that no lane waits for; it may be dropped (R447). -/
def State.sendClass (s : State) (p cls team : Nat) (kind : PacketKind) (offset : Nat) (data : List Byte) : State :=
  let st := s.stream p cls
  ({ s with streams := Tab.set s.streams (streamKey p cls) { st with seq := (st.seq + 1) % 2 ^ 32 } } : State).inject
    { peer := p, cls := cls, seq := st.seq, epoch := st.epoch, count := none, kind := kind, offset := offset, data := data, gen := s.gen p,
      resent := false, waits := false, at_ := s.now, team := team, op := none }
/-- Sends a packet of a class to a device: a reply in class SCALEUP, a MOVED answer or a retry request in class CONTROL (R446). `n` is the bytes
of data it carries. -/
def State.answerTo (s : State) (dev cls : Nat) (o : Outgoing) (data : List Byte) : State :=
  (s.emit o).sendClass (answerPeer dev) cls 0 .write 0 data
/-- Sends a reply (R436, R446). -/
def State.replyTo (s : State) (dev seq : Nat) (data : List Byte) : State := s.answerTo dev 0 (.reply dev seq data) data

/-- Sends a request of a ring's command; a read fills landings (R194, R196). -/
def State.sendCmd (s : State) (cmd : Nat × Nat) (va : Nat) (kind : PacketKind) (data : List Byte) (lands : List Nat) : State :=
  let n := s.nextKey
  let s := s.send cmd.1 none va kind data false
  match Tab.find s.sent n with
  | some e => { s with sent := Tab.set s.sent n { e with cmd := some cmd, lands := lands } }
  | none => s
/-- Gives landings their bytes. -/
def State.fillLandings (s : State) (ks : List Nat) (data : List Byte) : State :=
  { s with landings := s.landings.map (fun e => if ks.contains e.1 then (e.1, { e.2 with data := data }) else e) }

/-! ### Delivery bounds (R446) -/

/-- Limits of a class's bound, in ns. -/
def classLo (c : Nat) : Nat := if c = 0 then 5000 else 50000
def classHi (c : Nat) : Nat := if c = 0 then 1000000 else if c = 1 then 100000000 else if c = 2 then 10000000 else 50000
/-- Default bound of a class, in ns. -/
def classDefault (c : Nat) : Nat := if c = 0 then 20000 else if c = 1 then 500000 else if c = 2 then 200000 else 50000
/-- Bound of a class in hundredths of a nanosecond. -/
def State.classBound (s : State) (c : Nat) : Nat := 100 * Tab.getD s.params (16 + c) (classDefault c)
/-- Whether a packet's bound has passed, counted from its admission; one that waits at its target has been delivered (R446, R447). -/
def State.overdue (s : State) (q : Sent) : Bool := !q.held && !q.fresh && decide (q.at_ + s.classBound q.cls ≤ s.now)

/-- Sends a lane's request; the lane's operation waits for its reply (R171). `fill` says which registers the reply fills: the first
register and the width code. A lane that must wait for a commit to settle stays where it is (R440). -/
def State.sendFor (s : State) (r : LaneRef) (x : XForm) (va : Nat) (kind : PacketKind) (data : List Byte) (release : Bool)
    (ws : List (Nat × Word)) (fill : Option (Nat × Nat)) : State :=
  if s.fabricBusy (fabricPeer va) then s else
  let n := s.nextKey
  let s := s.send r.team none va kind data release
  let (k, s) := s.post { s.newOp r x ws [] with wait := .fabric n, fill := fill } x
  match Tab.find s.sent n with
  | some e => { s with sent := Tab.set s.sent n { e with op := some k } }
  | none => s

/-! ### Taking back a request that waits at another device (R257) -/

/-- Code by which an operation that takes back another is known; its `detail` names the other, its `addr` the phase that must stand. -/
def takeBackCode : Nat := 0xFE
/-- Asks the target to take back a request that waits there, at SAVE or when its lane must leave: the reply says whether it was, or was
performed before. A BARW's arrival is taken back with it while the phase `phase` still stands; 2^16 leaves it (R257; log entry 29). -/
def State.askBack (s : State) (k : Nat) (phase : Nat) : State :=
  match Tab.find s.ops k with
  | none => s
  | some o =>
    match o.wait with
    | .fabric n =>
      (match Tab.find s.sent n with
       | none => s
       | some q =>
         if s.ops.any (fun e => e.2.info.code == takeBackCode && e.2.info.detail == k && e.2.lane.team == o.lane.team) then s else
         let m := s.nextKey
         let s := s.send o.lane.team (some (m + 1)) (2 ^ 56 + q.peer * 2 ^ 46 + q.offset) (.object 0x27 [q.seq, phase]) [] false
         let j := s.nextKey
         let s := match Tab.find s.sent m with
           | some e => { s with sent := Tab.set s.sent m { e with op := some j } }
           | none => s
         { s with ops := Tab.set s.ops j { o with together := false, slot := none, writes := [], preds := [], wait := .fabric m, fill := none,
                                                  info := { o.info with code := takeBackCode, detail := k, addr := phase } },
                  nextKey := j + 1 })
    | _ => s

/-! ### Requests of other devices (R441, R443, R445) -/

/-- Key of a stream at the target. -/
def inboundKey (p : Packet) : Nat := (p.src * 1024 + p.logical) * 4 + p.cls
/-- The record of a packet's stream. -/
def State.inboundOf (s : State) (p : Packet) : Inbound :=
  Tab.getD s.inbound (inboundKey p) { src := p.src, logical := p.logical, cls := p.cls, performed := [], stores := [], visible := 0 }
/-- Replaces the record of a packet's stream. -/
def State.setInbound (s : State) (p : Packet) (x : Inbound) : State := { s with inbound := Tab.set s.inbound (inboundKey p) x }
/-- Packets of one stream. -/
def sameStream (p q : Packet) : Bool := p.src == q.src && p.logical == q.logical && p.cls == q.cls
/-- Distance of sequence numbers, mod 2^32. -/
def seqAfter (a b : Nat) : Nat := (a + (2 ^ 32 - b % 2 ^ 32)) % 2 ^ 32
/-- Whether a packet's bound has passed at its target (R446, R447). -/
def State.pastBound (s : State) (p : Packet) : Bool := decide (p.sentAt + s.classBound p.cls ≤ s.now)
/-- A store. -/
def packetWrites (p : Packet) : Bool := p.kind == .write
/-- A waiter that stands for another device's request: no team has key 0. -/
def remoteWaiter (p : Packet) (k : HoldKind) (pa : Nat) : Waiter :=
  { lane := ⟨0, p.src * 1024 + p.logical, p.seq⟩, kind := k, pa := pa, localTo := 0 }
/-- Records that a request has been performed, with its reply (R443); a release write closes its epoch (R445). -/
def State.record (s : State) (p : Packet) (data : List Byte) : State :=
  let x := s.inboundOf p
  let kept := x.performed.filter (fun e => decide (s.now < e.2.1 + s.classBound p.cls))
  let n := if packetWrites p && p.count.isNone then 1 else 0
  s.setInbound p { x with
    performed := kept ++ [(p.seq, s.now, data)],
    stores := if p.count.isSome then Tab.erase x.stores p.epoch else Tab.set x.stores p.epoch (Tab.getD x.stores p.epoch 0 + n),
    visible := if p.count.isSome then (p.epoch + 1) % 2 ^ 16 else x.visible }
/-- Records that a request has been performed and sends the reply. -/
def State.answer (s : State) (p : Packet) (data : List Byte) : State := (s.record p data).replyTo p.src p.seq data
/-- Takes a held request out. -/
def State.unhold (s : State) (p : Packet) : State := { s with arrivals := s.arrivals.filter (fun a => !(sameStream a.p p && a.p.seq == p.seq)) }

end Sys2Proof.Machine
end

