-- ==== Sys2Proof/Machine/Regs.lean ====
section
/-! DEFINITION. The registers an instruction reads and writes, by which the interlock (R170), the parity check (R20) and the
allocation check (R19) know them; and the prologue every instruction shares. Registers are numbered as DETAIL numbers them
(R306): v0 to v127, s0 to s63 as 128 to 191, p0 to p7 as 256 to 263, j0 to j11 as 264 to 275. -/

namespace Sys2Proof.Machine

open Sys2Proof

/-- Registers read and written. -/
structure Uses where
  reads : List Nat
  writes : List Nat
  deriving DecidableEq, Repr

/-- `k` registers from a first one; none for 255. -/
def run (n k : Nat) : List Nat := if n < 192 then (List.range k).map (n + ·) else []
/-- A predicate register. -/
def pr (k : Nat) : List Nat := if k = 0 then [] else [256 + k % 8]

/-- A three-register R form; `w` registers per field, `rd` when it reads its destination (R67). -/
def usesR (w : Nat) (rd : Bool) (f : RForm) : Uses :=
  let off := if f.m = 3 then 128 else 0
  let d := run (off + f.d.toNat) w
  let b := if f.m = 2 ∨ f.m = 3 then run (128 + f.b.toNat % 64) w else run f.b.toNat w
  ⟨(if rd then d else []) ++ run (off + f.a.toNat) w ++ b, d⟩
/-- A unary R form. -/
def usesUnary (f : RForm) : Uses := let off := if f.m = 3 then 128 else 0; ⟨run (off + f.a.toNat) 1, run (off + f.d.toNat) 1⟩
/-- A compare. -/
def usesCompare (f : RForm) : Uses :=
  ⟨run f.a.toNat 1 ++ (if f.m = 2 then run (128 + f.b.toNat % 64) 1 else run f.b.toNat 1), pr f.d.toNat⟩
/-- An R form whose b may be an immediate under ALT (R111, R160, R163). -/
def usesImm (rd : Bool) (f : RForm) : Uses :=
  ⟨(if rd then run f.d.toNat 1 else []) ++ run f.a.toNat 1 ++
    (if f.m = 1 then [] else if f.m = 2 then run (128 + f.b.toNat % 64) 1 else run f.b.toNat 1), run f.d.toNat 1⟩
/-- An X form: registers read and written besides its guard. -/
def usesX (x : XForm) (reads writes : List Nat) : Uses := ⟨pr x.p.toNat ++ reads, writes⟩
/-- An operand name that is an s-register (R79). -/
def nameReg (f : Nat) : List Nat := if 128 ≤ f ∧ f < 192 then [f] else []
/-- Registers of a conversion operand of a format: a pair for INT64 and RES63 (R127). -/
def fmtRegs (f : Nat) : Nat := if f = 10 ∨ f = 11 then 2 else 1

/-- Registers an instruction reads and writes. `g` gives the format slots, which decide the widths of a conversion (R127). -/
def instrUses (g : Grid) : Instr → Uses
  | .nop | .cExit | .cYield | .waitAll | .reform | .home | .yield | .exit | .wait _ | .trap _ => ⟨[], []⟩
  | .cMov f => ⟨[f.b.toNat], [f.d.toNat]⟩
  | .cMovImm f => ⟨[], [f.d.toNat]⟩
  | .cAddImm f | .cSubImm f | .cMulImm f | .cAndImm f | .cOrImm f | .cXorImm f | .cShlImm f | .cShrlImm f | .cShraImm f =>
    ⟨[f.d.toNat], [f.d.toNat]⟩
  | .cAdd f | .cSub f | .cMul f | .cAnd f | .cOr f | .cXor f | .cShl f | .cShrl f | .cShra f | .cFadd f | .cFsub f | .cFmul f
  | .cFmax f | .cFmin f => ⟨[f.d.toNat, f.b.toNat], [f.d.toNat]⟩
  | .add f | .sub f | .mul f | .mulhi f | .mulhiu f | .and f | .or f | .xor f | .andn f | .orn f | .shl f | .shrl f
  | .shra f | .rotl f | .rotr f | .min f | .max f | .minu f | .maxu f | .addsat f | .subsat f | .bfx f
  | .fadd f | .fsub f | .fmul f | .fmin f | .fmax f | .fdiv f | .fscale f | .hadd2 f | .hmul2 f => usesR 1 false f
  | .bfi f | .permb f | .fmac f | .hmac2 f => usesR 1 true f
  | .add64 f | .sub64 f | .lea f | .radd f => usesR 2 false f
  | .abs f | .popc f | .clz f | .ctz f | .brev f | .fabs f | .fneg f | .frcp f | .frsq f | .fsqrt f | .fexp2 f
  | .flog2 f | .fsin f | .fcos f | .ftanh f | .ffloor f | .fceil f | .frint f | .ftrunc f | .fgetexp f | .fclass f => usesUnary f
  | .cmpeq f | .cmpne f | .cmplt f | .cmple f | .cmpltu f | .cmpleu f | .fcmpeq f | .fcmpne f | .fcmplt f | .fcmple f
  | .fcmpun f => usesCompare f
  | .pand f | .por f | .pxor f => ⟨pr f.a.toNat ++ pr f.b.toNat, pr f.d.toNat⟩
  | .pnot f => ⟨pr f.a.toNat, pr f.d.toNat⟩
  | .sel f => ⟨pr f.a.toNat ++ (if f.m = 2 then run (128 + f.b.toNat % 64) 1 else run f.b.toNat 1), run f.d.toNat 1⟩
  | .mov f =>
    ⟨if f.m = 2 ∨ f.m = 3 then run (128 + f.b.toNat % 64) 1 else run f.b.toNat 1,
     if f.m = 1 ∨ f.m = 3 then run (128 + f.d.toNat % 64) 1 else run f.d.toNat 1⟩
  | .p2v f => ⟨(List.range 7).map (257 + ·), run f.d.toNat 1⟩
  | .v2p f => ⟨run f.a.toNat 1, (List.range 7).map (257 + ·)⟩
  | .srd f => ⟨[], run ((if f.m = 3 then 128 else 0) + f.d.toNat) (srWidth f.a.toNat)⟩
  | .swr f => ⟨run ((if f.m = 3 then 128 else 0) + f.a.toNat) (srWidth f.d.toNat), []⟩
  | .dp4a f => usesImm true f
  | .shfli f | .shflu f | .shfld f | .shflx f | .qbc f => usesImm false f
  | .voteall f | .voteany f | .ballot f | .qxh f | .qxv f | .qxd f | .lred f | .lscan f => ⟨run f.a.toNat 1, run f.d.toNat 1⟩
  | .elect f => ⟨[], run f.d.toNat 1⟩
  | .brx f | .ret f => ⟨if f.m = 2 then run (128 + f.b.toNat % 64) 2 else run f.b.toNat 2, []⟩
  | .callx f => ⟨if f.m = 2 then run (128 + f.b.toNat % 64) 2 else run f.b.toNat 2, run f.d.toNat 2⟩
  | .addi f | .muli f | .andi f | .ori f | .xori f | .mini f | .maxi f | .shli f | .shrli f | .shrai f | .rotli f =>
    ⟨run f.a.toNat 1, run f.d.toNat 1⟩
  | .cmpeqi f | .cmpnei f | .cmplti f | .cmplei f | .cmpltui f => ⟨run f.a.toNat 1, pr f.d.toNat⟩
  | .bra f => ⟨pr f.p.toNat, []⟩
  | .call f => ⟨pr f.p.toNat, [6, 7]⟩
  | .jmset f => ⟨pr f.p.toNat ++ (if f.a.toNat < 64 then [128 + f.a.toNat] else pr (f.a.toNat - 64)), [264 + f.j.toNat]⟩
  | .jmget f => ⟨pr f.p.toNat ++ [264 + f.j.toNat], [128 + f.a.toNat]⟩
  | .join f | .leave f | .waitj f => ⟨pr f.p.toNat ++ [264 + f.j.toNat], []⟩
  | .ld x => usesX x (run x.a.toNat 2) (run x.d.toNat (widthRegs (x.b.toNat % 16)))
  | .ldl x => usesX x (run x.a.toNat 1) (run x.d.toNat (widthRegs (x.b.toNat % 16)))
  | .st x => usesX x (run x.a.toNat 2 ++ run x.d.toNat (widthRegs (x.b.toNat % 16))) []
  | .stl x => usesX x (run x.a.toNat 1 ++ run x.d.toNat (widthRegs (x.b.toNat % 16))) []
  | .ldv x => usesX x (run x.a.toNat 2 ++ run x.c.toNat 2)
      (run x.d.toNat (widthRegs (x.b.toNat % 16)) ++ pr (x.b.toNat / 16 % 8))
  | .vpin x | .vunpin x | .pf x => usesX x (run x.a.toNat 2) []
  | .smap x => usesX x (run x.a.toNat 1 ++ run x.b.toNat 2 ++ run x.c.toNat 1) []
  | .sunmap x | .sflush x | .sinv x => usesX x (run x.a.toNat 1 ++ run x.c.toNat 1) []
  | .acp16 x | .acps16 x => usesX x (nameReg x.d.toNat ++ run x.a.toNat 2 ++ run x.b.toNat 1) []
  | .talloc x => usesX x (run x.b.toNat 1) (run x.d.toNat 1)
  | .tfree x => usesX x (nameReg x.a.toNat) []
  | .twait x => usesX x (nameReg x.a.toNat ++ run x.b.toNat 4) []
  | .tstate x => usesX x (nameReg x.a.toNat) (run x.d.toNat 1)
  | .fence x | .fencex x | .tbar x | .lswap x | .brk x | .rtrap x | .idemb x | .ideme x => usesX x [] []
  | .movi x => ⟨pr x.p.toNat, if x.md = 0 then run x.d.toNat 1 else if x.md = 3 then run (x.d.toNat + 1) 1 else run x.d.toNat 2⟩
  | .cvt x => usesX x (run x.a.toNat (fmtRegs (slotFmt (g.slot (x.c.toNat % 8))))) (run x.d.toNat (fmtRegs (slotFmt (g.slot x.fs.toNat))))
  | .cvtpk x => usesX x (run x.a.toNat 1 ++ run x.b.toNat 1 ++ run x.d.toNat 1) (run x.d.toNat 1)
  | .cvtq x => usesX x (run x.a.toNat 1) (run x.d.toNat 1 ++ run x.b.toNat 1)
  | .dph x => usesX x (if x.md = 1 then run x.a.toNat 1 else []) (run x.d.toNat 1)
  | .fma x => usesX x (run x.a.toNat 1 ++ run x.b.toNat 1 ++ run x.c.toNat 1) (run x.d.toNat 1)
  | .atom x | .chain x => let w := if x.c.toNat / 4 % 4 = 1 then 2 else 1; usesX x (run x.a.toNat 2 ++ run x.b.toNat w) (run x.d.toNat w)
  | .upd x => usesX x (run x.a.toNat 2 ++ run x.b.toNat (if x.c.toNat / 4 % 4 = 1 then 2 else 1)) []
  | .cas x => let w := if x.c.toNat / 4 % 4 = 1 then 2 else 1; usesX x (run x.a.toNat 2 ++ run x.b.toNat (2 * w)) (run x.d.toNat w)
  | .binit x | .bdrop x => usesX x (run x.a.toNat (if x.md = 1 then 1 else 2) ++ run x.b.toNat 1) []
  | .barr x | .barw x => usesX x (run x.a.toNat (if x.md = 1 then 1 else 2)) (run x.d.toNat 1)
  | .bwait x => usesX x (run x.a.toNat (if x.md = 1 then 1 else 2) ++ run x.b.toNat 1) (run x.d.toNat 1)
  | .btestp x => usesX x (run x.a.toNat (if x.md = 1 then 1 else 2) ++ run x.b.toNat 1) (pr x.d.toNat)
  | .qinit x => usesX x (run x.a.toNat 2 ++ run x.b.toNat 4) []
  | .enq x => usesX x (run x.a.toNat 2 ++ run x.b.toNat 1 ++ run x.c.toNat 1) (pr (x.md.toNat / 2))
  | .deq x => usesX x (run x.a.toNat 2 ++ run x.c.toNat 1) (run x.d.toNat 1 ++ pr (x.md.toNat / 2))
  | .qstat x => usesX x (run x.a.toNat 2) (run x.d.toNat 1)
  | .qclose x => usesX x (run x.a.toNat 2) []
  | .qldt x => usesX x (run x.a.toNat 2 ++ run x.b.toNat 1) []
  | .qrnd x | .qrndf x => usesX x (run x.a.toNat 1 ++ run x.b.toNat 1) (run x.d.toNat 1)
  | .qrnd2 x => usesX x (run x.a.toNat 1 ++ run x.b.toNat 1) (run x.d.toNat 2)
  | .qbern x => usesX x (run x.a.toNat 1 ++ run x.b.toNat 1 ++ run x.c.toNat 1) (pr x.d.toNat)
  | .last x => usesX x (nameReg x.a.toNat ++ nameReg x.b.toNat) []
  | .mstr x => usesX x (nameReg x.a.toNat ++ run x.b.toNat 1 ++ nameReg x.c.toNat) []
  | .mdrn x =>
    if x.md.toNat % 2 = 1 then usesX x (run x.d.toNat 1 ++ run x.b.toNat 1) []
    else usesX x (run x.b.toNat 1) (run x.d.toNat (x.c.toNat * fmtWidth (slotFmt (g.slot x.fs.toNat)) / 32))
  | .mzero x => usesX x (run x.b.toNat 1) []
  | .mstat x => usesX x [] (run x.d.toNat 2)
  | .twalk x => usesX x (run x.a.toNat 2 ++ run x.b.toNat 1) (run x.d.toNat 1)
  | .twnext x => usesX x (run x.a.toNat 1) (run x.d.toNat 4 ++ pr (x.md.toNat / 2))
  | .twdone x => usesX x (run x.a.toNat 1) []
  | .hstep x => usesX x (run x.a.toNat 1) (run x.d.toNat 1)
  | .hread x => usesX x (run x.a.toNat 1) (run x.d.toNat 4)
  | .col x => usesX x (run x.a.toNat 2) (run x.d.toNat 1)
  | .cwait x => usesX x (run x.d.toNat 1 ++ run x.a.toNat 2 ++ run x.c.toNat 1) (run x.d.toNat 2)
  | .slotq x => usesX x (run x.a.toNat 2 ++ run x.b.toNat 1) (run x.d.toNat 1)
  | .gettime x => usesX x (run x.a.toNat 2) (run x.d.toNat 2)
  | .assert x => usesX x (run x.a.toNat 2) []
  | .launch x => usesX x (run x.a.toNat 2) (run x.d.toNat 1)
  | .ctxr x => usesX x [] (run x.d.toNat (trapRegWidth x.c.toNat))
  | .ctxw x => usesX x (run x.a.toNat (trapRegWidth x.c.toNat)) []
  | _ => ⟨[], []⟩

/-- The registers an instruction names that are v-registers (R19). -/
def namedV (u : Uses) : List Nat := (u.reads ++ u.writes).filter (· < 128)

/-- The X form of an instruction that has one. -/
def Uses.writesS (u : Uses) : Bool := u.writes.any (fun n => 128 ≤ n && n < 192)

/-- Cross-lane instructions, CVTQ, JMSET, JMGET and the matrix instructions raise ILLEGAL_FORMATION in a formation (R156), and so do
the instructions that act once per issue on group operands (R218, R222, R223, R225, R292). -/
def groupBound : Instr → Bool
  | .shfli _ | .shflu _ | .shfld _ | .shflx _ | .voteall _ | .voteany _ | .ballot _ | .lred _ | .lscan _ | .qxh _ | .qxv _
  | .qxd _ | .qbc _ | .elect _ | .cvtq _ | .jmset _ | .jmget _ | .last _ | .lswap _ | .mstr _ | .mdrn _ | .mzero _ | .mstat _
  | .twalk _ | .twnext _ | .twdone _ | .smap _ | .sunmap _ | .sflush _ | .sinv _ | .talloc _ | .tfree _ | .tstate _ => true
  | _ => false

/-- The instructions that raise ILLEGAL_INSTRUCTION in handler (R302). -/
def notInHandler : Instr → Bool
  | .jmset _ | .jmget _ | .join _ | .leave _ | .waitj _ | .reform | .home | .chain _ | .tbar _ => true
  | _ => false

/-- Slots and combinations an instruction refuses whatever its registers hold (R55, R125, R127 to R130, R135, R343, R345, R349). -/
def slotIllegal (g : Grid) : Instr → Bool
  | .fma x => let t := g.slot x.fs.toNat; slotMalformed t || slotMx t || 3 ≤ slotFmt t
  | .cvt x =>
    let t := g.slot x.fs.toNat
    let c := g.slot (x.c.toNat % 8)
    slotMalformed t || slotMalformed c || slotMx t || slotMx c || !legalConversion (slotFmt c) (slotFmt t)
      || !xRun (fmtRegs (slotFmt t)) x.d.toNat || !xRun (fmtRegs (slotFmt c)) x.a.toNat
  | .cvtpk x =>
    let t := g.slot x.fs.toNat
    let c := g.slot (x.c.toNat % 8)
    slotMalformed t || slotMalformed c || slotMx t || slotMx c || 16 < fmtWidth (slotFmt t) || 32 < fmtWidth (slotFmt c)
  | .cvtq x =>
    let t := g.slot x.fs.toNat
    let c := g.slot (x.c.toNat % 8)
    slotMalformed t || slotMalformed c || slotMx c || 3 ≤ slotFmt c || !slotMx t
  | .last x =>
    let t := g.slot x.fs.toNat
    slotMalformed t ||
      !(if slotMx t then slotFmt t == 3 || slotFmt t == 4 || slotFmt t == 5
        else slotFmt t == 2 || slotFmt t == 1 || slotFmt t == 6 || slotFmt t == 8 || slotFmt t == 5)
      || (!slotMx t && (x.b != 255 || x.c != 0)) || (slotMx t && x.b == 255)
  | .mstr x => slotMalformed (g.slot x.fs.toNat)
  | .mdrn x =>
    let t := g.slot x.fs.toNat
    let w := x.c.toNat * fmtWidth (slotFmt t)
    slotMalformed t || slotMx t || !legalConversion (if x.md.toNat / 2 % 2 = 1 then 10 else 0) (slotFmt t) || w % 32 != 0
      || (x.md.toNat % 2 = 0 && (!(w == 32 || w == 64 || w == 128 || w == 256) || !xRun (w / 32) x.d.toNat))
  | _ => false

/-- The fault an active lane takes before anything else, in the order of R208: ILLEGAL_INSTRUCTION for a failed static check
(R84), a register beyond the allocation (R19), an illegal slot (R55), and in a lane that is in handler (R302); then ILLEGAL_FORMATION
(R94, R156). -/
def staticFault (i : Instr) (s : State) (r : LaneRef) : Option (Nat × Nat) :=
  let g := s.gridOf s.cur.team
  let u := instrUses g i
  if !i.wf || (namedV u).any (fun n => g.nreg ≤ n) || slotIllegal g i || (notInHandler i && (s.lane r).inHandler) then some (1, 0)
  else if s.cur.formation && (groupBound i || u.writesS) then some (2, 0)
  else none

/-- The lowest register of a list that fails parity in a lane: the lane's own, and its group's (R20, R306). -/
def State.badReads (s : State) (r : LaneRef) (ns : List Nat) : Option Nat × Option Nat :=
  let x := s.lane r
  let g := s.group r
  ((ns.filter (fun n => x.badParity.contains n)).min?, (ns.filter (fun n => g.badParity.contains n)).min?)
/-- The lowest registers of an instruction's reads that fail parity in a lane: the lane's own, and its group's (R20, R306). -/
def parityFault (i : Instr) (s : State) (r : LaneRef) : Option Nat × Option Nat :=
  if (s.lane r).badParity.isEmpty && (s.group r).badParity.isEmpty then (none, none)
  else s.badReads r (instrUses (s.gridOf r.team) i).reads

/-- An instruction with a guard, acting on its active lanes. -/
def runGuarded (i : Instr) (p : BitVec 3) (neg : Bool) (f : State → List LaneRef → State) (s : State) :
    Host.Outcome State Fault Refusal :=
  .next (execute p neg (staticFault i) (parityFault i) f s)

/-- An instruction without a guard (R66, R72), acting on every lane of the subset. -/
def runAll (i : Instr) (f : State → List LaneRef → State) (s : State) : Host.Outcome State Fault Refusal :=
  runGuarded i 0 false f s

/-- An X form, acting on its active lanes (R74). -/
def runX (i : Instr) (x : XForm) (f : State → List LaneRef → State) (s : State) : Host.Outcome State Fault Refusal :=
  runGuarded i x.p x.pn f s

/-- An X form whose lanes act one after another in lane order. -/
def runLanes (i : Instr) (x : XForm) (f : State → LaneRef → State) (s : State) : Host.Outcome State Fault Refusal :=
  runX i x (fun s rs => rs.foldl f s) s

/-- The active lanes that are not helpers (R22). -/
def State.workers (s : State) (rs : List LaneRef) : List LaneRef := rs.filter (fun r => !s.isHelper r)

/-- An operation that acts once per issue completes in every counted lane at once (R75): the last lane carries the writes. -/
def State.finishIssue (s : State) (rs : List LaneRef) (x : XForm) (ws : List (Nat × Word)) (ps : List (Nat × Bool) := []) : State :=
  rs.foldl (fun s r =>
    (s.post { s.newOp r x (if rs.getLast? = some r then ws else []) ps with together := true } x).2) s

/-- An operation that acts once per issue and whose result every counted lane receives: it completes in all of them at once (R75). -/
def State.finishTogether (s : State) (rs : List LaneRef) (x : XForm) (ws : List (Nat × Word)) (ps : List (Nat × Bool)) : State :=
  rs.foldl (fun s r => (s.post { s.newOp r x ws ps with together := true } x).2) s

end Sys2Proof.Machine
end

