-- ==== Sys2Proof/Machine/Operands.lean ====
section
/-! DEFINITION. The operand forms of the R, I and C forms (R65 to R69, R92 to R95) and the integer functions over them
(R97 to R103, R111). -/

namespace Sys2Proof.Machine

open Sys2Proof

/-! ### Operand forms -/

/-- Number of a register of an R form by its field; the uniform form names s-registers (R67). -/
def rOff (f : RForm) : Nat := if f.m = 3 then 128 else 0
/-- Number of the b register of an R form (R67). -/
def rBReg (f : RForm) : Nat := if f.m = 2 ∨ f.m = 3 then 128 + f.b.toNat % 64 else f.b.toNat
/-- The a operand. -/
def State.rA (s : State) (r : LaneRef) (f : RForm) : Word := s.reg r (rOff f + f.a.toNat)
/-- The b operand. -/
def State.rB (s : State) (r : LaneRef) (f : RForm) : Word := s.reg r (rBReg f)
/-- The old destination. -/
def State.rD (s : State) (r : LaneRef) (f : RForm) : Word := s.reg r (rOff f + f.d.toNat)
/-- The lanes an R form computes in: every lane, or the last one for the uniform form, which executes once (R68, R95). -/
def rLanes (f : RForm) (rs : List LaneRef) : List LaneRef := if f.m = 3 then rs.getLast?.toList else rs

/-- A three-operand R form: `op d a b` gives the result and the flags it raises (R97, R117, R118). -/
def aluR (i : Instr) (f : RForm) (op : Word → Word → Word → Word × FpFlags) (s : State) : Host.Outcome State Fault Refusal :=
  runAll i (fun s rs =>
    ((rLanes f rs).foldl (fun s r =>
      let v := op (s.rD r f) (s.rA r f) (s.rB r f)
      (s.setReg r (rOff f + f.d.toNat) v.1).setFlags r.team v.2) s).advanceAll rs) s
/-- An integer R form, which raises no flag (R93). -/
def intR (i : Instr) (f : RForm) (op : Word → Word → Word) (s : State) : Host.Outcome State Fault Refusal :=
  aluR i f (fun _ a b => (op a b, FpFlags.none)) s
/-- An R form over pairs (R103, R112). -/
def pairR (i : Instr) (f : RForm) (op : Nat → Nat → Nat) (s : State) : Host.Outcome State Fault Refusal :=
  runAll i (fun s rs =>
    ((rLanes f rs).foldl (fun s r =>
      s.setRegs r (pairWrites (rOff f + f.d.toNat) (op (s.reg64 r (rOff f + f.a.toNat)) (s.reg64 r (rBReg f))))) s).advanceAll rs) s
/-- An R-form compare, which writes a predicate (R106, R123). -/
def cmpR (i : Instr) (f : RForm) (op : Word → Word → Bool) (s : State) : Host.Outcome State Fault Refusal :=
  runAll i (fun s rs =>
    (rs.foldl (fun s r => s.setPreds r [(f.d.toNat, op (s.rA r f) (s.rB r f))]) s).advanceAll rs) s
/-- Predicate logic (R107). -/
def predR (i : Instr) (f : RForm) (op : Bool → Bool → Bool) (s : State) : Host.Outcome State Fault Refusal :=
  runAll i (fun s rs =>
    (rs.foldl (fun s r => s.setPreds r [(f.d.toNat, op ((s.lane r).pred f.a.toNat) ((s.lane r).pred f.b.toNat))]) s).advanceAll rs) s
/-- An I form with its immediate (R69, R102). -/
def intI (i : Instr) (f : IForm) (imm : Word) (op : Word → Word → Word) (s : State) : Host.Outcome State Fault Refusal :=
  runAll i (fun s rs =>
    (rs.foldl (fun s r => s.setReg r f.d.toNat (op (s.reg r f.a.toNat) imm)) s).advanceAll rs) s
/-- An I-form compare (R102). -/
def cmpI (i : Instr) (f : IForm) (imm : Word) (op : Word → Word → Bool) (s : State) : Host.Outcome State Fault Refusal :=
  runAll i (fun s rs =>
    (rs.foldl (fun s r => s.setPreds r [(f.d.toNat, op (s.reg r f.a.toNat) imm)]) s).advanceAll rs) s
/-- imm9 sign-extended (R69). -/
def iSimm (f : IForm) : Word := f.imm.signExtend 32
/-- imm9[4:0] (R69). -/
def iCount (f : IForm) : Word := BitVec.ofNat 32 (f.imm.toNat % 32)
/-- A C form over vd and vb (R65). -/
def aluC (i : Instr) (f : CForm) (op : Word → Word → Word × FpFlags) (s : State) : Host.Outcome State Fault Refusal :=
  runAll i (fun s rs =>
    (rs.foldl (fun s r =>
      let v := op (s.reg r f.d.toNat) (s.reg r f.b.toNat)
      (s.setReg r f.d.toNat v.1).setFlags r.team v.2) s).advanceAll rs) s
/-- An integer C form over vd and vb. -/
def intC (i : Instr) (f : CForm) (op : Word → Word → Word) (s : State) : Host.Outcome State Fault Refusal :=
  aluC i f (fun a b => (op a b, FpFlags.none)) s
/-- A C form over vd and an immediate (R65). -/
def immC (i : Instr) (f : CForm) (imm : Word) (op : Word → Word → Word) (s : State) : Host.Outcome State Fault Refusal :=
  runAll i (fun s rs =>
    (rs.foldl (fun s r => s.setReg r f.d.toNat (op (s.reg r f.d.toNat) imm)) s).advanceAll rs) s
/-- imm5 sign-extended (R65). -/
def cSimm (f : CForm) : Word := f.b.signExtend 32
/-- imm5 as an unsigned count (R65). -/
def cCount (f : CForm) : Word := f.b.zeroExtend 32

/-! ### Integer functions (R97 to R101) -/

/-- High word of the signed product. -/
def mulHi (a b : Word) : Word := BitVec.ofInt 32 (a.toInt * b.toInt / 2 ^ 32)
/-- High word of the unsigned product. -/
def mulHiU (a b : Word) : Word := BitVec.ofNat 32 (a.toNat * b.toNat / 2 ^ 32)
/-- SHL (R98). -/
def shlW (a b : Word) : Word := if 32 ≤ b.toNat then 0 else BitVec.ofNat 32 (a.toNat * 2 ^ b.toNat)
/-- SHRL (R98). -/
def shrlW (a b : Word) : Word := if 32 ≤ b.toNat then 0 else BitVec.ofNat 32 (a.toNat / 2 ^ b.toNat)
/-- SHRA (R98). -/
def shraW (a b : Word) : Word := BitVec.ofInt 32 (a.toInt / 2 ^ min b.toNat 31)
/-- ROTL (R98). -/
def rotlW (a b : Word) : Word :=
  let k := b.toNat % 32
  BitVec.ofNat 32 (Nat.lor (a.toNat * 2 ^ k % 2 ^ 32) (a.toNat / 2 ^ (32 - k)))
/-- ROTR (R98). -/
def rotrW (a b : Word) : Word :=
  let k := b.toNat % 32
  BitVec.ofNat 32 (Nat.lor (a.toNat / 2 ^ k) (a.toNat * 2 ^ (32 - k) % 2 ^ 32))
/-- Signed and unsigned minimum and maximum (R97). -/
def minS (a b : Word) : Word := if a.toInt ≤ b.toInt then a else b
def maxS (a b : Word) : Word := if b.toInt ≤ a.toInt then a else b
def minU (a b : Word) : Word := if a.toNat ≤ b.toNat then a else b
def maxU (a b : Word) : Word := if b.toNat ≤ a.toNat then a else b
/-- Signed saturation to 32 bits (R97). -/
def satW (n : Int) : Word := BitVec.ofInt 32 (max (-(2 ^ 31)) (min (2 ^ 31 - 1) n))
/-- ABS (R99). -/
def absW (a : Word) : Word := BitVec.ofNat 32 a.toInt.natAbs
/-- Number of 1 bits below bit `n`. -/
def popBelow (x : Nat) : Nat → Nat
  | 0 => 0
  | n + 1 => popBelow x n + (if bit x n then 1 else 0)
/-- POPC (R99). -/
def popcW (a : Word) : Word := BitVec.ofNat 32 (popBelow a.toNat 32)
/-- CLZ (R99). -/
def clzW (a : Word) : Word := if a = 0 then 32 else BitVec.ofNat 32 (31 - Nat.log2 a.toNat)
/-- Trailing zeros of a number below bit `n`, counted upwards from bit `k`. -/
def ctzFrom (x : Nat) : Nat → Nat → Nat
  | 0, k => k
  | n + 1, k => if bit x k then k else ctzFrom x n (k + 1)
/-- CTZ (R99). -/
def ctzW (a : Word) : Word := BitVec.ofNat 32 (ctzFrom a.toNat 32 0)
/-- BREV (R99). -/
def brevW (a : Word) : Word := BitVec.ofNat 32 (brev 32 a.toNat)
/-- Position and cut length of a field specifier (R100). -/
def fieldSpec (b : Word) : Nat × Nat :=
  let pos := b.toNat % 32
  (pos, min (min (bits b.toNat 13 8) 32) (32 - pos))
/-- BFX (R100). -/
def bfxW (a b : Word) : Word :=
  let (pos, w) := fieldSpec b
  if w = 0 then 0 else
  let f := a.toNat / 2 ^ pos % 2 ^ w
  BitVec.ofInt 32 (if bit b.toNat 15 && decide (2 ^ (w - 1) ≤ f) then (f : Int) - 2 ^ w else f)
/-- BFI (R100). -/
def bfiW (d a b : Word) : Word :=
  let (pos, w) := fieldSpec b
  let mask := (2 ^ w - 1) * 2 ^ pos
  BitVec.ofNat 32 (d.toNat - Nat.land d.toNat mask + Nat.land (a.toNat * 2 ^ pos) mask)
/-- Byte `i` of the result of PERMB (R101). -/
def permByte (d a b : Word) (i : Nat) : Nat :=
  let n := bits b.toNat (4 * i + 3) (4 * i)
  let k := n % 8
  let x := if k < 4 then bits a.toNat (8 * k + 7) (8 * k) else bits d.toNat (8 * (k - 4) + 7) (8 * (k - 4))
  if bit n 3 then (if 128 ≤ x then 255 else 0) else x
/-- PERMB (R101). -/
def permbW (d a b : Word) : Word :=
  BitVec.ofNat 32 (permByte d a b 0 + 256 * permByte d a b 1 + 65536 * permByte d a b 2 + 16777216 * permByte d a b 3)
/-- LEA: an offset stays within its address space (R103). -/
def leaD (a b : Nat) : Nat :=
  if bit a 56 then bits a 63 46 * 2 ^ 46 + (bits a 45 0 + b) % 2 ^ 46
  else bits a 63 56 * 2 ^ 56 + (bits a 55 0 + b) % 2 ^ 56
/-- A signed byte of a word. -/
def byteS (a : Word) (i : Nat) : Int := signedOf 8 (bits a.toNat (8 * i + 7) (8 * i))
/-- DP4A (R111); `y` gives the second factor of byte i. -/
def dp4a (d a : Word) (y : Nat → Int) : Word :=
  BitVec.ofInt 32 (d.toInt + byteS a 0 * y 0 + byteS a 1 * y 1 + byteS a 2 * y 2 + byteS a 3 * y 3)

end Sys2Proof.Machine
end

