-- ==== Sys2Proof/Machine/Access.lean ====
section
/-! DEFINITION. Plain loads and stores, versioned reads, prefetch and fences (R202 to R217, R228, R229). -/

namespace Sys2Proof.Machine

open Sys2Proof

/-! ### Addresses and widths -/

/-- Width in bytes of a width code (R77). -/
def widthBytes (w : Nat) : Nat := if w ≤ 1 then 1 else if w ≤ 3 then 2 else if w = 4 then 4 else if w = 5 then 8 else if w = 6 then 16 else 32
/-- Width code of an access (R77). -/
def widthOf (x : XForm) : Nat := x.b.toNat % 16
/-- Effective global address (R202): the LEA of a pair and a scaled offset. -/
def State.globalEa (s : State) (r : LaneRef) (x : XForm) : Nat :=
  leaD (s.reg64 r x.a.toNat) ((x.c.signExtend 64 * BitVec.ofNat 64 (widthBytes (widthOf x))).toNat)
/-- Effective local address (R202). -/
def State.localEa (s : State) (r : LaneRef) (x : XForm) : Nat :=
  let a := s.regRun r x.a.toNat 1
  bits a 31 19 * 2 ^ 19 + (bits a 18 0 + (x.c.signExtend 64 * BitVec.ofNat 64 (widthBytes (widthOf x))).toNat) % 2 ^ 19
/-- Register writes of a load from its bytes (R203). -/
def loadWrites (d w : Nat) (bs : List Byte) : List (Nat × Word) :=
  let n := leNat bs
  let v : Nat := if w = 0 then ((BitVec.ofNat 8 n).signExtend 32).toNat else if w = 2 then ((BitVec.ofNat 16 n).signExtend 32).toNat else n
  runWrites d v (widthRegs w)
/-- Bytes a store writes (R203): 255 stores zeros. -/
def State.storeBytes (s : State) (r : LaneRef) (x : XForm) : List Byte :=
  leBytes (widthBytes (widthOf x)) (s.regRun r x.d.toNat (widthRegs (widthOf x)))

/-- Lands a read: its registers are written at completion, unless a fault is found later (R171, R489). -/
def State.land (s : State) (r : LaneRef) (x : XForm) (ws : List (Nat × Word)) (ps : List (Nat × Bool)) (late : Option Nat) (addr : Nat) : State :=
  match late with
  | some c => s.finishLate r x ws c addr ps
  | none => s.finish r x ws ps
/-- A fault of a load: a helper lane receives zeros instead (R22). -/
def State.loadFault (s : State) (r : LaneRef) (x : XForm) (ws : List (Nat × Word)) (code addr : Nat) (ue : Bool) : State :=
  if s.isHelper r then (s.countUe ue).finish r x ws else (s.countUe ue).raise r code addr

/-! ### Global and fabric-window accesses -/

/-- The request that another lane of the same load has sent for the same bytes: both lanes receive its answer (R204). -/
def State.sharedRead (s : State) (va : Nat) : Option Nat :=
  s.ops.findSome? (fun e =>
    match e.2.wait with
    | .fabric p =>
      if e.2.issue = s.cur.num ∧ (Tab.find s.sent p).any (fun q => q.peer == fabricPeer va && q.offset == fabricOffset va) then some p else none
    | _ => none)
/-- LD in one lane (R209, R373). -/
def State.ldLane (s : State) (x : XForm) (r : LaneRef) : State :=
  let w := widthOf x
  let n := widthBytes w
  let ea := s.globalEa r x
  let zero := loadWrites x.d.toNat w (zeros n)
  if ea % n ≠ 0 then s.loadFault r x zero 4 ea false else
  match s.place (s.team r.team).grid ea 0 with
  | .bad c ue => s.loadFault r x zero c ea ue
  | .fabric =>
    (match s.fabricFault ea with
     | some c => s.loadFault r x zero c ea false
     | none =>
       match s.sharedRead ea with
       | some p => (s.post { s.newOp r x zero [] with wait := .fabric p, fill := some (x.d.toNat, w) } x).2
       | none => s.sendFor r x ea (.read n) [] false zero (some (x.d.toNat, w)))
  | .mem pa _ =>
    let g := s.readGlobal r pa n x.fs.toNat (x.md.toNat % 4)
    g.s.land r x (loadWrites x.d.toNat w g.data) [] g.late ea
/-- What a lane has learnt of signatures, the other lanes of an access that it performed for them have learnt too (R204, R366). -/
def State.shareLearnt (s : State) (p : LaneRef) (rs : List LaneRef) : State :=
  let y := s.lane p
  rs.foldl (fun s r => s.modLane r (fun x => { x with sig := x.sig.or y.sig, seen := x.seen.or y.seen })) s
/-- An access that is performed once for the group because its destination is an s-register (R204): one lane performs it, the last that is
no helper. The other active lanes take its fault, or complete with it. -/
def State.onceFor (s : State) (x : XForm) (rs : List LaneRef) (lane : State → LaneRef → State) : State :=
  match (match (s.workers rs).getLast? with | some r => some r | none => rs.getLast?) with
  | none => s
  | some p =>
    let s1 := lane s p
    let others := rs.filter (· != p)
    if (s1.lane p).staged.isSome then others.foldl lane s1
    else
      let s1 := s1.shareLearnt p others
      let late := ((s1.ops.filter (fun e => e.2.lane == p && e.2.issue == s.cur.num)).head?).bind (fun e => e.2.late)
      others.foldl (fun s r => (s.post { s.newOp r x [] [] with together := true, late := if s.isHelper r then none else late } x).2) s1
/-- The accesses of a load's lanes: each its own, or one for an s-register (R204). -/
def State.loadLanes (s : State) (x : XForm) (rs : List LaneRef) (lane : State → LaneRef → State) : State :=
  if 128 ≤ x.d.toNat ∧ x.d.toNat < 192 then s.onceFor x rs lane else rs.foldl lane s
/-- LD (R209). -/
def execLd (x : XForm) (s : State) : Host.Outcome State Fault Refusal :=
  runX (.ld x) x (fun s rs => s.loadLanes x rs (fun s r => s.ldLane x r)) s

/-- Whether a lane's write with a release part, or one that follows a FENCE.REL, ends an epoch of its stream (R363, R445). -/
def State.endsEpoch (s : State) (r : LaneRef) (scope ord : Nat) : Bool :=
  decide (6 ≤ scope) && (decide (2 ≤ ord) || decide (6 ≤ (s.lane r).fenced))
/-- ST in one lane; a helper lane stores nothing (R209, R22). -/
def State.stLane (s : State) (x : XForm) (r : LaneRef) : State :=
  if s.isHelper r then s.finish r x [] else
  let n := widthBytes (widthOf x)
  let ea := s.globalEa r x
  let bs := s.storeBytes r x
  if ea % n ≠ 0 then s.raise r 4 ea else
  match s.place (s.team r.team).grid ea 1 with
  | .bad c ue => (s.countUe ue).raise r c ea
  | .fabric =>
    (match s.fabricFault ea with
     | some c => s.raise r c ea
     | none =>
       s.sendFor r x ea .write bs (s.endsEpoch r x.fs.toNat (x.md.toNat % 4)) [] none)
  | .mem pa _ => (s.writeGlobal r pa bs x.fs.toNat (x.md.toNat % 4)).finish r x []
/-- ST (R209). -/
def execSt (x : XForm) (s : State) : Host.Outcome State Fault Refusal := runLanes (.st x) x (fun s r => s.stLane x r) s

/-! ### Local accesses -/

/-- A number for a byte of a team's region beside the physical addresses, under which its bank keeps a signature field (log entry 9). -/
def localKey (t off : Nat) : Nat := 2 ^ 48 + t * 2 ^ 20 + off
/-- Where the signature field of a local byte is kept: with its line at the home where a filled stash sector holds it (R185), else with the
bank. -/
def State.fieldKey (s : State) (t off : Nat) : Nat :=
  match (s.team t).stashAt off with
  | none => localKey t off
  | some (_, k, mp) =>
    match Tab.getD mp.sectors k .invalid with
    | .clean pa => pa + (off - (mp.laddr + 64 * k))
    | .dirty pa => pa + (off - (mp.laddr + 64 * k))
    | .invalid => localKey t off
/-- The scope at which a local access is strong: one with scope 0 is strong at team scope (R360). -/
def localScope (scope : Nat) : Nat := if scope = 0 then 3 else scope
/-- The acquire part of a local read. -/
def State.localAcquire (s : State) (r : LaneRef) (t off scope ord : Nat) : State :=
  let f := s.field (lineOf (s.fieldKey t off))
  if ord % 2 = 1 then s.acquireSig r (localScope scope) f else s.noteSeen r (localScope scope) f
/-- The release part of a local write. -/
def State.localRelease (s : State) (r : LaneRef) (t off n ord : Nat) : State :=
  if 2 ≤ ord ∨ 1 ≤ (s.lane r).fenced then s.putField (s.fieldKey t off) n (s.releaseSig r)
  else s.emptyField (s.fieldKey t off) n
/-- Sends a gang access towards its region, where the tag is compared when it arrives (R183). -/
def State.postGang (s : State) (r : LaneRef) (x : XForm) (ea t off n : Nat) (ws : List (Nat × Word)) (fill : Option (Nat × Nat))
    (data : List Byte) : State :=
  (s.post { s.newOp r x ws [] with wait := .gang t off n (s.team t).tag data, fill := fill, info := s.faultHere 0 0 ea } x).2
/-- LDL in one lane (R210). -/
def State.ldlLane (s : State) (x : XForm) (r : LaneRef) : State :=
  let w := widthOf x
  let n := widthBytes w
  let ea := s.localEa r x
  let zero := loadWrites x.d.toNat w (zeros n)
  if ea % n ≠ 0 then s.loadFault r x zero 4 ea false else
  match s.localPlace r.team ea n with
  | none => s.loadFault r x zero 9 ea false
  | some (t, off) =>
    if bit ea 21 then s.postGang r x ea t off n zero (some (x.d.toNat, w)) [] else
    match s.readLocal r t off n with
    | .fault s c => s.loadFault r x zero c ea false
    | .ok g => (g.s.localAcquire r t off x.fs.toNat (x.md.toNat % 4)).land r x (loadWrites x.d.toNat w g.data) [] g.late ea
/-- LDL (R210). -/
def execLdl (x : XForm) (s : State) : Host.Outcome State Fault Refusal :=
  runX (.ldl x) x (fun s rs => s.loadLanes x rs (fun s r => s.ldlLane x r)) s
/-- STL in one lane (R210). -/
def State.stlLane (s : State) (x : XForm) (r : LaneRef) : State :=
  if s.isHelper r then s.finish r x [] else
  let n := widthBytes (widthOf x)
  let ea := s.localEa r x
  let bs := s.storeBytes r x
  if ea % n ≠ 0 then s.raise r 4 ea else
  match s.localPlace r.team ea n with
  | none => s.raise r 9 ea
  | some (t, off) =>
    if bit ea 21 then s.postGang r x ea t off n [] none bs else
    match s.writeLocal r t off bs with
    | .fault s c => s.raise r c ea
    | .ok g => (g.s.localRelease r t off n (x.md.toNat % 4)).land r x [] [] g.late ea
/-- STL (R210). -/
def execStl (x : XForm) (s : State) : Host.Outcome State Fault Refusal := runLanes (.stl x) x (fun s r => s.stlLane x r) s

/-! ### Prefetch -/

/-- Fills an L1 copy of a sector where the core holds none (R211). -/
def State.prefetch (s : State) (r : LaneRef) (pa : Nat) : State :=
  let core := (s.team r.team).gcore
  let sec := sectorOf pa
  if isHost pa || s.bad.contains sec || s.marked (s.team r.team).grid pa || s.l1.any (fun e => e.2.core == core && e.2.pa == sec) then s
  else
    let h := s.homeRead sec 64
    h.2.2.fillL1 core sec h.1
/-- PF in one lane: no fault and no flag (R211). -/
def State.pfLane (s : State) (x : XForm) (r : LaneRef) : State :=
  let n := widthBytes (widthOf x)
  let ea := s.globalEa r x
  let s := if ea % n ≠ 0 then s else
    match s.place (s.team r.team).grid ea 0 with
    | .mem pa _ => if x.b.toNat / 16 = 2 then s else s.prefetch r pa
    | .bad _ ue => s.countUe ue
    | .fabric => s
  s.finish r x []
/-- PF (R211). -/
def execPf (x : XForm) (s : State) : Host.Outcome State Fault Refusal := runLanes (.pf x) x (fun s r => s.pfLane x r) s

/-! ### Versioned reads -/

/-- VERSION of an entry. -/
def State.versionOf (s : State) (v : Nat) : Nat := (Tab.find s.versions v).elim 0 (·.version)
/-- (V − F) mod 2^32. -/
def versionDiff (v f : Nat) : Nat := (v + (2 ^ 32 - f % 2 ^ 32)) % 2 ^ 32
/-- Judges a floor: 0 hold, 1 satisfied, 2 DET_VIOLATION (R213, R217). -/
def State.judgeFloor (s : State) (t v f : Nat) : Nat :=
  let d := versionDiff (s.versionOf v) f
  if (s.gridOf t).det then (if d = 0 then 1 else if d < 2 ^ 31 then 2 else 0)
  else if d < 2 ^ 31 then 1 else 0
/-- Status predicate of an LDV (R212). -/
def ldvStatus (x : XForm) : Nat := x.b.toNat / 16
/-- Status writes of an LDV. -/
def ldvPreds (x : XForm) (b : Bool) : List (Nat × Bool) := if ldvStatus x = 0 then [] else [(ldvStatus x, b)]
/-- A read of the settled frame for an LDV: registers, and a fault found later (R213). -/
def State.ldvRead (s : State) (x : XForm) (r : LaneRef) (pa : Nat) : State × List (Nat × Word) × Option Nat :=
  let w := widthOf x
  let g := s.readGlobal r pa (widthBytes w) x.fs.toNat (x.md.toNat % 4)
  (g.s, loadWrites x.d.toNat w g.data, g.late)
/-- LDV in one lane (R213, R217). -/
def State.ldvLane (s : State) (x : XForm) (r : LaneRef) : State :=
  let n := widthBytes (widthOf x)
  let ea := s.reg64 r x.a.toNat
  let f := s.regRun r x.c.toNat 1
  let timeout := if x.c.toNat < 192 then (s.reg r (x.c.toNat + 1)).toNat else 0
  let zero := loadWrites x.d.toNat (widthOf x) (zeros n)
  let fail (c : Nat) (ue : Bool) : State := if s.isHelper r then (s.countUe ue).finish r x zero else (s.countUe ue).raise r c ea
  if ea % n ≠ 0 then fail 4 false else
  match s.place (s.team r.team).grid ea 3 with
  | .fabric => fail 0x0D false
  | .bad c ue => fail c ue
  | .mem _ none => fail 0x0D false
  | .mem pa (some v) =>
    if (s.gridOf r.team).det && timeout != 0 then fail 0x19 false else
    let j := s.judgeFloor r.team v f
    if j = 2 then fail 0x19 false
    else if j = 1 then
      let g := s.ldvRead x r pa
      g.1.land r x g.2.1 (ldvPreds x true) g.2.2 ea
    else s.hold r { kind := .ldv, x := x, insn := s.cur.insn, ea := ea, pa := v, v1 := f, v2 := 0,
                    deadline := if timeout = 0 then none else some (s.cycle + timeout), order := s.nextKey, issue := s.cur.num }
/-- LDV (R212, R213). -/
def execLdv (x : XForm) (s : State) : Host.Outcome State Fault Refusal := runLanes (.ldv x) x (fun s r => s.ldvLane x r) s
/-- A held LDV faults; a helper lane receives zeros instead (R22, R213). -/
def State.ldvFault (s : State) (r : LaneRef) (h : Hold) (code : Nat) : State :=
  if s.isHelper r then s.release r (loadWrites h.x.d.toNat (widthOf h.x) (zeros (widthBytes (widthOf h.x)))) [] else s.faultHeld r code h.ea
/-- Judges a held LDV again (R213, R217, R420). -/
def State.ldvRetry (s : State) (r : LaneRef) : State :=
  match (s.lane r).cond with
  | .held h =>
    if h.kind ≠ .ldv then s else
    match s.place (s.team r.team).grid h.ea 3 with
    | .mem pa (some v) =>
      let j := s.judgeFloor r.team v h.v1
      if j = 2 then s.ldvFault r h 0x19
      else if j = 1 then
        let g := s.ldvRead h.x r pa
        match g.2.2 with
        | some c => g.1.faultHeld r c h.ea
        | none => g.1.release r g.2.1 (ldvPreds h.x true)
      else s
    | .mem _ none => s.ldvFault r h 0x0D
    | .fabric => s.ldvFault r h 0x0D
    | .bad c ue => (s.countUe ue).ldvFault r h c
  | _ => s
/-- LDV_TIMEOUT: the status predicate is cleared, or the lane faults (R213). -/
def execLdvTimeout (r : LaneRef) (s : State) : Host.Outcome State Fault Refusal :=
  .next (match (s.lane r).cond with
    | .held h =>
      (match h.kind, h.deadline with
       | .ldv, some d =>
         if s.cycle < d then s
         else if ldvStatus h.x ≠ 0 then s.release r [] (ldvPreds h.x false)
         else s.ldvFault r h 0x0E
       | _, _ => s)
    | _ => s)

/-! ### Pins -/

/-- Counts the flip of a FULL page as deferred, once, where the page is pinned (R418, R422). -/
def State.deferFlip (s : State) (v : Nat) : State :=
  match Tab.find s.versions v with
  | some e =>
    if e.state = 2 ∧ e.pins ≠ 0 ∧ !e.deferred then ({ s with versions := Tab.set s.versions v { e with deferred := true } } : State).count 3 (v / 1024) 7
    else s
  | none => s
/-- Teams of the device with a pin on a version (R414). -/
def State.addPins (s : State) (v : Nat) (up : Bool) : State :=
  match Tab.find s.versions v with
  | some e => ({ s with versions := Tab.set s.versions v { e with pins := if up then e.pins + 1 else e.pins - 1 } } : State).deferFlip v
  | none => s
/-- Takes one pin of a team (R215); none where a limit would be passed. -/
def State.pin (s : State) (t v : Nat) : Option State :=
  let p := (s.team t).pins
  let c := Tab.getD p v 0
  if 255 ≤ c ∨ (c = 0 ∧ 8 ≤ (p.filter (fun e => e.2 != 0)).length) then none
  else
    let s := s.modTeam t (fun x => { x with pins := Tab.set x.pins v (c + 1) })
    some (if c = 0 then s.addPins v true else s)
/-- Gives back one pin of a team (R215). -/
def State.unpin (s : State) (t v : Nat) : State :=
  let c := Tab.getD (s.team t).pins v 0
  if c = 0 then s
  else
    let s := s.modTeam t (fun x => { x with pins := if c = 1 then Tab.erase x.pins v else Tab.set x.pins v (c - 1) })
    if c = 1 then s.addPins v false else s
/-- Gives back pins (R216). -/
def State.givePins (s : State) (ps : Tab Nat) : State := ps.foldl (fun s e => if e.2 = 0 then s else s.addPins e.1 false) s
/-- Gives back every pin of a team (R216). -/
def State.unpinAll (s : State) (t : Nat) : State := (s.givePins (s.team t).pins).modTeam t (fun x => { x with pins := [] })
/-- The version a lane names, or the fault (R215). -/
def State.pinPage (s : State) (x : XForm) (r : LaneRef) : Except (Nat × Bool) Nat :=
  match s.place (s.team r.team).grid (s.reg64 r x.a.toNat) 3 with
  | .mem _ (some v) => .ok v
  | .mem _ none => .error (0x0D, false)
  | .fabric => .error (0x0D, false)
  | .bad c ue => .error (c, ue)
/-- VPIN and VUNPIN: each distinct page once (R215). The pages take the pins that are left in the order of the first lane that names each (DESIGN
CHOICE, log entry 83). -/
def pinLanes (x : XForm) (up : Bool) (s : State) (rs : List LaneRef) : State :=
  let pages := rs.map (fun r => (r, s.pinPage x r))
  let named := distinct (pages.filterMap (fun e => match e.2 with | .ok v => some v | .error _ => none))
  -- each page's outcome: taken, or over a limit
  let res := named.foldl (fun (a : State × List Nat) v =>
    if up then (match a.1.pin s.cur.team v with | some s' => (s', a.2) | none => (a.1, v :: a.2))
    else (a.1.unpin s.cur.team v, a.2)) (s, [])
  pages.foldl (fun s e =>
    match e.2 with
    | .error (c, ue) => (s.countUe ue).raise e.1 c (s.reg64 e.1 x.a.toNat)
    | .ok v => if res.2.contains v then s.raise e.1 0x0F (s.reg64 e.1 x.a.toNat) else s.finish e.1 x []) res.1
/-- VPIN (R215). -/
def execVpin (x : XForm) (s : State) : Host.Outcome State Fault Refusal := runX (.vpin x) x (pinLanes x true) s
/-- VUNPIN (R215). -/
def execVunpin (x : XForm) (s : State) : Host.Outcome State Fault Refusal := runX (.vunpin x) x (pinLanes x false) s

/-! ### Fences -/

/-- Operations that have yet to be performed elsewhere: in the fabric window, in a gang member's region, or at the home of a queue to which a
commit is on its way (R206). -/
def Op.away (k : Nat) (o : Op) : Bool :=
  match o.wait with
  | .fabric _ => true
  | .gang _ _ _ _ _ => true
  | .commit n => n == k
  | _ => false
/-- The operations of a lane that have yet to be performed elsewhere, with one that is performed for it by another lane of its group (R204). -/
def State.awayOps (s : State) (r : LaneRef) : Tab Op :=
  s.ops.filter (fun e => e.2.away e.1 && (e.2.lane == r ||
    (e.2.together && s.ops.any (fun f => f.2.lane == r && f.2.together && f.2.issue == e.2.issue && e.2.lane.team == r.team))))
/-- Whether an operation is on the THR path: a per-lane copy is not (R369). -/
def Op.onThr (o : Op) : Bool :=
  match decodeBits o.info.len o.info.insn with
  | .ok (.acp16 _) | .ok (.acps16 _) => false
  | _ => true
/-- Puts the later accesses of a path after every THR access of a lane that is still to be performed (R228, R229). -/
def State.fenceOff (s : State) (r : LaneRef) (path : Nat) : State :=
  let ks := ((s.awayOps r).filter (fun e => e.2.onThr)).map Prod.fst
  if ks.isEmpty then s else { s with ops := s.ops.map (fun e => if ks.contains e.1 then (e.1, { e.2 with fenced := Nat.lor e.2.fenced (2 ^ path) }) else e) }
/-- The release part of a fence puts the lane's later stores after its accesses under way, and they then carry its signature; the acquire part,
which waits for those accesses, applies the signatures its earlier loads met, and keeps those
that a wider fence has yet to apply (R228). -/
def State.fenceLane (s : State) (r : LaneRef) (ord scope : Nat) : State :=
  let s := if 2 ≤ ord then (s.fenceOff r 0).modLane r (fun x => { x with fenced := max x.fenced scope }) else s
  if ord % 2 = 1 then
    let g := (s.lane r).seen
    if scope < 4 then s.receive r g
    else ((s.applySig r.team g).receive r g).modLane r (fun x => { x with seen := .lines [] })
  else s
/-- FENCE (R228). -/
def execFence (x : XForm) (s : State) : Host.Outcome State Fault Refusal :=
  runLanes (.fence x) x (fun s r => (s.fenceLane r (x.md.toNat % 4) x.fs.toNat).finish r x []) s
/-- The two paths FENCEX names (R78, R229): 0 THR, 1 BXE, 2 GAT, 3 MAT, 4 COL. -/
def fencexPaths (x : XForm) : Nat × Nat := (x.c.toNat % 16, x.c.toNat / 16)
/-- FENCEX in one lane (R229, R366, R370). It orders the two paths it names and no THR access before another. Where it names THR, later
accesses of the other path come after the lane's THR accesses under way. Engines act at the homes, in the order of their turns, so that what
they wrote can only be hidden by a stale copy: the acquire part at gang scope or wider drops every L1 copy of the core, which ACP16 reads too,
and every CLEAN sector of the team, under a signature that covers whatever the engine wrote, and the lane's next releases carry it. -/
def State.fencexLane (s : State) (r : LaneRef) (x : XForm) : State :=
  let p := fencexPaths x
  let s := if p.1 = 0 then s.fenceOff r p.2 else if p.2 = 0 then s.fenceOff r p.1 else s
  if x.md.toNat % 2 = 1 ∧ 4 ≤ x.fs.toNat then (s.applySig r.team .all).receive r .all else s
/-- FENCEX (R229). -/
def execFencex (x : XForm) (s : State) : Host.Outcome State Fault Refusal :=
  runLanes (.fencex x) x (fun s r => (s.fencexLane r x).finish r x []) s

end Sys2Proof.Machine
end

