-- ==== Sys2Proof/Machine/TileOps.lean ====
section
/-! DEFINITION. The tile table: names, states, landings and chunk bits (R187 to R191, R221). -/

namespace Sys2Proof.Machine

open Sys2Proof

/-- The block-transfer engine that serves a team's ring, numbered over the package (R196). -/
def State.ringEngine (s : State) (t : Nat) : Nat := (s.team t).die * 64 + ((s.team t).core + 13 * (s.team t).slot) % 64
/-- Key of an entry of a core's tile table. -/
def tileKey (gcore e : Nat) : Nat := gcore * 64 + e
/-- The entry a tile field names in a lane (R79, R221); none where an s-register holds a bit above 5. -/
def State.tileName (s : State) (r : LaneRef) (f : Nat) : Option Nat :=
  if f < 128 then some (f - 64)
  else
    let v := (s.reg r f).toNat
    if v < 64 then some v else none
/-- The entry of a team's core with a number, where the team holds it. -/
def State.heldTile (s : State) (t e : Nat) : Option Tile :=
  match Tab.find s.tiles (tileKey (s.team t).gcore e) with
  | some x => if x.team = t then some x else none
  | none => none
/-- Replaces an entry. -/
def State.setTile (s : State) (k : Nat) (x : Tile) : State := { s with tiles := Tab.set s.tiles k x }
/-- Bytes of a tile. -/
def Tile.bytes (x : Tile) : Nat := (x.size + 1) * 512
/-- The team of a holding gang that uses a cluster's Last (R319). -/
def State.holdsLast (s : State) (t : Nat) : Bool :=
  match Tab.find s.lasts (s.team t).cluster with
  | some l => l.holder == some ((s.team t).grid, s.gangOf t)
  | none => false
/-- The Last of a cluster. -/
def State.last (s : State) (cl : Nat) : Last := Tab.getD s.lasts cl Last.zero
/-- Replaces a Last. -/
def State.setLast (s : State) (cl : Nat) (x : Last) : State := { s with lasts := Tab.set s.lasts cl x }

/-- An operand of the operand space: base, bytes up to its end, and 1 + its tile entry (R321, R345). A buffer mbN reaches to the end of
the space; none where a name gives no tile of KIND 1 that the team holds (R340). -/
def State.matSource (s : State) (r : LaneRef) (f : Nat) : Option (Nat × Nat × Nat) :=
  if f = 255 then some (0, 0, 0)
  else if f < 16 then some (32768 * f, 524288 - 32768 * f, 0)
  else match s.tileName r f with
    | none => none
    | some e => match s.heldTile r.team e with
      | some t => if t.kind then some (t.base * 512, t.bytes, e + 1) else none
      | none => none
/-- Whether an operand that names a tile names a READY one (R340). -/
def State.sourceReady (s : State) (t : Nat) (src : Nat × Nat × Nat) : Bool :=
  src.2.2 == 0 || (match s.heldTile t (src.2.2 - 1) with | some x => x.state == 2 | none => true)
/-- TSTATE's summary (R187). -/
def Tile.summary (x : Tile) : Word :=
  BitVec.ofNat 32 (2 ^ 31 + x.state * 2 ^ 29 + (if x.kind then 2 ^ 28 else 0) + x.size * 2 ^ 21 + x.base * 2 ^ 11 + popBelow x.bitmap 128)

/-- Adds landed bytes to a chunk; its bit is set at 512, or by a closing write (R190). The last bit makes a FILLING tile READY (R189). -/
def Tile.landed (x : Tile) (chunk n : Nat) (closing : Bool) : Tile :=
  let c := min 512 (Tab.getD x.counts chunk 0 + n)
  let bitmap := if c = 512 || closing then Nat.lor x.bitmap (2 ^ chunk) else x.bitmap
  { x with counts := Tab.set x.counts chunk c, bitmap := bitmap,
           state := if x.state = 1 ∧ bitmap = 2 ^ (x.size + 1) - 1 then 2 else x.state }
/-- EMPTY, with the bitmap and counts cleared (R189). -/
def Tile.emptied (x : Tile) : Tile := { x with state := 0, bitmap := 0, counts := [], clr := false }

/-- Lanes held at TWAIT on an entry. -/
def State.tileWaiters (s : State) (k : Nat) : List LaneRef :=
  s.teams.flatMap (fun e => (s.teamLanes e.1).filter (fun r =>
    match (s.lane r).cond with
    | .held h => h.kind == .twait && h.ea == k
    | _ => false))
/-- Releases the lanes at TWAIT whose chunks are all set (R224). -/
def State.tileWake (s : State) (k : Nat) : State :=
  match Tab.find s.tiles k with
  | none => s
  | some x => (s.tileWaiters k).foldl (fun s r =>
      match (s.lane r).cond with
      | .held h => if Nat.land x.bitmap h.v1 = h.v1 then s.release r [] [] else s
      | _ => s) s

/-- Whether work on an entry remains (R223): a started command, a delivery, a posted matrix request, a per-lane copy or a drain. -/
def State.tileBusy (s : State) (k : Nat) : Bool :=
  match Tab.find s.tiles k with
  | none => false
  | some x =>
    decide (0 < x.users) || decide (0 < x.drains) ||
      s.landings.any (fun e => e.2.entry.map (tileKey e.2.core) == some k && e.2.team == x.team) ||
      s.teams.any (fun e => e.2.ring.started.any (fun c => !c.complete && c.members.contains x.team && bit c.w0 21 && bits c.w0 27 22 == k % 64))
/-- Lanes held at TFREE on an entry. -/
def State.tileFreers (s : State) (k : Nat) : List LaneRef :=
  s.teams.flatMap (fun e => (s.teamLanes e.1).filter (fun r =>
    match (s.lane r).cond with
    | .held h => h.kind == .tfree && h.ea == k
    | _ => false))
/-- Frees an entry for one TFREE once no work remains; its waiters fault with TILE_INVALID, and so do other TFREEs of it (R223). -/
def State.tryFree (s : State) (r : LaneRef) : State :=
  match (s.lane r).cond with
  | .held h =>
    if h.kind ≠ .tfree ∨ s.tileBusy h.ea then s else
    let mine := fun (q : LaneRef) => match (s.lane q).cond with | .held g => g.kind == .tfree && g.issue == h.issue | _ => false
    let ws := s.tileWaiters h.ea
    let fs := s.tileFreers h.ea
    let s := { s with tiles := Tab.erase s.tiles h.ea }
    let s := (fs.filter mine).foldl (fun s q => s.release q [] []) s
    let s := (fs.filter (fun q => !mine q)).foldl (fun s q => s.faultHeld q 0x0B) s
    ws.foldl (fun s q => s.faultHeld q 0x0B) s
  | _ => s

end Sys2Proof.Machine
end

