-- ==== Sys2Proof/Machine/Issue.lean ====
section
/-! DEFINITION. Fetching an instruction (R63, R64), which lanes are ready (R136, R170), the subset a group or formation offers
(R137 to R139), and the record of an issue. -/

namespace Sys2Proof.Machine

open Sys2Proof

/-! ### Fetch -/

/-- What the instruction cache gives at a PC: an instruction's length and bits, or a miss, with the address of the first halfword that is
not there. -/
inductive Fetched where
  | insn (len bits : Nat)
  | miss (va : Nat)
  deriving DecidableEq, Repr

/-- One halfword, from the core's instruction cache (R64, R167). -/
def State.fetchHalf (s : State) (core g va : Nat) : Option Nat :=
  (s.icache.find? (fun c => c.core == core && c.grid == g && c.va == sectorOf va)).map
    (fun c => leNat ((c.bytes.drop (va - c.va)).take 2))

/-- The halfwords after the first, gathered upwards. -/
def State.fetchRest (s : State) (core g pc : Nat) : Nat → Nat → Nat → Fetched
  | 0, k, w => .insn k w
  | n + 1, k, w =>
    match s.fetchHalf core g (pc + 2 * k) with
    | some h => State.fetchRest s core g pc n (k + 1) (w + h * 2 ^ (16 * k))
    | none => .miss (pc + 2 * k)

/-- The instruction at a PC of a team, where its core's instruction cache holds it. -/
def State.fetch (s : State) (t : Nat) (pc : Nat) : Fetched :=
  let core := (s.team t).gcore
  let g := (s.team t).grid
  match s.fetchHalf core g pc with
  | some h => s.fetchRest core g pc (lengthOf h - 1) 1 h
  | none => .miss pc

/-- The length and bits of the instruction at a PC; zeros where the cache does not hold it. -/
def State.insnAt (s : State) (t pc : Nat) : Nat × Nat :=
  match s.fetch t pc with
  | .insn n w => (n, w)
  | .miss _ => (0, 0)

/-! ### Readiness -/

/-- Slots an instruction waits on (R75, R144, R66). -/
def waitSlots (len w : Nat) : Except Reject Instr → Nat
  | .ok .waitAll => 255
  | .ok (.wait f) => f.imm.toNat % 256
  | _ => if len = 4 && bits w 8 2 != 24 then bits w 52 45 else 0

/-- The slot an instruction sets. -/
def setSlot (len w : Nat) : Option Nat := if len = 4 && bits w 8 2 != 24 && bit w 56 then some (bits w 55 53) else none

/-- Ordering and scope of an access or fence (R206, R228, R240, R372): bit 0 acquire, bit 1 release. -/
def ordering : Instr → Nat × Nat
  | .ld x | .ldl x | .ldv x | .st x | .stl x | .fence x | .fencex x => (x.md.toNat % 4, x.fs.toNat)
  | .atom x | .upd x | .cas x | .chain x => (x.c.toNat % 4, x.fs.toNat)
  | .barr x | .bdrop x | .qinit x | .qclose x | .enq x => (2, x.fs.toNat)
  | .bwait x | .btestp x | .deq x => (1, x.fs.toNat)
  | .barw x => (3, x.fs.toNat)
  | .binit x => (0, x.fs.toNat)
  | .tbar _ => (3, 3)
  | .launch _ => (2, 7)
  | _ => (0, 0)
/-- A store. -/
def isStore : Instr → Bool
  | .st _ => true
  | _ => false
/-- A release: a write with a release part. A fence is none: it orders later stores (R228). -/
def isRelease (i : Instr) : Bool :=
  match i with
  | .fence _ | .fencex _ => false
  | _ => decide (2 ≤ (ordering i).1)
/-- A fence with an acquire part, which waits for the lane's accesses (R228). -/
def isAcquireFence : Instr → Bool
  | .fence x => x.md.toNat % 2 == 1
  | _ => false
/-- A store, or an operation that writes its object (R228). -/
def isWrite : Instr → Bool
  | .st _ | .stl _ | .atom _ | .upd _ | .cas _ | .chain _ | .binit _ | .barr _ | .barw _ | .bdrop _ | .qinit _ | .qclose _ | .enq _ | .deq _ => true
  | _ => false
/-- The path on which an instruction has an engine access posted (R78, R369): STL to the ring among them, since the engine takes its commands from
there; 0 for the rest. -/
def enginePath : Instr → Nat
  | .stl _ => 1
  | .acp16 _ | .acps16 _ => 2
  | .last _ | .lswap _ | .mstr _ | .mdrn _ | .mzero _ | .mstat _ => 3
  | .col _ | .slotq _ => 4
  | _ => 0
/-- The stash instructions, which come after the lane's gang accesses under way (R219). -/
def isStash : Instr → Bool
  | .smap _ | .sunmap _ | .sflush _ | .sinv _ => true
  | _ => false

/-- Bytes a request touches at its target. -/
def packetBytes : PacketKind → List Byte → Nat
  | .read n, _ => n
  | .write, d => d.length
  | _, _ => 16
/-- First byte and length of what an operation that is away touches; local bytes are numbered beside the global ones. -/
def State.opSpan (s : State) (o : Op) : Option (Nat × Nat) :=
  match o.wait with
  | .fabric n => (Tab.find s.sent n).map (fun q => (2 ^ 56 + q.peer * 2 ^ 46 + q.offset, packetBytes q.kind q.data))
  | .gang t off n _ _ => some (2 ^ 57 + localKey t off, n)
  | .commit _ => some (o.info.addr, 64)
  | _ => none
/-- First byte and length of what an instruction touches, where its lane may reach it away from its core. -/
def State.span (s : State) (r : LaneRef) : Instr → Option (Nat × Nat)
  | .ld x | .st x => some (s.globalEa r x, widthBytes (widthOf x))
  | .ldl x | .stl x => (s.localPlace r.team (s.localEa r x) (widthBytes (widthOf x))).map (fun p => (2 ^ 57 + localKey p.1 p.2, widthBytes (widthOf x)))
  | .atom x | .upd x | .cas x | .chain x => some (s.reg64 r x.a.toNat, 8)
  | .binit x | .barr x | .bwait x | .barw x | .btestp x | .bdrop x =>
    if x.md = 1 then (s.localPlace r.team (s.regRun r x.a.toNat 1) 16).map (fun p => (2 ^ 57 + localKey p.1 p.2, 16)) else some (s.reg64 r x.a.toNat, 16)
  | .acp16 x | .acps16 x => some (s.reg64 r x.a.toNat, 16)
  | .qinit x | .enq x | .deq x | .qstat x | .qclose x => some (s.reg64 r x.a.toNat, 64)
  | _ => none
/-- Whether two spans share a byte. -/
def spansMeet (a b : Nat × Nat) : Bool := decide (a.1 < b.1 + b.2) && decide (b.1 < a.1 + a.2)
/-- Whether an operation acquires. -/
def Op.acquires (o : Op) : Bool :=
  match decodeBits o.info.len o.info.insn with
  | .ok i => (ordering i).1 % 2 == 1
  | .error _ => false
/-- The instructions that access memory, an object, a queue or an engine, and so come after an acquire that precedes them (R206). The 16-bit
and 32-bit instructions are ordered by the interlock alone (R72). -/
def isAccess : Instr → Bool
  | .ld _ | .st _ | .ldl _ | .stl _ | .ldv _ | .vpin _ | .vunpin _ | .pf _ | .smap _ | .sunmap _ | .sflush _ | .sinv _ | .acp16 _ | .acps16 _
  | .talloc _ | .tfree _ | .twait _ | .tstate _ | .fence _ | .fencex _ | .atom _ | .upd _ | .cas _ | .chain _ | .binit _ | .barr _ | .bwait _
  | .barw _ | .btestp _ | .bdrop _ | .tbar _ | .qinit _ | .enq _ | .deq _ | .qstat _ | .qclose _ | .last _ | .lswap _ | .mstr _ | .mdrn _
  | .mzero _ | .mstat _ | .col _ | .cwait _ | .slotq _ | .launch _ => true
  | _ => false
/-- Whether an operation is a store to a logical peer's memory: later stores of the stream are ordered after it at the target (R444). -/
def State.storeTo (s : State) (p : Nat) (o : Op) : Bool :=
  match o.wait with
  | .fabric n => (Tab.find s.sent n).any (fun q => q.peer == p && q.kind == .write)
  | _ => false
/-- What a release waits for: every operation that is away, but that a release write at pod scope or wider does not wait for the stores of its
own stream, which the target counts (R445). -/
def State.releaseWaits (s : State) (r : LaneRef) (i : Instr) (os : List Op) : List Op :=
  match s.span r i with
  | some a => if s.endsEpoch r (ordering i).2 (ordering i).1 ∧ bits a.1 63 56 = 1 then os.filter (fun o => !s.storeTo (fabricPeer a.1) o) else os
  | none => os
/-- Whether an operation is a gang access. -/
def Op.inGang (o : Op) : Bool := match o.wait with | .gang _ _ _ _ _ => true | _ => false
/-- A release waits until every earlier access of the lane has been performed, and so does a store after a release fence; an acquire holds later
accesses until it is performed; an acquire fence waits for the lane's accesses; FENCEX holds the accesses of an engine's path; and accesses to
the same bytes keep their order. Those still under way lie in the fabric window, a gang member's region or a commit (R206, R228, R229, R359,
R361). After a commit of the peer table a request waits for the earlier packets to its peer (R440). -/
def State.orderBlocked (s : State) (r : LaneRef) (i : Instr) : Bool :=
  let os := (s.awayOps r).map Prod.snd
  (!os.isEmpty &&
    ((isRelease i && !(s.releaseWaits r i os).isEmpty) || (isAcquireFence i && os.any Op.onThr) || (isAccess i && os.any Op.acquires) ||
      (isWrite i && !(s.releaseWaits r i (os.filter (fun o => bit o.fenced 0))).isEmpty) ||
      (enginePath i != 0 && os.any (fun o => bit o.fenced (enginePath i))) || (isStash i && os.any Op.inGang) ||
      (s.span r i).any (fun a => os.any (fun o => (s.opSpan o).any (spansMeet a) && !(isStore i && s.storeTo (fabricPeer a.1) o))))) ||
  (!s.sent.isEmpty && (s.span r i).any (fun a => bits a.1 63 56 == 1 && s.fabricBusy (fabricPeer a.1)))

/-- The registers of the element that ENQ reads or DEQ writes, by the element size of the block the lane names (R269, R271). -/
def State.elementRegs (s : State) (r : LaneRef) (a first : Nat) : List Nat :=
  match s.place (s.team r.team).grid (s.reg64 r a) 1 with
  | .mem pa _ => run first (min 64 ((qDecode (s.blockRead pa).1).esize / 4))
  | _ => run first 1
/-- Registers an instruction reads and writes in a lane. -/
def State.uses (s : State) (r : LaneRef) (i : Instr) : Uses :=
  let u := instrUses (s.gridOf r.team) i
  match i with
  | .enq x => { u with reads := u.reads ++ s.elementRegs r x.a.toNat x.b.toNat }
  | .deq x => { u with writes := u.writes ++ s.elementRegs r x.a.toNat x.d.toNat }
  | _ => u
/-- Registers that a lane held in a blocking instruction will write (R170). -/
def State.heldBy (s : State) (q : LaneRef) : List Nat :=
  match (s.lane q).cond with
  | .held h =>
    (match decodeBits 4 h.insn with
     | .ok i => (s.uses q i).writes
     | .error _ => [])
  | _ => []
/-- The s-registers that the held lanes of a lane's group will write (R170). -/
def State.heldWrites (s : State) (r : LaneRef) : List Nat :=
  (s.groupLanes r.team r.g).flatMap (fun q => (s.heldBy q).filter (fun n => 128 ≤ n && n < 192))

/-- The lane whose register a quad exchange reads, in whatever condition it is, and that register (R163). A shuffle or a combination reads
only lanes of its own subset, each of which is ready (R136, R159). -/
def State.quadReads (s : State) (r : LaneRef) : Instr → Option (LaneRef × Nat)
  | .qxh f => some (⟨r.team, r.g, Nat.xor r.l 1⟩, f.a.toNat)
  | .qxv f => some (⟨r.team, r.g, Nat.xor r.l 2⟩, f.a.toNat)
  | .qxd f => some (⟨r.team, r.g, Nat.xor r.l 3⟩, f.a.toNat)
  | .qbc f =>
    let b := if f.m = 1 then f.b.toNat else (s.reg r (if f.m = 2 then 128 + f.b.toNat % 64 else f.b.toNat)).toNat
    some (⟨r.team, r.g, r.l / 4 * 4 + b % 4⟩, f.a.toNat)
  | _ => none
/-- Whether the register of another lane that a cross-lane instruction will read has a write pending (R159, R163). -/
def State.partnerPending (s : State) (r : LaneRef) (i : Instr) : Bool :=
  match s.quadReads r i with
  | some (q, n) => (s.pendingWrites q ++ s.heldBy q).contains n
  | none => false

/-- Whether a matrix instruction names a tile that is not READY, so that it is not ready to issue (R340). -/
def State.tileWait (s : State) (r : LaneRef) (fs : List Nat) : Bool :=
  s.holdsLast r.team && fs.any (fun f => match s.matSource r f with | some a => !s.sourceReady r.team a | none => false)
/-- The operand names of LAST and MSTR. -/
def tileNames : Instr → List Nat
  | .last x => [x.a.toNat, x.b.toNat]
  | .mstr x => [x.a.toNat, x.c.toNat]
  | _ => []
/-- The guard bits of a word: X forms, MOVI and the J form carry one (R70 to R76); the p3 and pn of ASSERT are no guard (R311). -/
def rawGuard (len w : Nat) : BitVec 3 × Bool :=
  if len = 4 then
    (if bits w 8 2 = 24 then (BitVec.ofNat 3 (bits w 19 17), bit w 20)
     else if bits w 8 2 = 0x58 then (0, false)
     else (BitVec.ofNat 3 (bits w 43 41), bit w 44))
  else if len = 2 ∧ 0x65 ≤ bits w 31 25 ∧ bits w 31 25 ≤ 0x69 then (BitVec.ofNat 3 (bits w 13 11), bit w 10)
  else (0, false)
/-- Whether the interlock holds a lane at an instruction (R170): one of its registers has a write pending, or one of another lane that it will
read; of an ill-formed word the guard alone counts. -/
def State.interlocked (s : State) (r : LaneRef) (len w : Nat) (d : Except Reject Instr) : Bool :=
  let pend := s.pendingWrites r ++ s.heldWrites r
  match d with
  | .error _ => (pr (rawGuard len w).1.toNat).any (fun n => pend.contains n)
  | .ok i => (!pend.isEmpty && ((s.uses r i).reads ++ (s.uses r i).writes).any (fun n => pend.contains n)) || s.partnerPending r i
/-- Why a lane at an instruction is not ready, every reason that holds: 2 a slot, 1 the interlock, 4 ordering, 5 a tile, 3 a full slot. A slot
is full only for a lane whose guard holds, since no other lane's count would rise (R170, R172). -/
def State.reasons (s : State) (r : LaneRef) (len w : Nat) (d : Except Reject Instr) : List Nat :=
  let x := s.lane r
  let gd := rawGuard len w
  (if (List.range 8).any (fun k => bit (waitSlots len w d) k && x.slotCount k != 0) then [2] else []) ++
  (if s.interlocked r len w d then [1] else []) ++
  (match d with
   | .error _ => []
   | .ok i =>
     (if s.orderBlocked r i then [4] else []) ++ (if s.tileWait r (tileNames i) then [5] else []) ++
     (match setSlot len w with
      | some k => if 63 ≤ x.slotCount k && s.guard gd.1 gd.2 r then [3] else []
      | none => []))
/-- The first reason why a lane at an instruction is not ready, or 0. -/
def State.unready (s : State) (r : LaneRef) (len w : Nat) (d : Except Reject Instr) : Nat := (s.reasons r len w d).headD 0

/-- A running lane: neither exited, parked outside a handler, about to enter its handler, nor waiting (R136, R302). -/
def State.runs (s : State) (r : LaneRef) : Bool :=
  let x := s.lane r
  s.live r && x.staged.isNone && x.cond == .running

/-- What a group or formation offers: the PC, the lanes in lane order, the instruction, and the cycle its age counts from. -/
structure Offer where
  pc : DWord
  lanes : List LaneRef
  len : Nat
  insn : Nat
  since : Nat
  deriving DecidableEq, Repr

/-- The subset that stands ready at one PC among the running lanes of a group or formation; none before its fetch completes (R136, R167). -/
def State.offerAt (s : State) (t : Nat) (runners : List LaneRef) (all : Bool) (pc : DWord) : Option Offer :=
  match s.fetch t pc.toNat with
  | .miss _ => none
  | .insn len w =>
    let here := runners.filter (fun r => (s.lane r).pc == pc)
    let d := decodeBits len w
    let ready := here.filter (fun r => decide ((s.lane r).since ≤ s.cycle) && s.unready r len w d == 0)
    -- R138: lanes of one join completion go together
    let late := (here.filter (fun r => !ready.contains r)).filterMap (fun r => (s.lane r).released)
    let ready := ready.filter (fun r => match (s.lane r).released with | some n => !late.contains n | none => true)
    if ready.isEmpty || (all && ready.length != here.length) then none
    else some { pc := pc, lanes := ready, len := len, insn := w,
                since := ready.foldl (fun m r => min m (s.lane r).since) (ready.foldl (fun m r => max m (s.lane r).since) 0) }

/-- The older of two offers; the lower PC on a tie (R137). -/
def olderOffer (a b : Offer) : Offer := if b.since < a.since ∨ (b.since = a.since ∧ b.pc.toNat < a.pc.toNat) then b else a

/-- Whether a stop has taken effect on the issue of a context: from the cycle after the event that causes it (R307). -/
def State.stopHolds (s : State) (g : Grid) : Bool :=
  match g.stop with
  | none => false
  | some i => i.cycle != s.cycle
/-- Whether a team may issue: it runs, no stop of its context has taken effect, and no issue cycle is withheld (R307, R394, R426). -/
def State.mayIssue (s : State) (t : Nat) : Bool :=
  let x := s.team t
  x.phase == .running && !s.stopHolds (s.grid x.grid) && Tab.getD s.withheld x.die 0 ≤ s.ns && !s.powerHold

/-- A lane in a blocking instruction, TBAR among them: it is running, and holds its group in deterministic mode (R136, R139). -/
def State.blocking (s : State) (r : LaneRef) : Bool :=
  s.live r && (match (s.lane r).cond with | .held _ => true | .tbar _ => true | _ => false)
/-- The subset that a set of lanes of a team offers (R137), or in deterministic mode the lanes at the lowest PC (R139). -/
def State.offer (s : State) (t : Nat) (lanes : List LaneRef) : Option Offer :=
  if !s.mayIssue t then none else
  let runners := lanes.filter s.runs
  if (s.gridOf t).det then
    let held := lanes.filter s.blocking
    match ((runners ++ held).map (fun r => (s.lane r).pc.toNat)).min? with
    | none => none
    | some pc =>
      if held.any (fun r => (s.lane r).pc.toNat == pc) then none
      else s.offerAt t runners true (BitVec.ofNat 64 pc)
  else
    match (distinct (runners.map (fun r => (s.lane r).pc))).filterMap (s.offerAt t runners false) with
    | [] => none
    | o :: os => some (os.foldl olderOffer o)

/-- Lanes of a group that are not away. -/
def State.homeLanes (s : State) (t g : Nat) : List LaneRef := (s.groupLanes t g).filter (fun r => (s.lane r).away.isNone)
/-- The subset a group offers. -/
def State.groupOffer (s : State) (t g : Nat) : Option Offer := s.offer t (s.homeLanes t g)
/-- The subset a placed formation offers (R169). -/
def State.formationOffer (s : State) (n : Nat) : Option Offer :=
  match Tab.find s.bins n with
  | some b => if b.formed && b.place.isSome then s.offer b.team b.members else none
  | none => none

/-- Whether a running lane is ready: its instruction is there and nothing holds it (R136). -/
def State.readyLane (s : State) (r : LaneRef) : Bool :=
  s.runs r &&
  match s.fetch r.team (s.lane r).pc.toNat with
  | .insn len w => s.unready r len w (decodeBits len w) == 0
  | .miss _ => false
/-- The s-registers of every group, by which a matrix instruction may name its tile (R340). -/
def State.sRegs (s : State) : List (List (Tab Word)) := s.teams.map (fun e => e.2.groups.map (fun g => g.2.s))
/-- Whether anything that a running lane can wait for differs between two states, or a lane is held. -/
def State.mayRenew (s before : State) : Bool :=
  !(decide (s.ops = before.ops) && decide (s.icache = before.icache) && decide (s.tiles = before.tiles) && decide (s.lasts = before.lasts) &&
    decide (s.sent = before.sent) && decide (s.commits = before.commits) && decide (s.sRegs = before.sRegs)) ||
  before.teams.any (fun e => e.2.groups.any (fun g => g.2.lanes.any (fun l => match l.2.cond with | .held _ => true | _ => false)))
/-- Lanes that were not ready and now are begin to age with this cycle (R137). -/
def State.renewAges (s before : State) : State :=
  if !s.mayRenew before then s else
  ((s.teams.flatMap (fun e => s.teamLanes e.1)).filter (fun r => decide ((s.lane r).since < s.cycle) && !before.readyLane r && s.readyLane r)).foldl
    (fun s' r => s'.modLane r (fun x => { x with since := s.cycle })) s

/-! ### Issue -/

/-- Adds an issue to a team's log of their times, which covers the last 10 µs (R395). -/
def Team.noteIssue (t : Team) (ns : Nat) : Team :=
  { t with issued := t.issued + 1, issueLog := (t.issueLog.filter (fun c => decide (ns < c + 10000))) ++ [ns] }

/-- Records an issue: who issues and on which partition, ISSUED (R395), each lane's count of issues and the counters of R178. -/
def State.beginIssue (s : State) (t : Nat) (o : Offer) (formation : Option Nat) : State :=
  let part := match formation with
    | some n => ((Tab.find s.bins n).bind (·.place)).elim 0 Prod.fst
    | none => match o.lanes with | r :: _ => (s.group r).partition | [] => 0
  let core := (s.team t).gcore
  let split := formation.isNone && o.lanes.length < 32 &&
    (match o.lanes with | r :: _ => (s.groupLanes t r.g).any (fun q => s.live q && (s.lane q).pc != o.pc) | [] => false)
  let s := ((s.count 0 core 1 1 part).count 0 core 2 o.lanes.length part)
  let s := if split then s.count 0 core 3 else s
  let s := s.modTeam t (fun x => x.noteIssue s.ns)
  let s := o.lanes.foldl (fun s r => s.modLane r (fun x => { x with issues := x.issues + 1, released := none, last := (o.len, o.insn) })) s
  { s with cur := { team := t, lanes := o.lanes, formation := formation.isSome, pc := o.pc, len := o.len, insn := o.insn, num := s.nextKey },
           nextKey := s.nextKey + 1, issuedNow := (core, part) :: s.issuedNow }

/-- An undecodable instruction raises ILLEGAL_INSTRUCTION in every active lane (R84); a lane whose guard is false goes on, and one whose
guard cannot be read parks with REGISTER_PARITY (R20). -/
def State.illegal (s : State) : State :=
  let g := rawGuard s.cur.len s.cur.insn
  execute g.1 g.2 (fun _ _ => some (1, 0)) (fun _ _ => (none, none)) (fun s _ => s) s

/-- A failed fetch parks every lane that would issue, with TRAP_INSN and LEN 0 (R306, R408). -/
def State.fetchFault (s : State) (lanes : List LaneRef) (pc addr : Nat) (ue : Bool) : State :=
  lanes.foldl (fun s r => s.park r { code := 7, detail := 0, len := 0, addr := addr, insn := 0, fpc := pc } false) (s.countUe ue)

/-! ### Partitions (R167) -/

/-- Core and partition on which a group issues. -/
def State.groupPlace (s : State) (t g : Nat) : Nat × Nat := ((s.team t).gcore, ((s.team t).group g).partition)
/-- What a partition of a core may issue: each group and each placed formation that offers a subset, with its context's number. -/
def State.candidates (s : State) (core p : Nat) : List (Nat × Turn × Offer) :=
  s.teams.flatMap (fun e =>
    if e.2.gcore = core then
      e.2.groups.filterMap (fun g => if g.2.partition = p ∧ !g.2.retired then (s.groupOffer e.1 g.1).map (fun o => (g.2.context, Turn.issue e.1 g.1, o)) else none)
    else []) ++
  s.bins.filterMap (fun e => match e.2.place with
    | some (q, c) => if e.2.core = core ∧ q = p then (s.formationOffer e.1).map (fun o => (c, Turn.formation e.1, o)) else none
    | none => none)
/-- The subset a partition issues: the oldest of those offered, from the context with the lowest number on a tie; none once it has issued in
this cycle (R167). -/
def State.choice (s : State) (core p : Nat) : Option (Turn × Offer) :=
  if s.issuedNow.contains (core, p) then none else
  match s.candidates core p with
  | [] => none
  | x :: xs =>
    let best := xs.foldl (fun a b => if b.2.2.since < a.2.2.since ∨ (b.2.2.since = a.2.2.since ∧ b.1 < a.1) then b else a) x
    some best.2

end Sys2Proof.Machine
end

