-- ==== Sys2Proof/Machine/Joins.lean ====
section
/-! DEFINITION. Where lanes meet: join masks (R147 to R151), TBAR (R256), CHAIN gathering (R244, R245), deadlock, and the exit of a
lane (R142). -/

namespace Sys2Proof.Machine

open Sys2Proof

/-- Bit of a lane in a lane mask. -/
def laneBit (l : Nat) : BitVec 32 := BitVec.ofNat 32 (2 ^ l)
/-- Mask of a join register. -/
def Group.mask (x : Group) (j : Nat) : BitVec 32 := Tab.getD x.j j 0
/-- Arrival set of a join register. -/
def Group.arrived (x : Group) (j : Nat) : BitVec 32 := Tab.getD x.arrival j 0
/-- Sets a join mask. -/
def Group.setMask (x : Group) (j : Nat) (m : BitVec 32) : Group := { x with j := Tab.set x.j j m, badParity := x.badParity.filter (· != 264 + j) }
/-- Sets an arrival set. -/
def Group.setArrived (x : Group) (j : Nat) (m : BitVec 32) : Group := { x with arrival := Tab.set x.arrival j m }
/-- A group's reference lane, by which its home group is reached. -/
def groupRef (t g : Nat) : LaneRef := ⟨t, g, 0⟩

/-- Lanes of a group that wait at JOIN jN, and with `both` at WAITJ jN too. -/
def State.joinWaiters (s : State) (t g j : Nat) (both : Bool) : List LaneRef :=
  (s.groupLanes t g).filter (fun r => (s.lane r).cond == .join j || (both && (s.lane r).cond == .waitj j))
/-- Sends a waiting lane on past its own instruction of `n` bytes; `mark` numbers the completion (R138). -/
def State.goOn (s : State) (r : LaneRef) (n : Nat) (mark : Option Nat) : State :=
  s.modLane r (fun x => { x with cond := .running, pc := x.pc + BitVec.ofNat 64 n, since := s.cycle + 1, released := mark })

/-- Whether some lane of a group that a SAVE found waiting at jN has yet to execute its JOIN or WAITJ again: no release may pass it by (R152). -/
def State.rejoining (s : State) (t g j : Nat) : Bool := (s.groupLanes t g).any (fun r => (s.lane r).back == some j)
/-- evaluate(jN) (R147). -/
def State.evaluate (s : State) (t g j : Nat) : State :=
  let x := (s.team t).group g
  let pending := x.mask j &&& ~~~ (x.arrived j) &&& ~~~ x.exited
  let ws := s.joinWaiters t g j true
  if pending = 0 ∧ ¬ ws.isEmpty ∧ ¬ s.rejoining t g j then
    let mark := s.nextKey
    let s := ws.foldl (fun s r => s.goOn r 4 (some mark)) { s with nextKey := mark + 1 }
    s.modGroup (groupRef t g) (fun x => x.setArrived j 0)
  else s
/-- Evaluates every join of a group (R147). -/
def State.evaluateAll (s : State) (t g : Nat) : State := (List.range 12).foldl (fun s j => s.evaluate t g j) s

/-! ### TBAR -/

/-- Arrival set of a TBAR id in a group. -/
def Team.tbarSet (t : Team) (id g : Nat) : BitVec 32 := Tab.getD t.tbar (32 * id + g) 0
/-- Lanes of a team that count: neither exited nor helpers. -/
def State.counted (s : State) (t : Nat) : List LaneRef := (s.teamLanes t).filter (fun r => !s.exited r && !s.isHelper r)
/-- Completes a TBAR at which every counted lane waits, having arrived (R256). A lane that was saved at it waits again once it has executed it
again (R257). Every arriving lane synchronises with every lane released (R372), so that each goes on with the signatures of all. -/
def State.tbarCheck (s : State) (t id : Nat) : State :=
  let ws := (s.teamLanes t).filter (fun r => (s.lane r).cond == .tbar id)
  if ws.isEmpty then s
  else if (s.counted t).all (fun r => (s.lane r).cond == .tbar id && ((s.team t).tbarSet id r.g).getLsbD r.l) then
    let sig := ws.foldl (fun g r => g.or (s.lane r).sig) (.lines [])
    let s := ws.foldl (fun s r => (s.receive r sig).goOn r 8 none) s
    s.modTeam t (fun x => { x with tbar := x.tbar.filter (fun e => e.1 / 32 != id) })
  else s
/-- Checks every TBAR of a team. -/
def State.tbarCheckAll (s : State) (t : Nat) : State := (List.range 16).foldl (fun s id => s.tbarCheck t id) s

/-! ### CHAIN gathering -/

/-- The CHAIN a lane waits at: its hold. -/
def State.chainHold (s : State) (r : LaneRef) : Option Hold :=
  match (s.lane r).cond with
  | .held h => if h.kind = .chain then some h else none
  | _ => none
/-- Address, operation and width that gathered lanes must share (R244). -/
def Hold.chainKey (h : Hold) : Nat × Nat × Nat := (h.ea, h.x.md.toNat, h.x.c.toNat / 4 % 4)
/-- Whether every counted lane of a group waits at a CHAIN of the key (R244). -/
def State.gathered (s : State) (t g : Nat) (key : Nat × Nat × Nat) : Bool :=
  ((s.groupLanes t g).filter (fun r => !s.exited r && !s.isHelper r)).all (fun r =>
    match s.chainHold r with
    | some h => h.chainKey == key
    | none => false)
/-- A combination in progress: its value, the lanes met so far with what stood before each, and whether any step raised INV (R234). -/
structure Gathering (α : Type) where
  value : Nat
  lanes : List α
  inv : Bool
  deriving DecidableEq, Repr
/-- G(g) and the lanes' x(l) (R244): each gathered lane with the combination of the lanes before it. -/
def chainGroup (op w : Nat) (lanes : List (LaneRef × Nat)) : Gathering (LaneRef × Nat) :=
  lanes.foldl (fun a e => let v := atomicOp op w a.value e.2; { value := v.1, lanes := a.lanes ++ [(e.1, a.value)], inv := a.inv || v.2 })
    { value := atomicIdentity op w, lanes := [], inv := false }
/-- T and every lane's P(g) and x(l) (R244). -/
def chainTeam (op w : Nat) (gs : List (List (LaneRef × Nat))) : Gathering (LaneRef × Nat × Nat) :=
  gs.foldl (fun a lanes =>
    let x := chainGroup op w lanes
    let v := atomicOp op w a.value x.value
    { value := v.1, lanes := a.lanes ++ x.lanes.map (fun e => (e.1, a.value, e.2)), inv := a.inv || x.inv || v.2 })
    { value := atomicIdentity op w, lanes := [], inv := false }
/-- A team's request on a fabric-window object goes to the target's home (R233, R436), as a release at its scope (R372, R373); an operation
without a slot awaits the reply. -/
def State.chainSend (s : State) (t : Nat) (c : ChainReq) : State :=
  match c.lanes with
  | [] => s
  | (r, _, _) :: _ =>
    if c.pa < 2 ^ 48 then s else
    let n := s.nextKey
    let release := c.lanes.any (fun e => (s.chainHold e.1).any (fun h => decide (6 ≤ h.x.fs.toNat)))
    let s := s.send t (some (n + 1)) c.pa (.object 0x23 [(s.team t).teamid, c.op, c.width, c.total]) [] release
    let k := s.nextKey
    let o : Op := { lane := r, issue := n, together := false, slot := none, writes := [], preds := [], wait := .fabric n, phase := 0, fill := none,
                    mark := (s.lane r).issues, info := { code := 0xFF, detail := 0, len := 4, addr := c.pa, insn := 0, fpc := 0 }, late := none }
    { s with ops := Tab.set s.ops k o, nextKey := k + 1 }
/-- Sends the team's request to the home once its contribution is complete (R244); the object is then armed (R245). -/
def State.chainCheck (s : State) (t : Nat) : State :=
  if s.chains.any (fun e => e.2.team == t) then s else
  match (s.teamLanes t).findSome? s.chainHold with
  | none => s
  | some h =>
    let key := h.chainKey
    let gs := (s.team t).groups
    if gs.all (fun e => e.2.retired || s.gathered t e.1 key) then
      let w := if h.x.c.toNat / 4 % 4 = 1 then 64 else 32
      let op := h.x.md.toNat
      let lanes := gs.map (fun e => (s.groupLanes t e.1).filterMap (fun r => (s.chainHold r).map (fun q => (r, q.v1))))
      let c := chainTeam op w lanes
      let rs := lanes.flatten.map Prod.fst
      let s := s.setFlags t (FpFlags.ofInv c.inv)
      let req : ChainReq := { team := t, pa := h.pa, op := op, width := w, total := c.value, lanes := c.lanes }
      let s := { s with chains := Tab.set s.chains s.nextKey req, nextKey := s.nextKey + 1 }
      (rs.foldl (fun s r => { s with waiters := Tab.set s.waiters s.nextKey { lane := r, kind := .chain, pa := h.pa, localTo := 0 },
                                     nextKey := s.nextKey + 1 }) s).chainSend t req
    else s

/-! ### Deadlock (R151, R245, R256) -/

/-- Whether a lane waits at a JOIN or WAITJ, or at a CHAIN whose request has not gone out. -/
def State.stuck (s : State) (r : LaneRef) : Bool :=
  match (s.lane r).cond with
  | .join _ => true
  | .waitj _ => true
  | .held h => h.kind == .chain && !(s.chains.any (fun e => e.2.team == r.team))
  | _ => false
/-- Parks a waiting lane with JOIN_DEADLOCK at its instruction; its arrivals are cleared first. -/
def State.deadlockLane (s : State) (r : LaneRef) : State :=
  let s := s.modGroup r (fun x => { x with arrival := x.arrival.map (fun e => (e.1, e.2 &&& ~~~ (laneBit r.l))) })
  let s := s.modTeam r.team (fun x => { x with tbar := x.tbar.map (fun e => if e.1 % 32 = r.g then (e.1, e.2 &&& ~~~ (laneBit r.l)) else e) })
  match (s.lane r).cond with
  | .held _ => s.faultHeld r 0x1A
  | _ =>
    let x := s.lane r
    s.park r { code := 0x1A, detail := 0, len := x.last.1, addr := 0, insn := x.last.2, fpc := x.pc.toNat } false
/-- Raises JOIN_DEADLOCK in a group, or in the whole team, where no release can follow. -/
def State.checkDeadlock (s : State) (t g : Nat) : State :=
  let free (r : LaneRef) : Bool := !s.exited r
  let mine := (s.groupLanes t g).filter free
  let calm (rs : List LaneRef) : Bool := rs.all (fun r => !(s.lane r).parked && (s.lane r).away.isNone)
  -- a gathering that has completed for the group waits for its team and turn
  let gatheredAll := match mine.findSome? s.chainHold with
    | some h => s.gathered t g h.chainKey
    | none => false
  if !mine.isEmpty && calm mine && mine.all s.stuck && !gatheredAll then mine.foldl State.deadlockLane s
  else
    let all := (s.teamLanes t).filter free
    let stuckT (r : LaneRef) : Bool := s.stuck r || (match (s.lane r).cond with | .tbar _ => true | _ => false)
    if !all.isEmpty && calm all && all.all stuckT then all.foldl State.deadlockLane s else s

/-- Everything a change of a group's lanes can complete. -/
def State.settle (s : State) (t g : Nat) : State :=
  (((s.evaluateAll t g).tbarCheckAll t).chainCheck t).checkDeadlock t g

/-- A lane ends (R142, R302). -/
def State.exitLane (s : State) (r : LaneRef) : State :=
  let s := s.returnHome r
  let s := s.modLane r (fun x => { x with parked := false, cond := .running, staged := none, deferred := [],
                                          trap := { x.trap with cause := x.trap.cause &&& ~~~ 256#32 } })
  s.modGroup r (fun x => { x with exited := x.exited ||| laneBit r.l })

end Sys2Proof.Machine
end

