-- ==== Sys2Proof/Machine/Objects.lean ====
section
/-! DEFINITION. Read-modify-writes at the home (R233, R240, R241), the words of a barrier object (R246 to R254), and where an object
lies. -/

namespace Sys2Proof.Machine

open Sys2Proof

/-! ### Ordering parts of an operation at the home -/

/-- The acquire and release parts of a read-modify-write at `pa` (R240, R241, R367): the release part ORs the lane's signature into the
field, the acquire part receives what stood there. -/
def State.rmwOrder (s : State) (r : LaneRef) (pa scope ord : Nat) : State :=
  let f := s.field (lineOf pa)
  let rel := decide (2 ≤ ord)
  let fenced := decide (1 ≤ scope) && decide (1 ≤ (s.lane r).fenced)
  let s := if rel || fenced then s.orField pa (s.releaseSig r) else s
  if ord % 2 = 1 then s.acquireSig r scope f else s.noteSeen r scope f

/-- The outcome of a read-modify-write for a lane: the old value, or a fault found at the home. -/
structure Rmw where
  s : State
  old : Nat
  late : Option Nat
  deriving DecidableEq, Repr

/-- A read-modify-write of `n` bytes at its home for a lane (R233): `f` gives the new value, which is the old one where a CAS fails (R235), and
whether INV is raised (R234). -/
def State.rmw (s : State) (r : LaneRef) (pa n scope ord : Nat) (f : Nat → Nat × Bool) : Rmw :=
  let h := s.homeReadBy (s.team r.team).gcore pa n
  if h.2.2.marked (s.team r.team).grid pa then { s := h.2.2, old := 0, late := some 0x19 } else
  let b := h.2.2.metBad r 3 h.2.1
  match b.2 with
  | some c => { s := b.1, old := 0, late := some c }
  | none =>
    let old := leNat h.1
    let v := f old
    let s := (b.1.homeWrite pa (leBytes n v.1)).noteWrite r (lineOf pa)
    { s := (s.setFlags r.team (FpFlags.ofInv v.2)).rmwOrder r pa scope ord, old := old, late := none }

/-! ### Where an object lies -/

/-- An object in global memory, by its physical address, or in the region of a team. -/
inductive ObjAt where
  | mem (pa : Nat)
  | loc (t off : Nat)
  deriving DecidableEq, Repr

/-- Address of the object, by which a hold names it. -/
def ObjAt.key : ObjAt → Nat
  | .mem pa => pa
  | .loc t off => localKey t off
/-- Whether a waiter waits on the object. -/
def ObjAt.has (o : ObjAt) (w : Waiter) : Bool :=
  match o with
  | .mem pa => w.localTo == 0 && w.pa == pa
  | .loc t off => w.localTo == t + 1 && w.pa == off
/-- A waiter on the object. -/
def ObjAt.waiter (o : ObjAt) (r : LaneRef) (k : HoldKind) : Waiter :=
  match o with
  | .mem pa => { lane := r, kind := k, pa := pa, localTo := 0 }
  | .loc t off => { lane := r, kind := k, pa := off, localTo := t + 1 }
/-- The object a waiter waits on. -/
def Waiter.at (w : Waiter) : ObjAt := if w.localTo = 0 then .mem w.pa else .loc (w.localTo - 1) w.pa
/-- Adds a waiter. -/
def State.addWaiter (s : State) (w : Waiter) : State := { s with waiters := Tab.set s.waiters s.nextKey w, nextKey := s.nextKey + 1 }
/-- How an operation finds its object: the bytes, with whether they met uncorrectable data; a fault of a stash transition; or a fault found
at the home (R185, R242). -/
inductive ObjEnd where
  | ok (bytes : List Byte) (bad : Bool) (s : State)
  | fault (s : State) (code : Nat)
  | late (s : State) (code : Nat)
  deriving DecidableEq, Repr
/-- Reads an object at its home for a thread of a core. A local object that lies in a mapped range is reached through its sector, which an
operation that will write brings to DIRTY (R185). -/
def State.objRead (s : State) (core : Nat) (o : ObjAt) (n : Nat) (writes : Bool) : ObjEnd :=
  match o with
  | .mem pa => let h := s.homeReadBy core pa n; .ok h.1 h.2.1 h.2.2
  | .loc t off =>
    let plain (s : State) (drop : Bool) : ObjEnd :=
      let bad := (s.team t).localBad.contains (off / 64)
      .ok (if bad then zeros n else memGetN (s.team t).localMem off n) (drop || bad) s
    match (s.team t).stashAt off with
    | none => plain s false
    | some (m, k, mp) =>
      match (if writes then s.stashWrite t m k mp false true false else s.stashRead t m k mp true) with
      | .ok s d pa => plain (s.dropL1At core pa 64) d
      | .fault s c => .fault s c
      | .late s c => .late s c
/-- Writes bytes of an object, which breaks nothing in its line (R255). -/
def State.objWrite (s : State) (o : ObjAt) (off : Nat) (bs : List Byte) : State :=
  match o with
  | .mem pa => (s.objectWrite (pa + off) bs).dropAll (sectorOf (pa + off)) 64
  | .loc t a => s.pokeLocal t (a + off) bs
/-- Breaks an object: every waiter on it faults (R248). -/
def State.breakObject (s : State) (o : ObjAt) : State := s.breakWaiters o.has
/-- The acquire and release parts of an operation of a lane on an object; what it writes of a mapped sector is a line of global memory too
(R185, R366). -/
def State.objOrder (s : State) (r : LaneRef) (o : ObjAt) (scope ord : Nat) : State :=
  let a := match o with | .mem pa => pa | .loc t off => s.fieldKey t off
  (if 2 ≤ ord ∧ a < 2 ^ 48 then s.noteWrite r (lineOf a) else s).rmwOrder r a scope ord

/-! ### The barrier object (R246) -/

/-- Fields of a barrier object's 128 bits. -/
def barExpect (n : Nat) : Nat := bits n 15 0
def barArrived (n : Nat) : Nat := bits n 31 16
def barPhase (n : Nat) : Nat := bits n 47 32
def barCohort (n : Nat) : Nat := bits n 48 48
def barDropNext (n : Nat) : Nat := bits n 79 64
/-- An object from its fields, the reserved ones 0. -/
def barMake (expect arrived phase cohort dropNext : Nat) : Nat :=
  expect % 2 ^ 16 + arrived % 2 ^ 16 * 2 ^ 16 + phase % 2 ^ 16 * 2 ^ 32 + cohort % 2 * 2 ^ 48 + dropNext % 2 ^ 16 * 2 ^ 64
/-- A consistent object (R248). -/
def barOk (n : Nat) : Bool :=
  bits n 63 49 == 0 && bits n 127 80 == 0 && decide (barArrived n ≤ barExpect n) && decide (barDropNext n ≤ barArrived n)
/-- complete(o) (R248). -/
def barComplete (n : Nat) : Nat := barMake (barExpect n - barDropNext n) 0 (barPhase n + 1) (barCohort n) 0
/-- An arrival (R250); none breaks the object. -/
def barArrive (n : Nat) : Option Nat :=
  if !barOk n || decide (barExpect n < barArrived n + 1) then none
  else
    let m := barMake (barExpect n) (barArrived n + 1) (barPhase n) (barCohort n) (barDropNext n)
    some (if barArrived m = barExpect m then barComplete m else m)
/-- A withdrawal (R254); none breaks the object. -/
def barWithdraw (n count : Nat) : Option Nat :=
  let k := bits count 15 0
  if !barOk n then none
  else if bit count 31 then
    if barArrived n < barDropNext n + k then none
    else some (barMake (barExpect n) (barArrived n) (barPhase n) (barCohort n) (barDropNext n + k))
  else if barExpect n - barArrived n < k then none
  else
    let m := barMake (barExpect n - k) (barArrived n) (barPhase n) (barCohort n) (barDropNext n)
    some (if 0 < k ∧ barArrived m = barExpect m then barComplete m else m)
/-- The object BINIT writes (R249). -/
def barInit (count : Nat) : Nat := barMake (bits count 15 0) 0 0 (bits count 16 16) 0
/-- BWAIT's condition (R251). -/
def barPassed (n t : Nat) : Bool := decide ((barPhase n + (2 ^ 16 - t % 2 ^ 16)) % 2 ^ 16 < 2 ^ 15)
/-- The withdrawal of a BARW's own arrival at SAVE (R257). -/
def barUnarrive (n : Nat) : Nat := barMake (barExpect n) (barArrived n - 1) (barPhase n) (barCohort n) (barDropNext n)

/-- Answers another device's BWAIT whose condition holds (R248, R251). -/
def State.wakeRemote (s : State) (w : Waiter) (n : Nat) : State :=
  match s.arrivals.find? (fun a => a.waits && (remoteWaiter a.p w.kind w.pa).lane == w.lane) with
  | none => s
  | some a =>
    match a.p.kind with
    | .object 0x26 [t] =>
      if barPassed n t then ((s.unhold a.p).dropWaiters (fun v => v.lane == w.lane)).answer a.p (0 :: leBytes 2 (barPhase n)) else s
    | _ => s
/-- Releases every waiter on a barrier object whose condition holds (R248, R251): it receives the phase and acquires. -/
def State.wakeBarrier (s : State) (o : ObjAt) (n : Nat) : State :=
  let ws := (s.waiters.filter (fun e => o.has e.2 && (e.2.kind == .bwait || e.2.kind == .barw))).map Prod.snd
  ws.foldl (fun s w =>
    if w.lane.team = 0 then s.wakeRemote w n else
    match (s.lane w.lane).cond with
    | .held h =>
      if barPassed n h.v1 then
        let s := s.dropWaiters (fun v => v.lane == w.lane)
        (s.objOrder w.lane o h.x.fs.toNat 1).release w.lane (runWrites h.x.d.toNat (barPhase n) 1) []
      else s
    | _ => s) s
/-- Writes a barrier object and releases the waiters that may go on. -/
def State.putBarrier (s : State) (o : ObjAt) (n : Nat) : State := (s.objWrite o 0 (leBytes 16 n)).wakeBarrier o n

end Sys2Proof.Machine
end

