-- ==== Sys2Proof/Machine/Atomic.lean ====
section
/-! DEFINITION. ATOM, CAS, UPD with its copies, and CHAIN (R232 to R245). -/

namespace Sys2Proof.Machine

open Sys2Proof

/-- Width of an atomic in bits (R232). -/
def atomWidth (x : XForm) : Nat := if x.c.toNat / 4 % 4 = 1 then 64 else 32
/-- Registers of an atomic's operand. -/
def atomRegs (x : XForm) : Nat := if x.c.toNat / 4 % 4 = 1 then 2 else 1
/-- Width code of an atomic (R77). -/
def atomCode (x : XForm) : Nat := if x.c.toNat / 4 % 4 = 1 then 5 else 4

/-- Where an atomic acts in a lane: a physical address, the fabric window, or the fault it takes (R233, R402, R407). -/
def State.atomPlace (s : State) (r : LaneRef) (ea align : Nat) : Except (Nat × Bool) (Option Nat) :=
  if ea % align ≠ 0 then .error (4, false) else
  match s.place (s.team r.team).grid ea 1 with
  | .bad c ue => .error (c, ue)
  | .fabric => (match s.fabricFault ea with | some c => .error (c, false) | none => .ok none)
  | .mem pa _ => if isHost pa then .error (6, false) else .ok (some pa)

/-- A read-modify-write in one lane: `f` acts at the home, `kind` travels through the fabric. -/
def State.atomLane (s : State) (x : XForm) (f : Nat → Nat × Bool) (kind : PacketKind) (r : LaneRef) : State :=
  if s.isHelper r then s.finish r x [] else
  let ea := s.reg64 r x.a.toNat
  let w := atomWidth x / 8
  let ord := x.c.toNat % 4
  match s.atomPlace r ea w with
  | .error (c, ue) => (s.countUe ue).raise r c ea
  | .ok none => s.sendFor r x ea kind [] (s.endsEpoch r x.fs.toNat ord) (runWrites x.d.toNat 0 (atomRegs x)) (some (x.d.toNat, atomCode x))
  | .ok (some pa) =>
    let v := s.rmw r pa w x.fs.toNat ord f
    v.s.land r x (runWrites x.d.toNat v.old (atomRegs x)) [] v.late ea
/-- The scopes at which deterministic mode forbids an atomic (R242). -/
def State.detScope (s : State) (x : XForm) : Bool := (s.gridOf s.cur.team).det && decide (4 ≤ x.fs.toNat)
/-- ATOM (R234). -/
def execAtom (x : XForm) (s : State) : Host.Outcome State Fault Refusal :=
  runX (.atom x) x (fun s rs =>
    if s.detScope x then s.raiseAll rs 0x19 else
    rs.foldl (fun s r =>
      let b := s.regRun r x.b.toNat (atomRegs x)
      s.atomLane x (fun old => atomicOp x.md.toNat (atomWidth x) old b) (.atomic x.md.toNat (atomWidth x) b) r) s) s
/-- CAS (R235). -/
def execCas (x : XForm) (s : State) : Host.Outcome State Fault Refusal :=
  runX (.cas x) x (fun s rs =>
    if s.detScope x then s.raiseAll rs 0x19 else
    rs.foldl (fun s r =>
      let e := s.regRun r x.b.toNat (atomRegs x)
      let n := if x.b.toNat < 192 then s.regRun r (x.b.toNat + atomRegs x) (atomRegs x) else 0
      s.atomLane x (fun old => (if old = e then n else old, false)) (.cas (atomWidth x) e n) r) s) s

/-! ### Update-only copies -/

/-- Merges a lane's operand into its core's update-only copy (R237): an old copy of another key is combined first. -/
def State.mergeUpd (s : State) (r : LaneRef) (op w pa x : Nat) (sig : Sig) (rel : Bool) : State :=
  let core := (s.team r.team).gcore
  let line := lineOf pa
  let word := (pa - line) / (w / 8)
  let other (c : UpdCopy) : Bool := c.core == core && c.line == line && (c.op != op || c.width != w)
  let old := s.upd.filter (fun e => other e.2)
  let s := old.foldl (fun s e => s.combineCopy e.2) { s with upd := s.upd.filter (fun e => !other e.2) }
  let s := s.dropL1At core line 256
  match s.upd.find? (fun e => e.2.core == core && e.2.line == line) with
  | some (k, c) =>
    let v := atomicOp op w (Tab.getD c.parts word (atomicIdentity op w)) x
    let c := { c with parts := Tab.set c.parts word v.1, team := r.team, rel := c.rel || rel, sig := if rel then c.sig.or sig else c.sig }
    ({ s with upd := Tab.set s.upd k c } : State).setFlags r.team (FpFlags.ofInv v.2)
  | none =>
    let v := atomicOp op w (atomicIdentity op w) x
    let s := s.roomFor core 4
    let c : UpdCopy := { core := core, line := line, op := op, width := w, parts := [(word, v.1)], team := r.team,
                         sig := if rel then sig else .lines [], rel := rel }
    ({ s with upd := Tab.set s.upd s.nextKey c, nextKey := s.nextKey + 1 } : State).setFlags r.team (FpFlags.ofInv v.2)
/-- UPD in one lane (R236 to R240, R242). -/
def State.updLane (s : State) (x : XForm) (r : LaneRef) : State :=
  if s.isHelper r then s.finish r x [] else
  let ea := s.reg64 r x.a.toNat
  let ord := x.c.toNat % 4
  let w := atomWidth x
  let b := s.regRun r x.b.toNat (atomRegs x)
  match s.atomPlace r ea (w / 8) with
  | .error (c, ue) => (s.countUe ue).raise r c ea
  | .ok none => s.sendFor r x ea (.atomic x.md.toNat w b) [] (s.endsEpoch r x.fs.toNat ord) [] none
  | .ok (some pa) =>
    let rel := decide (2 ≤ ord) || decide (1 ≤ (s.lane r).fenced)
    let s := s.noteWrite r (lineOf pa)
    let s := s.mergeUpd r x.md.toNat w pa b (s.releaseSig r) rel
    let s := if ord % 2 = 1 then s.acquireSig r x.fs.toNat (s.field (lineOf pa)) else s
    let s := if (s.gridOf r.team).det then { s with marks := insertNew (lineOf pa, (s.team r.team).grid) s.marks } else s
    s.finish r x []
/-- UPD (R236). -/
def execUpd (x : XForm) (s : State) : Host.Outcome State Fault Refusal :=
  runX (.upd x) x (fun s rs =>
    if s.detScope x && (x.md == 9 || x.md == 10 || x.md == 11) then s.raiseAll rs 0x19
    else rs.foldl (fun s r => s.updLane x r) s) s
/-- UPD_COPY_EVICTION: an L1 sends a copy for combination (R238). -/
def execUpdCopyEviction (n : Nat) (s : State) : Host.Outcome State Fault Refusal :=
  .next (match Tab.find s.upd n with
    | some c => ({ s with upd := Tab.erase s.upd n } : State).combineCopy c
    | none => s)

/-! ### CHAIN -/

/-- CHAIN in one lane: it waits, its operand sampled (R244). -/
def State.chainLane (s : State) (x : XForm) (r : LaneRef) : State :=
  if s.isHelper r then s.finish r x [] else
  let ea := s.reg64 r x.a.toNat
  match s.atomPlace r ea 16 with
  | .error (c, ue) => (s.countUe ue).raise r c ea
  | .ok p =>
    (s.returnHome r).hold r
      { kind := .chain, x := x, insn := s.cur.insn, ea := ea, pa := p.getD ea, v1 := s.regRun r x.b.toNat (atomRegs x), v2 := 0,
        deadline := none, order := s.nextKey, issue := s.cur.num }
/-- CHAIN (R243, R244). -/
def execChain (x : XForm) (s : State) : Host.Outcome State Fault Refusal :=
  runX (.chain x) x (fun s rs =>
    let s := rs.foldl (fun s r => s.chainLane x r) s
    let gs := distinct (rs.map (fun r => (r.team, r.g)))
    gs.foldl (fun s g => s.settle g.1 g.2) s) s
/-- The gathered lanes of a request go on with their exclusive prefixes of the old value (R244). -/
def State.chainRelease (s : State) (n old : Nat) : State :=
  match Tab.find s.chains n with
  | none => s
  | some c =>
    let s := ({ s with chains := Tab.erase s.chains n } : State).dropWaiters (fun w => w.kind == .chain && c.lanes.any (fun e => e.1 == w.lane))
    c.lanes.foldl (fun s e =>
      match (s.lane e.1).cond with
      | .held h =>
        let p := atomicOp c.op c.width old e.2.1
        let v := atomicOp c.op c.width p.1 e.2.2
        (s.setFlags e.1.team (FpFlags.ofInv (p.2 || v.2))).release e.1 (runWrites h.x.d.toNat v.1 (c.width / 32)) []
      | _ => s) s
/-- Faults every gathered lane of a request. -/
def State.chainFault (s : State) (n code : Nat) : State :=
  match Tab.find s.chains n with
  | none => s
  | some c =>
    let s := ({ s with chains := Tab.erase s.chains n } : State).dropWaiters (fun w => w.kind == .chain && c.lanes.any (fun e => e.1 == w.lane))
    c.lanes.foldl (fun s e => s.faultHeld e.1 code) s
/-- The new VALUE and TURN, and whether INV is raised. -/
def chainNew (op w old turn total : Nat) : Nat × Nat × Bool :=
  let v := atomicOp op w old total
  (v.1, (turn + 1) % 2 ^ 32, v.2)
/-- The chain object's VALUE and TURN. -/
def chainValue (n w : Nat) : Nat := n % 2 ^ w
def chainTurnOf (n : Nat) : Nat := bits n 95 64
/-- Places of TURN after and before a team's (R244, R245): 0 its turn, 1 passed, 2 to come. -/
def chainWhen (turn k : Nat) : Nat :=
  let d := (turn + (2 ^ 32 - k % 2 ^ 32)) % 2 ^ 32
  if d = 0 then 0 else if d < 2 ^ 31 then 1 else 2
/-- CHAIN_TURN: at the home, a team's turn comes, or has passed (R244, R245). The object is read and written indivisibly. -/
def execChainTurn (n : Nat) (s : State) : Host.Outcome State Fault Refusal :=
  .next (match Tab.find s.chains n with
    | none => s
    | some c0 =>
      if 2 ^ 48 ≤ c0.pa then s else
      let h := s.homeReadBy (s.team c0.team).gcore c0.pa 16
      let s1 := h.2.2
      match Tab.find s1.chains n with
      | none => s1
      | some c =>
        let o := leNat h.1
        let k := (s1.team c.team).teamid
        if s1.marked (s1.team c.team).grid c.pa then s1.chainFault n 0x19
        else if h.2.1 && (s1.gridOf c.team).strict then (s1.count 4 0 3).chainFault n 8
        else if chainWhen (chainTurnOf o) k = 2 then s
        else if chainWhen (chainTurnOf o) k = 1 then s1.chainFault n 0x10
        else
          let s1 := if h.2.1 then (s1.count 4 0 3).setTerr c.team 0 else s1
          let old := chainValue o c.width
          let v := chainNew c.op c.width old (chainTurnOf o) c.total
          let s1 := (s1.objWrite (.mem c.pa) 0 (leBytes (c.width / 8) v.1)).objWrite (.mem c.pa) 8 (leBytes 4 v.2.1)
          let s1 := s1.setFlags c.team (FpFlags.ofInv v.2.2)
          let s1 := c.lanes.foldl (fun s e =>
            let scope := match (s.lane e.1).cond with | .held h => h.x.fs.toNat | _ => 0
            s.objOrder e.1 (.mem c.pa) scope 3) s1
          s1.chainRelease n old)

end Sys2Proof.Machine
end

