-- ==== Sys2Proof/Machine/Barrier.lean ====
section
/-! DEFINITION. Barrier instructions and TBAR (R247 to R256). -/

namespace Sys2Proof.Machine

open Sys2Proof

/-- Where a barrier instruction's object lies in a lane: an object of this device, the fabric window, or the fault taken (R247). -/
def State.barPlace (s : State) (r : LaneRef) (x : XForm) : Except (Nat × Bool) (Option ObjAt) :=
  if bit x.md.toNat 0 then
    let a := s.regRun r x.a.toNat 1
    if a % 16 ≠ 0 then .error (4, false) else
    match s.localPlace r.team a 16 with
    | none => .error (9, false)
    | some (t, off) => .ok (some (.loc t off))
  else
    let ea := s.reg64 r x.a.toNat
    if ea % 16 ≠ 0 then .error (4, false) else
    match s.place (s.team r.team).grid ea 1 with
    | .bad c ue => .error (c, ue)
    | .fabric => (match s.fabricFault ea with | some c => .error (c, false) | none => .ok none)
    | .mem pa _ => if isHost pa then .error (6, false) else .ok (some (.mem pa))
/-- The lane's object address. -/
def State.barEa (s : State) (r : LaneRef) (x : XForm) : Nat := if bit x.md.toNat 0 then s.regRun r x.a.toNat 1 else s.reg64 r x.a.toNat

/-- The lane's fault at a place. -/
def State.barFault (s : State) (r : LaneRef) (x : XForm) (e : Nat × Bool) : State := (s.countUe e.2).raise r e.1 (s.barEa r x)

/-! ### Operations on an object of this device -/

/-- How an operation on a barrier object ends: done, with its writes; a wait for the phase `t`, with the phase of its own arrival; the fault
of a stash transition; or a fault found at the home, and whether that one names the object's address. -/
inductive BarEnd where
  | done (s : State) (ws : List (Nat × Word)) (ps : List (Nat × Bool))
  | wait (s : State) (t phase : Nat)
  | fault (s : State) (code : Nat)
  | late (s : State) (code : Nat) (named : Bool)
  deriving DecidableEq, Repr

/-- Reads a barrier object for a lane and goes on with its 128 bits; uncorrectable data reads as zero, or is the STRICT trap (R207). `writes`
says that the operation changes the object. -/
def State.withBarrier (s : State) (r : LaneRef) (o : ObjAt) (writes : Bool) (f : State → Nat → BarEnd) : BarEnd :=
  match s.objRead (s.team r.team).gcore o 16 writes with
  | .fault s c => .fault s c
  | .late s1 c => .late s1 c true
  | .ok bs bad s1 =>
    let b := s1.metBad r (match o with | .mem _ => 3 | .loc _ _ => 5) bad
    match b.2 with
    | some c => .late b.1 c true
    | none => f b.1 (leNat bs)
/-- A refused operation: the lane and every waiter on the object fault with OBJECT_BROKEN, and the object stays as it is (R248). -/
def State.refuseBarrier (s : State) (o : ObjAt) : BarEnd := .late (s.breakObject o) 0x10 false
/-- BARR (R250). -/
def State.barrAt (s : State) (x : XForm) (r : LaneRef) (o : ObjAt) : BarEnd :=
  s.withBarrier r o true (fun s n =>
    match barArrive n with
    | none => s.refuseBarrier o
    | some m => .done ((s.objOrder r o x.fs.toNat 2).putBarrier o m) (runWrites x.d.toNat (barPhase n) 1) [])
/-- BWAIT for a phase (R251). -/
def State.bwaitAt (s : State) (x : XForm) (r : LaneRef) (o : ObjAt) (t : Nat) : BarEnd :=
  s.withBarrier r o false (fun s n =>
    if !barOk n then s.refuseBarrier o
    else if barPassed n t then .done (s.objOrder r o x.fs.toNat 1) (runWrites x.d.toNat (barPhase n) 1) []
    else .wait s t 0)
/-- BARW: the arrival, then the wait for the phase after it (R252). -/
def State.barwAt (s : State) (x : XForm) (r : LaneRef) (o : ObjAt) : BarEnd :=
  s.withBarrier r o true (fun s n =>
    match barArrive n with
    | none => s.refuseBarrier o
    | some m =>
      let s := s.objOrder r o x.fs.toNat 2
      let t := (barPhase n + 1) % 2 ^ 16
      if barPassed m t then .done ((s.putBarrier o m).objOrder r o x.fs.toNat 1) (runWrites x.d.toNat (barPhase m) 1) []
      else .wait (s.putBarrier o m) t (barPhase n))
/-- BTESTP of a target phase (R253). -/
def State.btestpAt (s : State) (x : XForm) (r : LaneRef) (o : ObjAt) (t : Nat) : BarEnd :=
  s.withBarrier r o false (fun s n =>
    if !barOk n then s.refuseBarrier o
    else
      let p := bit (barPhase n) 0 == bit t 0
      .done (if p then s.objOrder r o x.fs.toNat 1 else s) [] [(x.d.toNat, p)])
/-- BDROP of a count (R254). -/
def State.bdropAt (s : State) (x : XForm) (r : LaneRef) (o : ObjAt) (count : Nat) : BarEnd :=
  s.withBarrier r o true (fun s n =>
    match barWithdraw n count with
    | none => s.refuseBarrier o
    | some m => .done ((s.objOrder r o x.fs.toNat 2).putBarrier o m) [] [])
/-- A barrier instruction's operation on an object, with the operand the lane has read. -/
def State.barAt (s : State) (i : Instr) (r : LaneRef) (o : ObjAt) (b : Nat) : BarEnd :=
  match i with
  | .barr x => s.barrAt x r o
  | .bwait x => s.bwaitAt x r o b
  | .barw x => s.barwAt x r o
  | .btestp x => s.btestpAt x r o b
  | .bdrop x => s.bdropAt x r o b
  | _ => .done s [] []

/-! ### The instructions -/

/-- Holds a lane on an object of this device (R251, R252). -/
def State.holdBarrier (s : State) (r : LaneRef) (x : XForm) (o : ObjAt) (k : HoldKind) (t phase : Nat) : State :=
  (s.hold r { kind := k, x := x, insn := s.cur.insn, ea := s.barEa r x, pa := o.key, v1 := t, v2 := phase, deadline := none,
              order := s.nextKey, issue := s.cur.num }).addWaiter (o.waiter r k)
/-- The destinations of a barrier instruction, which the interlock holds until it ends (R170). -/
def barDests (i : Instr) : List (Nat × Word) × List (Nat × Bool) :=
  match i with
  | .barr x | .bwait x | .barw x => (runWrites x.d.toNat 0 1, [])
  | .btestp x => ([], [(x.d.toNat, false)])
  | _ => ([], [])
/-- Ends a barrier instruction that has been performed at issue. -/
def State.barEnd (s : State) (i : Instr) (x : XForm) (r : LaneRef) (o : ObjAt) (k : HoldKind) : BarEnd → State
  | .done s ws ps => s.finish r x ws ps
  | .wait s t phase => s.holdBarrier r x o k t phase
  | .fault s c => s.raise r c (s.barEa r x)
  | .late s1 c named => s1.finishLate r x (barDests i).1 c (if named then s.barEa r x else 0) (barDests i).2
/-- Performs a barrier instruction on an object of this device: at once, or, where a lane names it by a GANG = 1 address, when the operation
arrives at the region (R183, R247). A BWAIT or BARW holds its lane meanwhile. -/
def State.barHere (s : State) (i : Instr) (x : XForm) (r : LaneRef) (o : ObjAt) (b : Nat) (k : Option HoldKind) : State :=
  let ea := s.barEa r x
  match o, bit x.md.toNat 0 && bit ea 21 with
  | .loc t off, true =>
    let op : Op := { s.newOp r x (barDests i).1 (barDests i).2 with wait := .gang t off 16 (s.team t).tag (leBytes 4 b), info := s.faultHere 0 0 ea }
    (match k with
     | none => (s.post op x).2
     | some k =>
       ({ s with ops := Tab.set s.ops s.nextKey { op with slot := none, writes := [] }, nextKey := s.nextKey + 1 } : State).hold r
         { kind := k, x := x, insn := s.cur.insn, ea := ea, pa := o.key, v1 := b, v2 := 0, deadline := none, order := s.nextKey, issue := s.cur.num })
  | _, _ => s.barEnd i x r o (k.getD .bwait) (s.barAt i r o b)

/-- BINIT in one lane (R249): one 16-byte write, which breaks the waiters of its line (R255). -/
def State.binitLane (s : State) (x : XForm) (r : LaneRef) : State :=
  if s.isHelper r then s.finish r x [] else
  let b := s.regRun r x.b.toNat 1
  let bs := leBytes 16 (barInit b)
  let ea := s.barEa r x
  match s.barPlace r x with
  | .error e => s.barFault r x e
  | .ok none => s.sendFor r x ea (.object 0x24 [b]) [] (s.endsEpoch r x.fs.toNat 0) [] none
  | .ok (some (.mem pa)) => (s.writeGlobal r pa bs x.fs.toNat 0).finish r x []
  | .ok (some (.loc t off)) =>
    if bit ea 21 then s.postGang r x ea t off 16 [] none bs else
    match s.writeLocal r t off bs with
    | .fault s c => s.raise r c ea
    | .ok g => (g.s.localRelease r t off 16 0).land r x [] [] g.late ea
/-- BINIT (R249). -/
def execBinit (x : XForm) (s : State) : Host.Outcome State Fault Refusal := runLanes (.binit x) x (fun s r => s.binitLane x r) s

/-- BARR in one lane (R250). -/
def State.barrLane (s : State) (x : XForm) (r : LaneRef) : State :=
  if s.isHelper r then s.finish r x [] else
  match s.barPlace r x with
  | .error e => s.barFault r x e
  | .ok none =>
    s.sendFor r x (s.barEa r x) (.object 0x25 []) [] (s.endsEpoch r x.fs.toNat 2) (runWrites x.d.toNat 0 1) (some (x.d.toNat, 4))
  | .ok (some o) => s.barHere (.barr x) x r o 0 none
/-- BARR (R250). -/
def execBarr (x : XForm) (s : State) : Host.Outcome State Fault Refusal := runLanes (.barr x) x (fun s r => s.barrLane x r) s

/-- Holds a lane while a request on a fabric-window object is out; the operation that awaits the reply sets no slot of its own. -/
def State.holdFabric (s : State) (r : LaneRef) (h : Hold) (kind : PacketKind) (release : Bool) : State :=
  if s.fabricBusy (fabricPeer h.ea) then s else
  let n := s.nextKey
  let s := s.send r.team (some (n + 1)) h.ea kind [] release
  let k := s.nextKey
  let o : Op := { lane := r, issue := h.issue, together := false, slot := none, writes := [], preds := [], wait := .fabric n, phase := 0,
                  fill := some (h.x.d.toNat, 4), mark := (s.lane r).issues,
                  info := { code := 0, detail := 0, len := 4, addr := h.ea, insn := h.insn, fpc := (s.lane r).pc.toNat }, late := none }
  ({ s with ops := Tab.set s.ops k o, nextKey := k + 1 } : State).hold r { h with pkt := n }
/-- A hold on a fabric-window object. -/
def State.fabricHold (s : State) (r : LaneRef) (x : XForm) (k : HoldKind) (t phase : Nat) : Hold :=
  { kind := k, x := x, insn := s.cur.insn, ea := s.barEa r x, pa := s.barEa r x, v1 := t, v2 := phase, deadline := none, order := s.nextKey,
    issue := s.cur.num }

/-- BWAIT in one lane (R251). -/
def State.bwaitLane (s : State) (x : XForm) (r : LaneRef) : State :=
  let t := s.regRun r x.b.toNat 1 % 2 ^ 16
  match s.barPlace r x with
  | .error e => s.barFault r x e
  | .ok none => s.holdFabric r (s.fabricHold r x .bwait t 0) (.object 0x26 [t]) false
  | .ok (some o) => s.barHere (.bwait x) x r o t (some .bwait)
/-- BWAIT (R251). -/
def execBwait (x : XForm) (s : State) : Host.Outcome State Fault Refusal := runLanes (.bwait x) x (fun s r => s.bwaitLane x r) s

/-- BARW in one lane (R252): the arrival, then the wait for the phase after it. -/
def State.barwLane (s : State) (x : XForm) (r : LaneRef) : State :=
  if s.isHelper r then s.finish r x [] else
  match s.barPlace r x with
  | .error e => s.barFault r x e
  | .ok none => s.holdFabric r (s.fabricHold r x .barw 0 (2 ^ 16)) (.object 0x25 []) (s.endsEpoch r x.fs.toNat 3)
  | .ok (some o) => s.barHere (.barw x) x r o 0 (some .barw)
/-- BARW (R252). -/
def execBarw (x : XForm) (s : State) : Host.Outcome State Fault Refusal := runLanes (.barw x) x (fun s r => s.barwLane x r) s

/-- BTESTP in one lane (R253). -/
def State.btestpLane (s : State) (x : XForm) (r : LaneRef) : State :=
  let t := s.regRun r x.b.toNat 1
  match s.barPlace r x with
  | .error e => s.barFault r x e
  | .ok none => s.sendFor r x (s.barEa r x) (.object 0x28 [t]) [] false [] (some (256 + x.d.toNat, 0))
  | .ok (some o) => s.barHere (.btestp x) x r o t none
/-- BTESTP (R253). -/
def execBtestp (x : XForm) (s : State) : Host.Outcome State Fault Refusal := runLanes (.btestp x) x (fun s r => s.btestpLane x r) s

/-- BDROP in one lane (R254). -/
def State.bdropLane (s : State) (x : XForm) (r : LaneRef) : State :=
  if s.isHelper r then s.finish r x [] else
  let count := s.regRun r x.b.toNat 1
  match s.barPlace r x with
  | .error e => s.barFault r x e
  | .ok none => s.sendFor r x (s.barEa r x) (.object 0x29 [count]) [] (s.endsEpoch r x.fs.toNat 2) [] none
  | .ok (some o) => s.barHere (.bdrop x) x r o count none
/-- BDROP (R254). -/
def execBdrop (x : XForm) (s : State) : Host.Outcome State Fault Refusal := runLanes (.bdrop x) x (fun s r => s.bdropLane x r) s

/-- TBAR in one lane (R256): it arrives and waits; its slot falls once the arrival is applied (R171). -/
def State.tbarLane (s : State) (x : XForm) (r : LaneRef) : State :=
  if s.isHelper r then s.finish r x [] else
  let id := x.c.toNat
  let s := s.returnHome r
  let s := s.postStay (s.newOp r x [] []) x
  let s := s.modTeam r.team (fun t => { t with tbar := Tab.set t.tbar (32 * id + r.g) (t.tbarSet id r.g ||| laneBit r.l) })
  s.modLane r (fun y => { y with cond := .tbar id })
/-- TBAR (R256). -/
def execTbar (x : XForm) (s : State) : Host.Outcome State Fault Refusal :=
  runX (.tbar x) x (fun s rs =>
    let s := rs.foldl (fun s r => s.tbarLane x r) s
    (distinct (rs.map (fun r => (r.team, r.g)))).foldl (fun s g => s.settle g.1 g.2) s) s

end Sys2Proof.Machine
end

