-- ==== Sys2Proof/Machine/Queue.lean ====
section
/-! DEFINITION. The queue instructions, commits, waiting lines and the host queue windows (R259 to R280). -/

namespace Sys2Proof.Machine

open Sys2Proof

/-! ### The block at its home -/

/-- Translates an address for a grid; for 0, Trara's own queues, the address is physical (R375). -/
def State.queuePlace (s : State) (g va acc : Nat) : Except (Nat × Bool) Nat :=
  if g = 0 then .ok va else
  match s.place g va acc with
  | .mem pa _ => if isHost pa then .error (6, false) else .ok pa
  | .bad c ue => .error (c, ue)
  | .fabric => .error (6, false)
/-- Writes a block. -/
def State.blockWrite (s : State) (pa n : Nat) : State := s.objWrite (.mem pa) 0 (leBytes 64 n)
/-- The block fails its check: it is BROKEN, and its waiters and uncommitted reservers fault (R264). -/
def State.corrupt (s : State) (pa : Nat) : State :=
  ((s.blockWrite pa (qBreak (s.blockRead pa).1)).breakWaiters (fun w => w.localTo == 0 && w.pa == pa && (w.kind == .enq || w.kind == .deq))).loseCommits
    (fun c => c.ctl == pa)
/-- Lanes in a waiting line, first come first (R272). -/
def State.queueLine (s : State) (pa : Nat) (k : HoldKind) : List LaneRef :=
  (s.waiters.filter (fun e => e.2.localTo == 0 && e.2.pa == pa && e.2.kind == k)).map (fun e => e.2.lane)

/-- Stores an element's words to a slot through a lane's own path, or finds the first that cannot be translated (R261, R269). -/
def State.slotStore (s : State) (r : LaneRef) (g addr : Nat) (ws : List Nat) : State × Option (Nat × Bool × Nat) :=
  let pas := ws.zipIdx.map (fun e => (s.queuePlace g (addr + 4 * e.2) 1, addr + 4 * e.2, e.1))
  match pas.findSome? (fun e => match e.1 with | .error (c, ue) => some (c, ue, e.2.1) | .ok _ => none) with
  | some f => (s, some f)
  | none => (pas.foldl (fun s e => match e.1 with | .ok pa => s.writeGlobal r pa (leBytes 4 e.2.2) 0 0 | .error _ => s) s, none)
/-- Reads an element at a slot at the home for a thread of a core, word by word; uncorrectable sectors read as zeros (R278). -/
def State.slotRead (s : State) (core g addr n : Nat) : Except (Nat × Bool × Nat) (Nat × Bool × State) :=
  (List.range (n / 4)).foldl (fun (a : Except (Nat × Bool × Nat) (Nat × Bool × State)) i =>
    match a with
    | .error e => .error e
    | .ok (v, bad, s) =>
      match s.queuePlace g (addr + 4 * i) 1 with
      | .error (c, ue) => .error (c, ue, addr + 4 * i)
      | .ok pa => let h := s.homeReadBy core pa 4; .ok (v + leNat h.1 * 2 ^ (32 * i), bad || h.2.1, h.2.2)) (.ok (0, false, s))

/-! ### What a home answers to a lane -/

/-- The answer to a queue operation of a lane. -/
inductive QEnd where
  /-- The lane must wait in its line. -/
  | wait
  /-- An ENQ holds a reservation with this index and generation; its element is stored. -/
  | reserved (i gen : Nat)
  /-- A DEQ has taken an element; a fault found after the take (R278). -/
  | taken (ws : List (Nat × Word)) (late : Option Nat)
  /-- A failure: 0 FULL, 1 EMPTY, 3 CLOSED. -/
  | fail (code : Nat)
  /-- A fault, its address, and whether an entry read met uncorrectable data. -/
  | fault (code addr : Nat) (ue : Bool)
  deriving DecidableEq, Repr

/-- Whether a run of registers stays within its kind and the allocation (R269, R271). -/
def runFits (g : Grid) (d n : Nat) : Bool := if d < 128 then decide (d + n ≤ 128) && decide (d + n ≤ g.nreg) else decide (d + n ≤ 192)
/-- Status predicate of ENQ and DEQ (R266). -/
def queueStp (x : XForm) : Nat := x.md.toNat / 2
/-- The .NB form. -/
def queueNb (x : XForm) : Bool := bit x.md.toNat 0

/-- ENQ of a lane at the home (R269); `front` says that no lane of its line is ahead of it. -/
def State.enqTry (s : State) (r : LaneRef) (x : XForm) (pa : Nat) (front : Bool) : State × QEnd :=
  let b := s.blockRead pa
  if !qCheck (dieOfPa pa) b.1 then (b.2.corrupt pa, .fault 0x11 0 false) else
  let q := qDecode b.1
  let s := b.2
  let g := s.gridOf r.team
  let n := q.esize / 4
  if q.state = 1 then (s, .fail 3)
  else if x.b.toNat < 192 && !runFits g x.b.toNat n then (s, .fault 1 0 false)
  else if q.free = 0 ∨ q.resv = 256 ∨ !front then (s, if queueNb x then .fail 0 else .wait)
  else
    let v := q.reserve
    let s := s.blockWrite pa (qEncode v.2)
    let words := (List.range n).map (fun i => if x.b.toNat < 192 then (s.reg r (x.b.toNat + i)).toNat else 0)
    let st := s.slotStore r (s.team r.team).grid (q.slotAddr v.1) words
    match st.2 with
    -- the lane itself takes the translation fault (R278)
    | some (c, ue, a) => ((st.1.dropWaiters (fun w => w.lane == r)).corrupt pa, .fault c a ue)
    | none => (st.1, .reserved v.1 q.gen)
/-- DEQ of a lane at the home (R271). -/
def State.deqTry (s : State) (r : LaneRef) (x : XForm) (pa : Nat) (front : Bool) : State × QEnd :=
  let b := s.blockRead pa
  if !qCheck (dieOfPa pa) b.1 then (b.2.corrupt pa, .fault 0x11 0 false) else
  let q := qDecode b.1
  let s := b.2
  let g := s.gridOf r.team
  let n := q.esize / 4
  if q.visible = 0 ∨ !front then
    (s, if q.visible = 0 ∧ q.state = 1 ∧ q.resv = 0 then .fail 3 else if queueNb x then .fail 1 else .wait)
  else if x.d.toNat < 192 && !runFits g x.d.toNat n then (s, .fault 1 0 false)
  else
    match s.slotRead (s.team r.team).gcore (s.team r.team).grid (q.slotAddr q.head) q.esize with
    | .error (c, ue, a) => (s, .fault c a ue)
    | .ok (v, bad, s) =>
      let s := s.blockWrite pa (qEncode q.take)
      let m := s.metBad r 3 bad
      (m.1.objOrder r (.mem pa) x.fs.toNat 1, .taken (runWrites x.d.toNat v n) m.2)

/-- Predicate write of an outcome. -/
def queuePreds (x : XForm) (b : Bool) : List (Nat × Bool) := if queueStp x = 0 then [] else [(queueStp x, b)]
/-- Code of the fault of a failure with no status predicate (R269, R271): 2 is TIMEOUT. -/
def failFault (code : Nat) : Nat := if code = 3 then 0x14 else 0x13
/-- Register write of a failure: a DEQ's status code (R271). -/
def failWrites (deq : Bool) (x : XForm) (code : Nat) : List (Nat × Word) := if deq then runWrites x.d.toNat code 1 else []

/-- Posts the commit of a lane that holds a reservation (R262, R270). -/
def State.postCommit (s : State) (r : LaneRef) (pa i gen k : Nat) : State :=
  let c : Commit := { lane := r, ctl := pa, index := i, gen := gen, sig := s.releaseSig r, op := k, bad := false }
  ({ s with commits := Tab.set s.commits s.nextKey c, nextKey := s.nextKey + 1 } : State).noteWrite r (lineOf pa)

/-- The lanes that one take or one failure answers go on; a write to an s-register lands for all of them at once (R75, R267). -/
def State.releaseMates (s : State) (ms : List LaneRef) (r : LaneRef) (ws : List (Nat × Word)) (ps : List (Nat × Bool)) : State :=
  ms.foldl (fun s q =>
    if (sWrites ws).isEmpty then s.release q (if q = r then ws else []) ps
    else match (s.lane q).cond with
      | .held h => s.releaseOp q { s.heldOp q h (if q = r then ws else []) ps with together := true }
      | _ => s) s
/-- The answer for a lane that waits in a line: it goes on, or faults (R272). -/
def State.answerHeld (s : State) (r : LaneRef) (deq : Bool) (pa : Nat) (e : QEnd) : State :=
  match (s.lane r).cond with
  | .held h =>
    let ms := s.mates r h.order
    let fail (s : State) (code : Nat) : State :=
      if queueStp h.x = 0 then ms.foldl (fun s q => s.faultHeld q (failFault code)) s
      else s.releaseMates ms r (failWrites deq h.x code) (queuePreds h.x false)
    (match e with
     | .wait => s
     | .fail code => fail (s.dropWaiters (fun w => w.lane == r)) code
     | .fault c a ue => ms.foldl (fun s q => s.faultHeld q c a) ((s.dropWaiters (fun w => w.lane == r)).countUe ue)
     | .taken ws late =>
       let s := s.dropWaiters (fun w => w.lane == r)
       (match late with
        | some c => ms.foldl (fun s q => s.faultHeld q c) s
        | none => s.releaseMates ms r ws (queuePreds h.x true))
     | .reserved i gen =>
       let s := s.dropWaiters (fun w => w.lane == r)
       let k := s.nextKey
       let o := s.heldOp r h [] (queuePreds h.x true)
       (s.releaseOp r { o with wait := .commit k, info := { o.info with addr := h.ea } }).postCommit r pa i gen k)
  | _ => s

/-- Serves the heads of both waiting lines while they can be served (R272). -/
def State.pumpQueue (s : State) (pa : Nat) : Nat → State
  | 0 => s
  | n + 1 =>
    let tryLine (s : State) (k : HoldKind) (deq : Bool) : Option State :=
      match s.queueLine pa k with
      | [] => none
      | r :: _ =>
        match (s.lane r).cond with
        | .held h =>
          let v := if deq then s.deqTry r h.x pa true else s.enqTry r h.x pa true
          (match v.2 with
           | .wait => none
           | e => some (v.1.answerHeld r deq pa e))
        | _ => some (s.dropWaiters (fun w => w.lane == r))
    match tryLine s .deq true with
    | some s' => State.pumpQueue s' pa n
    | none => match tryLine s .enq false with
      | some s' => State.pumpQueue s' pa n
      | none => s
/-- Serves every waiter that can be served. -/
def State.pump (s : State) (pa : Nat) : State :=
  s.pumpQueue pa ((s.queueLine pa .enq).length + (s.queueLine pa .deq).length)

/-- Waiter records of a home slice (R272). -/
def sliceRecords : Nat := 4096
/-- Whether the home slice of a block has a waiter record left (R272). -/
def State.recordLeft (s : State) (pa : Nat) : Bool :=
  decide (s.waiters.length < sliceRecords) ||
    decide ((s.waiters.filter (fun e => (e.2.kind == .enq || e.2.kind == .deq) && e.2.localTo == 0 && dieOfPa e.2.pa == dieOfPa pa &&
      Config.homeSlice (bits e.2.pa 37 8) == Config.homeSlice (bits pa 37 8))).length < sliceRecords)
/-- A lane joins a line of a block. Where the slice holds no further record it stays held at its core and is sent again (R272). -/
def State.joinLine (s : State) (r : LaneRef) (k : HoldKind) (pa : Nat) : State :=
  if s.recordLeft pa then s.addWaiter { lane := r, kind := k, pa := pa, localTo := 0 } else s
/-- A lane held at its core sends its request again (R272): it is served, joins its line, or leaves it where its timeout has passed. A slot it has freed goes to the head of the other line. -/
def State.resend (s : State) (r : LaneRef) : State :=
  match (s.lane r).cond with
  | .held h =>
    if !(h.kind == .enq || h.kind == .deq) || (s.mates r h.order).getLast? != some r || s.waiters.any (fun e => e.2.lane == r) then s else
    let deq := h.kind == .deq
    let front := (s.queueLine h.pa h.kind).isEmpty
    let v := if deq then s.deqTry r h.x h.pa front else s.enqTry r h.x h.pa front
    (match v.2 with
     | .wait => if h.deadline.any (fun d => decide (d ≤ s.cycle)) then s.answerHeld r deq h.pa (.fail 2) else s.joinLine r h.kind h.pa
     | e => (v.1.answerHeld r deq h.pa e).pump h.pa)
  | _ => s
/-- The answer for lanes that have not been held: `rs` share the issue, the last of them performs it (R267). -/
def State.answerNow (s : State) (rs : List LaneRef) (x : XForm) (deq : Bool) (ea pa : Nat) (e : QEnd) : State :=
  match rs.getLast? with
  | none => s
  | some r =>
    let tmo := s.regRun r x.c.toNat 1
    let done (ws : List (Nat × Word)) (b : Bool) : State :=
      if deq && x.d.toNat < 192 && 128 ≤ x.d.toNat then s.finishIssue rs x ws (queuePreds x b)
      else rs.foldl (fun s q => s.finish q x ws (queuePreds x b)) s
    match e with
    | .wait =>
      let n := s.nextKey
      let m := s.cur.num
      let s := rs.foldl (fun s q => s.hold q { kind := if deq then .deq else .enq, x := x, insn := s.cur.insn, ea := ea, pa := pa, v1 := 0, v2 := 0,
                                               deadline := if tmo = 0 then none else some (s.cycle + tmo), order := n, issue := m })
                 { s with nextKey := n + 1 }
      s.joinLine r (if deq then .deq else .enq) pa
    | .fail code =>
      if queueStp x = 0 then rs.foldl (fun s q => s.finishLate q x (if deq then runWrites x.d.toNat 0 1 else []) (failFault code)) s
      else done (failWrites deq x code) false
    | .fault c a ue => rs.foldl (fun s q => s.finishLate q x (if deq then runWrites x.d.toNat 0 1 else []) c a (queuePreds x true)) (s.countUe ue)
    | .taken ws late =>
      (match late with
       | some c => rs.foldl (fun s q => s.finishLate q x ws c 0 (queuePreds x true)) s
       | none => done ws true)
    | .reserved i gen =>
      let k := s.nextKey
      let p := s.post { s.newOp r x [] (queuePreds x true) with wait := .commit k, info := s.faultHere 0 0 ea } x
      p.2.postCommit r pa i gen p.1

/-- The control block a lane names, or the fault (R267). -/
def State.queueCtl (s : State) (r : LaneRef) (x : XForm) : Except (Nat × Bool) Nat :=
  let ea := s.reg64 r x.a.toNat
  if ea % 64 ≠ 0 then .error (4, false)
  else if bits ea 63 57 = 0 ∧ bit ea 56 then .error (0x12, false)
  else s.queuePlace (s.team r.team).grid ea 1
/-- DET_VIOLATION of ENQ and DEQ in a lane: a wide scope, the .NB form, or a timeout that is not 0 (R277). -/
def State.queueDet (s : State) (r : LaneRef) (x : XForm) : Bool :=
  (s.gridOf r.team).det && (decide (4 ≤ x.fs.toNat) || queueNb x || s.regRun r x.c.toNat 1 != 0)

/-- QINIT in one lane (R268). -/
def State.qinitLane (s : State) (x : XForm) (r : LaneRef) : State :=
  if s.isHelper r then s.finish r x [] else
  let ea := s.reg64 r x.a.toNat
  match s.queueCtl r x with
  | .error (c, ue) => (s.countUe ue).raise r c ea
  | .ok pa =>
    let base := s.regRun r x.b.toNat 2
    let cap := s.regRun r (x.b.toNat + 2) 1
    let esize := s.regRun r (x.b.toNat + 3) 1
    if qParamBad ea base cap esize then s.raise r 0x12 else
    let b := s.blockRead pa
    let ws := b.2.queueLine pa .enq ++ b.2.queueLine pa .deq
    let gen := (bits b.1 239 224 + 1) % 2 ^ 16
    let s := b.2.dropWaiters (fun w => ws.contains w.lane && w.pa == pa)
    let s := ws.foldl (fun s q => match (s.lane q).cond with
      | .held h => (s.mates q h.order).foldl (fun s m => s.faultHeld m 0x11) s
      | _ => s) s
    let s := s.blockWrite pa (qEncode (qMake base cap esize (dieOfPa pa) gen))
    ((s.emptyField pa 64).noteWrite r (lineOf pa)).finish r x []
/-- QINIT (R268). -/
def execQinit (x : XForm) (s : State) : Host.Outcome State Fault Refusal := runLanes (.qinit x) x (fun s r => s.qinitLane x r) s

/-- ENQ in one lane (R269). -/
def State.enqLane (s : State) (x : XForm) (r : LaneRef) : State :=
  if s.isHelper r then s.finish r x []
  else if s.queueDet r x then s.raise r 0x19 else
  let ea := s.reg64 r x.a.toNat
  match s.queueCtl r x with
  | .error (c, ue) => (s.countUe ue).raise r c ea
  | .ok pa =>
    let v := s.enqTry r x pa (s.queueLine pa .enq).isEmpty
    v.1.answerNow [r] x false ea pa v.2
/-- ENQ (R269, R277). Every register of the element is read (R20). -/
def execEnq (x : XForm) (s : State) : Host.Outcome State Fault Refusal :=
  .next (execute x.p x.pn (staticFault (.enq x)) (fun s r => s.badReads r (s.uses r (.enq x)).reads)
    (fun s rs => rs.foldl (fun s r => s.enqLane x r) s) s)

/-- DEQ of a set of lanes that one take serves. -/
def State.deqLanes (s : State) (x : XForm) (rs : List LaneRef) : State :=
  match rs.getLast? with
  | none => s
  | some r =>
    let ea := s.reg64 r x.a.toNat
    match s.queueCtl r x with
    | .error (c, ue) => (s.countUe ue).raiseAll rs c ea
    | .ok pa =>
      let v := s.deqTry r x pa (s.queueLine pa .deq).isEmpty
      (v.1.answerNow rs x true ea pa v.2).pump pa
/-- DEQ (R271, R277): one take for each lane, or a single one into an s-register (R267). -/
def execDeq (x : XForm) (s : State) : Host.Outcome State Fault Refusal :=
  runX (.deq x) x (fun s rs =>
    let hs := rs.filter (fun r => s.isHelper r)
    let ws := s.workers rs
    let once := decide (128 ≤ x.d.toNat) && decide (x.d.toNat < 192)
    let s := if once then s.finishTogether hs x [] [] else hs.foldl (fun s r => s.finish r x []) s
    let bad := ws.filter (fun r => s.queueDet r x)
    let ok := ws.filter (fun r => !s.queueDet r x)
    let s := s.raiseAll bad 0x19
    if once then s.deqLanes x ok
    else ok.foldl (fun s r => s.deqLanes x [r]) s) s

/-- One field of a block (R273). -/
def State.queueField (s : State) (pa n f : Nat) : Nat :=
  let q := qDecode n
  match f with
  | 0 => q.head | 1 => q.tail | 2 => q.free | 3 => q.resv | 4 => q.cap | 5 => q.esize | 6 => q.state | 7 => q.gen | 8 => q.owner
  | 9 => q.base % 2 ^ 32 | 10 => q.base / 2 ^ 32 | 11 => q.visible
  | 12 => (s.queueLine pa .enq).length | 13 => (s.queueLine pa .deq).length
  | 14 => bits n 255 240
  | _ => if qCrcOk n then 1 else 0
/-- QSTAT in one lane (R273). -/
def State.qstatLane (s : State) (x : XForm) (r : LaneRef) : State :=
  if s.isHelper r then s.finish r x [] else
  match s.queueCtl r x with
  | .error (c, ue) => (s.countUe ue).raise r c (s.reg64 r x.a.toNat)
  | .ok pa =>
    let b := s.blockRead pa
    (b.2.dropL1At (s.team r.team).gcore pa 64).finish r x (runWrites x.d.toNat (b.2.queueField pa b.1 x.b.toNat) 1)
/-- QSTAT (R273). -/
def execQstat (x : XForm) (s : State) : Host.Outcome State Fault Refusal := runLanes (.qstat x) x (fun s r => s.qstatLane x r) s

/-- QCLOSE in one lane (R274). -/
def State.qcloseLane (s : State) (x : XForm) (r : LaneRef) : State :=
  if s.isHelper r then s.finish r x [] else
  match s.queueCtl r x with
  | .error (c, ue) => (s.countUe ue).raise r c (s.reg64 r x.a.toNat)
  | .ok pa =>
    let b := s.blockRead pa
    if !qCheck (dieOfPa pa) b.1 then (b.2.corrupt pa).finishLate r x [] 0x11 else
    let s := b.2.blockWrite pa (qEncode { qDecode b.1 with state := 1 })
    ((s.objOrder r (.mem pa) x.fs.toNat 2).finish r x []).pump pa
/-- QCLOSE (R274). -/
def execQclose (x : XForm) (s : State) : Host.Outcome State Fault Refusal := runLanes (.qclose x) x (fun s r => s.qcloseLane x r) s

/-- COMMIT: a commit reaches the home (R270); one of an earlier generation is refused (R268). -/
def execCommit (n : Nat) (s : State) : Host.Outcome State Fault Refusal :=
  .next (match Tab.find s.commits n with
    | none => s
    | some c =>
      -- a home that a migration has cut over answers RETRY (R411)
      if s.migrations.any (fun e => e.2.covers c.ctl) then s else
      let b := s.blockRead c.ctl
      let q := qDecode b.1
      if !qCheck (dieOfPa c.ctl) b.1 then b.2.corrupt c.ctl
      else if q.gen ≠ c.gen then b.2.loseCommits (fun d => d == c)
      else
        let s := ({ b.2 with commits := Tab.erase b.2.commits n } : State).blockWrite c.ctl (qEncode (q.commit c.index))
        let s := s.orField c.ctl c.sig
        let s := match Tab.find s.ops c.op with
          | some o => { s with ops := Tab.set s.ops c.op { o with wait := .ready } }
          | none => s
        s.pump c.ctl)

/-- TIMEOUT: a waiter leaves its line (R272). -/
def execTimeout (r : LaneRef) (s : State) : Host.Outcome State Fault Refusal :=
  .next (match (s.lane r).cond with
    | .held h =>
      (match h.deadline with
       | some d =>
         if (h.kind == .enq || h.kind == .deq) && decide (d ≤ s.cycle) && (s.waiters.any (fun e => e.2.lane == r))
         then s.answerHeld r (h.kind == .deq) h.pa (.fail 2) else s
       | none => s)
    | _ => s)

/-- One ENQ of bytes with no lane, at system scope (R279); the flag says that it was made. -/
def State.hostEnq (s : State) (g va : Nat) (bytes : List Byte) : State × Bool :=
  match s.queuePlace g va 1 with
  | .error e => (s.countUe e.2, false)
  | .ok pa =>
    let b := s.blockRead pa
    let q := qDecode b.1
    if !qCheck (dieOfPa pa) b.1 then (b.2.corrupt pa, false)
    else if q.state ≠ 0 ∨ q.free = 0 ∨ q.resv = 256 ∨ bytes.length ≠ q.esize ∨ !(s.queueLine pa .enq).isEmpty then (b.2, false)
    else
      let v := q.reserve
      let s := b.2.blockWrite pa (qEncode v.2)
      let words := (List.range (bytes.length / 4)).map (fun i => ((bytes.drop (4 * i)).take 4, q.slotAddr v.1 + 4 * i))
      let w := words.foldl (fun (a : State × Bool) e =>
        match a.1.queuePlace g e.2 1 with
        | .ok p => (a.1.homeWrite p e.1, a.2)
        | .error c => (a.1.countUe c.2, false)) (s, true)
      if !w.2 then (w.1.corrupt pa, false)
      else (((w.1.blockWrite pa (qEncode (v.2.commit v.1))).orField pa .all).pump pa, true)
/-- What a host read of a queue window returns (R279). -/
def windowRead (w : Window) (block off len : Nat) : Nat :=
  let q := qDecode block
  if len = 8 then (if off = 0x810 then w.ctl else if off = 0x800 then q.free + (q.gen * 2 ^ 16 + q.state) * 2 ^ 32 else if off = 0x808 then w.drops else 0)
  else if len ≠ 4 then 0
  else if off = 0x800 then q.free
  else if off = 0x804 then q.gen * 2 ^ 16 + q.state
  else if off = 0x808 then w.drops
  else if off = 0x810 then w.ctl % 2 ^ 32
  else if off = 0x814 then w.ctl / 2 ^ 32
  else 0
/-- A host read of a queue window (R279). -/
def State.windowLoad (s : State) (win off len : Nat) : State :=
  match Tab.find s.windows win with
  | none => s
  | some w =>
    let block := match s.queuePlace w.grid w.ctl 0 with
      | .ok pa => s.blockRead pa
      | .error e => (0, s.countUe e.2)
    { block.2 with outgoing := block.2.outgoing ++ [.aperture (leBytes len (windowRead w block.1 off len))] }
/-- QW_DATA: a host access to a queue window (R279). -/
def execQwData (win off : Nat) (access : WindowAccess) (s : State) : Host.Outcome State Fault Refusal :=
  .next (match Tab.find s.windows win, access with
    | none, _ => s
    | some _, .load len => s.windowLoad win off len
    | some w, .store bytes =>
      if 0x100 ≤ off then s else
      let v := if off = 0 then s.hostEnq w.grid w.ctl bytes else (s, false)
      if v.2 then v.1 else { v.1 with windows := Tab.set v.1.windows win { w with drops := (w.drops + 1) % 2 ^ 32 } })

end Sys2Proof.Machine
end

