-- ==== Sys2Proof/Machine/Stash.lean ====
section
/-! DEFINITION. Stash instructions (R184 to R186, R218 to R220). -/

namespace Sys2Proof.Machine

open Sys2Proof

/-- L and n of a stash instruction (R218), as the home group of the issue's last lane holds them. -/
def State.stashArgs (s : State) (r : LaneRef) (x : XForm) : Nat × Nat := ((s.reg r x.a.toNat).toNat, (s.reg r x.c.toNat).toNat)
/-- The fault of a range (R219): LOCAL_BOUNDS beyond the region, STASH_CONFLICT for any other violation. -/
def State.stashRange (s : State) (t l n : Nat) : Option Nat :=
  if s.regionSize t < bits l 18 0 + n then some 9
  else if l % 256 ≠ 0 ∨ n % 256 ≠ 0 ∨ bits l 31 19 ≠ 0 then some 0x0A
  else none
/-- Mappings on a core. -/
def State.coreMappings (s : State) (core : Nat) : Nat :=
  (s.teams.filter (fun e => e.2.gcore == core && e.2.resident)).foldl (fun n e => n + e.2.stash.length) 0
/-- An instruction that acts once per issue: its fault parks every active lane (R218). -/
def onceFault (s : State) (rs : List LaneRef) (c : Nat) : State := s.raiseAll rs c
/-- SMAP (R184, R219). -/
def execSmap (x : XForm) (s : State) : Host.Outcome State Fault Refusal :=
  runX (.smap x) x (fun s rs =>
    match rs.getLast? with
    | none => s
    | some r =>
      let t := r.team
      let (l, n) := s.stashArgs r x
      let g := s.reg64 r x.b.toNat
      let m := (s.team t).stash
      match (if n = 0 then some 0x0A else s.stashRange t l n) with
      | some c => onceFault s rs c
      | none =>
        if g % 256 ≠ 0 ∨ bit g 56 ∨ bit (g + n - 1) 56 ∨ 8 ≤ m.length ∨ 32 ≤ s.coreMappings (s.team t).gcore
            ∨ m.any (fun y => decide (y.laddr < l + n) && decide (l < y.laddr + y.len)) then onceFault s rs 0x0A
        else
          let s := s.modTeam t (fun y => { y with stash := y.stash ++ [{ laddr := l, gaddr := g, len := n, sectors := [] }],
                                                  localBad := y.localBad.filter (fun k => !(decide (l ≤ 64 * k) && decide (64 * k < l + n))) })
          s.finishIssue rs x []) s

/-- Writes back the DIRTY sectors of a mapping that lie in a local range, leaving them CLEAN; a translation fault of one leaves it as it is
and is reported (R185, R186). -/
def State.flushRange (s : State) (t m l n : Nat) : State × Option Nat :=
  match (s.team t).stash[m]? with
  | none => (s, none)
  | some mp =>
    mp.sectors.foldl (fun (a : State × Option Nat) e =>
      match e.2 with
      | .dirty pa =>
        let off := mp.laddr + 64 * e.1
        if off < l ∨ l + n ≤ off then a
        else (match a.1.place (a.1.team t).grid (mp.gaddr + 64 * e.1) 1 with
          | .mem p _ => if isHost p then (a.1, some 6) else (a.1.writeBack t m e.1 pa (.clean pa), a.2)
          | .bad c ue => (a.1.countUe ue, some c)
          | .fabric => (a.1, some 6))
      | _ => a) (s, none)
/-- Gives the INVALID sectors of a mapping the contents of their lines, which its range holds once it is unmapped (R185); whether a fill met
uncorrectable data (R186). -/
def State.fillRange (s : State) (t m : Nat) : State × Bool :=
  match (s.team t).stash[m]? with
  | none => (s, false)
  | some mp =>
    (List.range (mp.len / 64)).foldl (fun (a : State × Bool) k =>
      match Tab.getD mp.sectors k .invalid with
      | .invalid => (match a.1.stashRead t m k mp false with | .ok s d _ => (s, a.2 || d) | .fault s _ => (s, a.2) | .late s _ => (s, a.2))
      | _ => a) (s, false)
/-- SUNMAP (R219). -/
def execSunmap (x : XForm) (s : State) : Host.Outcome State Fault Refusal :=
  runX (.sunmap x) x (fun s rs =>
    match rs.getLast? with
    | none => s
    | some r =>
      let t := r.team
      let (l, n) := s.stashArgs r x
      match (s.team t).stash.findIdx? (fun y => y.laddr == l && y.len == n) with
      | none => onceFault s rs (if n ≠ 0 ∧ s.regionSize t < bits l 18 0 + n then 9 else 0x0A)
      | some m =>
        let f := s.flushRange t m l n
        match f.2 with
        | some c => onceFault f.1 rs c
        | none =>
          let g := f.1.fillRange t m
          let b := g.1.metBad r 3 g.2
          let s := b.1.modTeam t (fun y => { y with stash := y.stash.eraseIdx m })
          match b.2 with
          | some c => rs.foldl (fun s q => s.finishLate q x [] c) s
          | none => s.finishIssue rs x []) s
/-- Flushes every mapping of a team within a local range. -/
def State.flushAll (s : State) (t l n : Nat) : State × Option Nat :=
  (List.range (s.team t).stash.length).foldl (fun (a : State × Option Nat) m =>
    let b := a.1.flushRange t m l n
    (b.1, match a.2 with | some c => some c | none => b.2)) (s, none)
/-- SFLUSH; with a scope it then acts as a release fence (R219, R220), also where n = 0 writes nothing back (DESIGN CHOICE, log entry 84). -/
def execSflush (x : XForm) (s : State) : Host.Outcome State Fault Refusal :=
  runX (.sflush x) x (fun s rs =>
    match rs.getLast? with
    | none => s
    | some r =>
      let (l, n) := s.stashArgs r x
      match (if n = 0 then none else s.stashRange r.team l n) with
      | some c => onceFault s rs c
      | none =>
        let f := if n = 0 then (s, none) else s.flushAll r.team l n
        match f.2 with
        | some c => onceFault f.1 rs c
        | none =>
          let s := if x.fs = 0 then f.1 else rs.foldl (fun s r => s.fenceLane r 2 x.fs.toNat) f.1
          s.finishIssue rs x []) s
/-- Makes the sectors of a team's mappings within a local range INVALID (R185). -/
def State.invalidateRange (s : State) (t l n : Nat) : State :=
  s.modTeam t (fun y => { y with stash := y.stash.map (fun m =>
    { m with sectors := m.sectors.filter (fun e =>
        let off := m.laddr + 64 * e.1
        decide (off < l) || decide (l + n ≤ off)) }) })
/-- SINV (R219). -/
def execSinv (x : XForm) (s : State) : Host.Outcome State Fault Refusal :=
  runX (.sinv x) x (fun s rs =>
    match rs.getLast? with
    | none => s
    | some r =>
      let (l, n) := s.stashArgs r x
      match (if n = 0 then none else s.stashRange r.team l n) with
      | some c => onceFault s rs c
      | none => (s.invalidateRange r.team l n).finishIssue rs x []) s

end Sys2Proof.Machine
end

