-- ==== Sys2Proof/Machine/Launch.lean ====
section
/-! DEFINITION. Launch queues, launch records, acceptance and refusal, and the status area (R375 to R385). -/

namespace Sys2Proof.Machine

open Sys2Proof

/-! ### Parameters of Trara (R399, R426, R427), numbered by the model (log entry 11) -/

/-- A parameter's default value. -/
def paramDefault : Nat → Nat
  | 0 => 20 | 1 => 4096 | 2 => 1000 | 3 => 5000 | 4 => 2400 | 5 => 64 | _ => 0
/-- A parameter's limits. -/
def paramLimits : Nat → Option (Nat × Nat)
  | 0 => some (0, 10000) | 1 => some (0, 2 ^ 32 - 1) | 2 => some (10, 10 ^ 6) | 3 => some (100, 10 ^ 7) | 4 => some (600, 2400)
  | 5 => some (1, 1024) | _ => none
/-- A parameter. -/
def State.param (s : State) (n : Nat) : Nat := Tab.getD s.params n (paramDefault n)
/-- A span of some µs on the device time base, in ns (R5). -/
def usNs (n : Nat) : Nat := n * 1000
/-- LAUNCH_DROPS (R434). -/
def State.launchDrop (s : State) : State := s.count 4 0 0

/-! ### Requests (R375) -/

/-- LAUNCH_REQUEST: Trara takes a request from a die's launch queue with DEQ at system scope (R375). One that waits for a context holds
back later ones (R385). -/
def execLaunchRequest (die : Nat) (s : State) : Host.Outcome State Fault Refusal :=
  .next (match Tab.find s.launchCtl die with
    | none => s
    | some ctl =>
      if s.accepting.any (fun e => e.1 == die) then s else
      let b := s.blockRead ctl
      if !qCheck (dieOfPa ctl) b.1 then b.2.corrupt ctl else
      let q := qDecode b.1
      if q.visible = 0 then s else
      let h := b.2.homeRead (q.slotAddr q.head) 16
      let s := (h.2.2.blockWrite ctl (qEncode q.take)).pump ctl
      let rec_ := leNat (h.1.take 8)
      if h.2.1 || leNat (h.1.drop 8) != 0 || rec_ % 256 != 0 || bits rec_ 63 56 != 0 then s.launchDrop
      else { s with accepting := s.accepting ++ [(die, rec_)] })

/-! ### The record (R377 to R381) -/

/-- A field of the record. -/
def recField (b : List Byte) (off n : Nat) : Nat := leNat ((b.drop off).take n)
/-- The record's fields, as a grid that nothing has happened to. -/
def gridOfRecord (addr root : Nat) (b : List Byte) : Grid :=
  { Grid.zero with
    record := addr, root := root, entry := recField b 0 8, args := recField b 8 8, status := recField b 16 8, handler := recField b 24 8,
    qtabP := recField b 32 8, qtabN := recField b 40 4, flags := recField b 44 4, nteams := recField b 48 4, shape := recField b 52 4,
    regs := recField b 56 4, localSize := recField b 60 4,
    fmt := (List.range 8).map (fun i => (i, BitVec.ofNat 32 (recField b (64 + 4 * i) 4))),
    start := recField b 96 8, stagger := recField b 104 4, lcores := recField b 108 4, expect := recField b 112 8 }
/-- DIES of the FLAGS field (R378). -/
def Grid.diesField (g : Grid) : Nat := bits g.flags 11 8
/-- The dies a grid may run on (R378). -/
def Grid.dies (g : Grid) : List Nat := if g.diesField = 0 then [g.die] else (List.range 4).filter (fun k => bit g.diesField k)
/-- The response of a served request; the doorbell is cleared after it (R434). Status: 0 OK, 1 BAD_REQUEST, 2 BUSY, 3 EXHAUSTED. -/
def State.respond (s : State) (ws : List Nat) : State := { s with response := ws, doorbell := false }
/-- Whether word 0 of the submitted request names an operation that no request has (R434, R450, R475). -/
def State.unknownOp (s : State) : Bool := let op := Tab.getD s.request 0 0; op == 0 || decide (0x12 < op)
/-- The reason for which a record is refused, the lowest that applies (R381). -/
def refusal (g : Grid) (b : List Byte) (now : Nat) : Option Nat :=
  let k := bits g.regs 11 8
  let dies := g.dies.length
  let gang := bits g.shape 25 24
  if bits g.flags 31 12 ≠ 0 ∨ bits g.flags 7 6 ≠ 0 ∨ bits g.shape 31 27 ≠ 0 ∨ bits g.shape 23 21 ≠ 0 ∨ bits g.shape 15 11 ≠ 0
      ∨ bits g.regs 31 12 ≠ 0 ∨ leNat (b.drop 0x78) ≠ 0 then some 1
  else if 32 * g.ngroups < g.lanes ∨ g.lanes + 31 < 32 * g.ngroups then some 2
  else if g.nreg % 8 ≠ 0 ∨ g.nreg < 8 ∨ 128 < g.nreg ∨ g.localSize % 256 ≠ 0 ∨ 393216 < g.localSize ∨ k = 1 ∨ 11 ≤ k
      ∨ (k ≠ 0 ∧ g.localSize < 64 + 32 * 2 ^ k) then some 3
  else if bit g.entry 0 ∨ bits g.entry 63 57 ≠ 0 ∨ bit g.handler 0 then some 4
  else if 4094 < g.qtabN ∨ (0 < g.qtabN ∧ (g.qtabP % 128 ≠ 0 ∨ bits g.qtabP 63 56 ≠ 0)) then some 5
  else if g.det ∧ (g.lcores = 0 ∨ 208 * dies < g.lcores ∨ gang = 2 ∨ (1 ≤ gang ∧ g.lcores % 4 ≠ 0)) then some 6
  else if now + 2 ^ 36 < g.start ∨ 2 ^ 20 - 1 < g.stagger then some 7
  else if g.diesField ≠ 0 ∧ !bit g.diesField g.die then some 8
  else none

/-! ### The status area (R382 to R384) -/

/-- Writes at a place of the status area; a write that cannot be made is lost and counted (R375). -/
def State.statusAt (s : State) (p : Place) (bs : List Byte) : State :=
  match p with
  | .mem pa _ => if s.bad.contains (sectorOf pa) then s.launchDrop else (s.homeWrite pa bs).emptyField pa bs.length
  | .bad _ ue => s.launchDrop.countUe ue
  | .fabric => s.launchDrop
/-- Writes a field of a grid's status area. -/
def State.statusPut (s : State) (g off : Nat) (bs : List Byte) : State := s.statusAt (s.place g ((s.grid g).status + off) 1) bs
/-- Writes DONE at a place with a release at system scope (R384). -/
def State.donePut (s : State) (p : Place) (word : Nat) : State :=
  let s1 := s.statusAt p (leBytes 8 word)
  match p with
  | .mem pa _ => if s.bad.contains (sectorOf pa) then s1 else s1.putField pa 8 .all
  | .bad _ _ => s1
  | .fabric => s1
/-- Raises the completion interrupt of a grid that asks for one (R378, R384). -/
def State.raiseIrq (s : State) (flags g : Nat) : State := if bit flags 3 then { s with outgoing := s.outgoing ++ [.interrupt g] } else s

/-! ### Acceptance (R376, R385) -/

/-- How an address is reached under a table root, as Trara translates a record (R375, R403). -/
def State.rootPlace (s : State) (root va acc : Nat) : Place :=
  if bits va 63 57 ≠ 0 then .bad 5 false
  else if bit va 56 then .fabric
  else match walkFrom s false va 4 (root + 8 * levelIndex 4 va) with
    | .leaf e size => s.leafPlace e size va acc
    | .bad c ue => .bad c ue
/-- Grids with a context on a die. -/
def State.gridsOn (s : State) (die : Nat) : List (Nat × Grid) := s.grids.filter (fun e => e.2.dies.contains die)
/-- The lowest free context entry of a die (R385). -/
def State.freeEntry (s : State) (die : Nat) : Option Nat :=
  (List.range 64).find? (fun c => !((s.gridsOn die).any (fun e => Tab.find e.2.contexts die == some c)))
/-- A free context entry on every die a grid may use (R385). -/
def State.freeContexts (s : State) (g : Grid) : Option (Tab Nat) :=
  if g.dies.any (fun d => (s.freeEntry d).isNone) then none else some (g.dies.map (fun d => (d, (s.freeEntry d).getD 0)))
/-- A %gridid that is not zero and that no live grid has (R385). -/
def State.freeGridId (s : State) : Nat :=
  ((List.range (s.grids.length + 1)).map (fun i => (s.nextGrid + i - 1) % (2 ^ 32 - 1) + 1)).find? (fun n => (Tab.find s.grids n).isNone)
    |>.getD s.nextGrid
/-- Accepts a checked record. -/
def State.acceptGrid (s : State) (g : Grid) (contexts : Tab Nat) : State :=
  let n := s.freeGridId
  let t0 := if g.start = 0 ∨ g.start ≤ s.now / 100 then s.now / 100 else g.start
  let g := { g with contexts := contexts, t0 := t0, acceptedAt := s.nextKey, lastBind := s.ns, nextTeam := 0, liveTeams := g.teamCount }
  (({ s with grids := Tab.set s.grids n g, nextGrid := n % (2 ^ 32 - 1) + 1, nextKey := s.nextKey + 1 } : State)).statusPut n 8 (leBytes 8 s.ns)
/-- Refuses a checked record: T_END and then DONE are written, and nothing of the grid runs (R381, R382, R384). -/
def State.refuseGrid (s : State) (root : Nat) (g : Grid) (reason : Nat) : State :=
  ((s.statusAt (s.rootPlace root (g.status + 0x18) 1) (leBytes 8 s.ns)).donePut (s.rootPlace root g.status 1) (reason * 2 ^ 8 + 3)).raiseIrq g.flags 0
/-- GRID_ACCEPTANCE: Trara reads the record of the request at the head, drops or refuses it, or accepts it where a context is free
(R375, R376, R381, R385). -/
def execGridAcceptance (die : Nat) (s : State) : Host.Outcome State Fault Refusal :=
  .next (match s.accepting.find? (fun e => e.1 == die) with
    | none => s
    | some (_, addr) =>
      let root := Tab.getD s.roots die 0
      let taken : State := { s with accepting := s.accepting.filter (fun e => e.1 != die) }
      match s.rootPlace root addr 0 with
      | .bad _ ue => taken.launchDrop.countUe ue
      | .fabric => taken.launchDrop
      | .mem pa _ =>
        let h := taken.homeRead pa 256
        let s1 := h.2.2.countUe h.2.1
        let g : Grid := { gridOfRecord addr root h.1 with die := die }
        if h.2.1 || g.status == 0 || g.status % 128 != 0 then s1.launchDrop
        else match s1.rootPlace root g.status 1 with
          | .bad _ ue => s1.launchDrop.countUe ue
          | .fabric => s1.launchDrop
          | .mem _ _ =>
            match refusal g h.1 (s.now / 100) with
            | some reason => s1.refuseGrid root g reason
            | none => match s1.freeContexts g with
              | none => s
              | some c => s1.acceptGrid g c)

end Sys2Proof.Machine
end

