-- ==== Sys2Proof/Machine/BringUp.lean ====
section
/-! DEFINITION. Bring-up, power and its pacing, and the host's aperture (R423 to R428, R433). -/

namespace Sys2Proof.Machine

open Sys2Proof

/-- A failed step halts the sequence (R423). -/
def State.bootStop (s : State) (die : Nat) : State := { s with boot := .failed, bootFail := some (die % 4), ready := false }
/-- POWER_UP: the rails ramp, each in tolerance before the next begins (R423). -/
def execPowerUp (rails : List Bool) (s : State) : Host.Outcome State Fault Refusal :=
  .next (if s.boot ≠ .off then s else if (List.range 5).all (fun k => rails[k]?.getD false) then { s with boot := .rails } else s.bootStop 0)
/-- PERST_DEASSERT: the reference clock is stable and the PLLs lock (R423, R424). -/
def execPerstDeassert (locked : Bool) (s : State) : Host.Outcome State Fault Refusal :=
  .next (if s.boot ≠ .rails then s else if locked then { s with boot := .clocks } else s.bootStop 0)
/-- Whether an image passes verification (R428). -/
def imageOk (fuse : List Byte) (minVersion : BitVec 32) (i : BootImage) : Bool :=
  Config.lmsVerify i.image i.signature i.key && decide (Config.sha256 i.key = fuse) && decide (minVersion ≤ i.version)
/-- BOOT_VERIFY: the boot ROM of each of the four dies verifies the Trara image and the microcode; the images stand in the order of the dies,
those of a die together (R423, R428). The digests that ATTEST reports are those of the boot ROM, the Trara image, the microcode and the fuse
configuration (R429). -/
def execBootVerify (imgs : List BootImage) (s : State) : Host.Outcome State Fault Refusal :=
  .next (if s.boot ≠ .clocks then s else
    match (List.range 8).find? (fun k => !(imgs[k]?.any (imageOk s.fuseDigest s.fuseVersion))) with
    | some k => s.bootStop (k / 2)
    | none =>
      { s with boot := .verified,
               bootDigests := ([Config.bootRom] ++ (imgs.take 2).map (fun i => i.image) ++ [Config.fuseImage s.fuseDigest s.fuseVersion.toNat]).map Config.sha256 })
/-- MEMORY_INIT: DRAM and the welt links are trained, and every memory is written with zeros and valid check bits (R423). -/
def execMemoryInit (trained : List Bool) (s : State) : Host.Outcome State Fault Refusal :=
  .next (if s.boot ≠ .verified then s else
    match (List.range 4).find? (fun k => !(trained[k]?.getD false)) with
    | some k => s.bootStop k
    | none => { s with boot := .initialised, mem := s.mem.filter (fun c => isHost c.1), bad := [], l1 := [], upd := [], icache := [], lasts := [] })
/-- Address of the control block of a die's launch queue, and of its 256 elements of 16 bytes: the model's choice (log entry 13). -/
def launchBlock (die : Nat) : Nat := die * 2 ^ 38 + 48 * 2 ^ 30 - 8192
/-- Creates the launch queue of a die (R375). -/
def State.createQueue (s : State) (die : Nat) : State :=
  let a := launchBlock die
  let q := qMake (a + 4096) 256 16 die 0
  let s := s.poke a (leBytes 64 (qEncode q))
  { s with launchCtl := Tab.set s.launchCtl die a, windows := Tab.set s.windows die { grid := 0, ctl := a, drops := 0 } }
/-- READY: the time base and fabric training start, the launch queues are created, the queue windows are mapped and READY is set (R423). Signing
goes on from the first index of the next unused block of 64 (R429). A doorbell rung before is looked at now (R434). -/
def execReady (s : State) : Host.Outcome State Fault Refusal :=
  .next (if s.boot ≠ .initialised then s else
    let s := (List.range 4).foldl State.createQueue s
    let s := { s with boot := .ready, ready := true, attestLeaf := (s.attestLeaf + 63) / 64 * 64 }
    if s.doorbell && s.unknownOp then s.respond [1] else s)
/-- Tolerance of a rail, in mV: VCORE, VSRAM, VDDQ, VIO and VAUX (R425). -/
def railBand : Nat → Nat × Nat
  | 0 => (728, 772) | 1 => (825, 875) | 2 => (1067, 1133) | 3 => (1140, 1260) | _ => (1710, 1890)
/-- Every die is reset and nothing survives (R423); the fuses do, and host memory is not the device's. Who moves next is no state of the device. -/
def State.losePower (s : State) : State :=
  { State.reset with mem := s.mem.filter (fun c => isHost c.1), fuseDigest := s.fuseDigest, fuseVersion := s.fuseVersion, identity := s.identity,
                     attestLeaf := s.attestLeaf, turns := s.turns }
/-- RAIL_OUT_OF_TOLERANCE: every die is reset (R423). -/
def execRailOutOfTolerance (_die rail mv : Nat) (s : State) : Host.Outcome State Fault Refusal :=
  .next (if (railBand rail).1 ≤ mv ∧ mv ≤ (railBand rail).2 then s else s.losePower)
/-- The samples of the last 1 ms with a new one in front; Trara takes one every 100 µs (R426). -/
def powerWindow (log : List (Nat × Nat)) (ns mw : Nat) : List (Nat × Nat) := (ns, mw) :: log.filter (fun e => decide (ns < e.1 + 1000000))
/-- POWER_SAMPLE: every 100 µs; issue is withheld while the mean over the last 1 ms exceeds PLIMIT, until it falls below (R426). -/
def execPowerSample (mw : Nat) (s : State) : Host.Outcome State Fault Refusal :=
  .next (if s.powerLog.any (fun e => decide (s.ns < e.1 + 100000)) then s else
    let log := powerWindow s.powerLog s.ns mw
    let sum := (log.map Prod.snd).sum
    let limit := s.param 4 * 1000 * log.length
    { s with powerLog := log, powerHold := if limit < sum then true else if sum < limit then false else s.powerHold })
/-- Maximum current of a rail per die, in mA (R425). -/
def railMax : Nat → Nat
  | 0 => 700000 | 1 => 120000 | 2 => 60000 | 3 => 20000 | _ => 5000
/-- RAIL_OVERCURRENT: the die withholds all issue for the next 1 µs (R426). -/
def execRailOvercurrent (die rail ma : Nat) (s : State) : Host.Outcome State Fault Refusal :=
  .next (if ma ≤ railMax rail then s else { s with withheld := Tab.set s.withheld die (s.ns + 1000) })
/-- WITHHOLD_END: the hold of 1 µs expires (R426). -/
def execWithholdEnd (die : Nat) (s : State) : Host.Outcome State Fault Refusal :=
  .next (if s.ns < Tab.getD s.withheld die 0 then s else { s with withheld := Tab.erase s.withheld die })
/-- APERTURE_ACCESS: a host access through BAR2 is performed at its L2 home at system scope (R433). -/
def execApertureAccess (off len : Nat) (store : Option (List Byte)) (s : State) : Host.Outcome State Fault Refusal :=
  .next (let pa := s.aperture + off
    if !s.ready || decide (2 ^ 36 < off + len) || isHost pa || !physValid pa || !physValid (pa + len - 1) then s else
    match store with
    | some bs => if bs.length = 0 then s else (s.homeWrite pa bs).putField pa bs.length .all
    | none => if len = 0 then s else
      let h := s.homeRead pa len
      let s := h.2.2.countUe h.2.1
      { s with outgoing := s.outgoing ++ [.aperture h.1] })

/-! ### BAR0 (R433) -/

/-- The STATUS word: READY, BOOT_FAIL and the failing die (R428, R433). -/
def State.bar0Status (s : State) : Nat := (if s.ready then 1 else 0) + (match s.bootFail with | some die => 2 + 16 * die | none => 0)
/-- A word of BAR0 outside the queue windows: STATUS, the mailbox's request and doorbell, and its response (R433, R434). After a failed step the
host sees STATUS alone (R423). -/
def State.bar0Word (s : State) (off : Nat) : Nat :=
  if off = 0 then s.bar0Status
  else if s.boot = .failed then 0
  else if 0x100000 ≤ off ∧ off < 0x100040 then Tab.getD s.request ((off - 0x100000) / 4) 0
  else if off = 0x100040 then (if s.doorbell then 1 else 0)
  else if 0x101000 ≤ off ∧ off < 0x102000 then (s.response[(off - 0x101000) / 4]?).getD 0
  else 0
/-- A host read of BAR0, of 4 or 8 aligned bytes: a queue window answers for itself (R279, R433). -/
def State.hostRead (s : State) (off len : Nat) : State :=
  if (len ≠ 4 ∧ len ≠ 8) ∨ off % len ≠ 0 ∨ 2 ^ 24 < off + len then s
  else if 0x10000 ≤ off ∧ off < 0x20000 ∧ (Tab.find s.windows ((off - 0x10000) / 4096)).isSome ∧ s.boot ≠ .failed then
    s.windowLoad ((off - 0x10000) / 4096) (off % 4096) len
  else { s with outgoing := s.outgoing ++ [.aperture ((List.range (len / 4)).flatMap (fun i => leBytes 4 (s.bar0Word (off + 4 * i))))] }

/-! ### Errors (R20, R430) -/

/-- An error strikes that cannot be corrected: bad data of a home, a region, an operand buffer or an L1 copy, or bad parity of a register. An L2
sector and its DRAM are one home, and the tile table has no bad data (log entry 81). -/
def State.upset (s : State) : Upset → State
  | .home pa => if physValid pa ∧ !isHost pa then { s with bad := insertNew (sectorOf pa) s.bad } else s
  | .region t k => s.modTeam t (fun x => { x with localBad := insertNew k x.localBad })
  | .buffer cl k => match Tab.find s.lasts cl with
    | some l => { s with lasts := Tab.set s.lasts cl { l with mbBad := insertNew k l.mbBad } }
    | none => s
  | .copy n => match Tab.find s.l1 n with
    | some c => { s with l1 := Tab.set s.l1 n { c with bad := true } }
    | none => s
  | .lane r n => s.modLane r (fun x => { x with badParity := insertNew n x.badParity })
  | .group r n => s.modGroup r (fun x => { x with badParity := insertNew n x.badParity })

end Sys2Proof.Machine
end

