-- ==== Sys2Proof/Machine/Heel.lean ====
section
/-! DEFINITION. The Heel table, HSTEP and HREAD (R472 to R479), and GETTIME (R392). -/

namespace Sys2Proof.Machine

open Sys2Proof

/-- The lanes held in a kind of blocking instruction, with their holds. -/
def State.heldIn (s : State) (k : HoldKind) : List (LaneRef × Hold) :=
  s.teams.flatMap (fun e => (s.teamLanes e.1).filterMap (fun r =>
    match (s.lane r).cond with
    | .held h => if h.kind = k then some (r, h) else none
    | _ => none))
/-- a is newer than b (R457). -/
def newer (a b : Nat) : Bool := let d := (a + (2 ^ 32 - b % 2 ^ 32)) % 2 ^ 32; decide (1 ≤ d) && decide (d < 2 ^ 31)

/-! ### The stall (R474) -/

/-- The signed distances from %step of the peers that are LIVE or LATE. -/
def State.heelDistances (s : State) : List Int :=
  match s.cohort with
  | none => []
  | some c => (c.entries.filter (fun e => e.1 != c.own && (e.2.state == 1 || e.2.state == 2))).map (fun e =>
      signedOf 32 (e.2.step + (2 ^ 32 - s.heelStep % 2 ^ 32)))
/-- Whether HSTEP to `t` stalls (R474). -/
def State.heelStalls (s : State) (t : Nat) : Bool :=
  match s.cohort, s.heelDistances.min? with
  | some c, some m => decide ((c.lead : Int) < signedOf 32 (t + (2 ^ 32 - s.heelStep % 2 ^ 32)) - m)
  | _, _ => false
/-- %step := t, unless %step is already newer (R478). -/
def State.stepTo (s : State) (t : Nat) : State := if newer t s.heelStep then { s with heelStep := t } else s
/-- Lets every held HSTEP go on whose stall has ended (R474, R478); it completes in all its lanes at once (R75). -/
def State.heelRelease (s : State) : State :=
  (s.heldIn .hstep).foldl (fun s e =>
    if s.heelStalls e.2.v1 then s
    else
      let s := s.stepTo e.2.v1
      s.releaseOp e.1 { s.heldOp e.1 e.2 (runWrites e.2.x.d.toNat s.heelStep 1) [] with together := true }) s
/-- HSTEP (R478), which acts once per issue and completes in every active lane at once, helper lanes among them (R75). -/
def execHstep (x : XForm) (s : State) : Host.Outcome State Fault Refusal :=
  runX (.hstep x) x (fun s rs =>
    let s := s.finishTogether (rs.filter (fun r => s.isHelper r)) x [] []
    match s.workers rs with
    | [] => s
    | r :: ws =>
      let t := if x.a = 255 then (s.heelStep + 1) % 2 ^ 32 else s.regRun r x.a.toNat 1
      let fin (s : State) : State := s.finishTogether (r :: ws) x (runWrites x.d.toNat s.heelStep 1) []
      if !newer t s.heelStep then fin s
      else if !s.heelStalls t then (fin (s.stepTo t)).heelRelease
      else
        let n := s.cur.num
        (r :: ws).foldl (fun s q => s.hold q { kind := .hstep, x := x, insn := s.cur.insn, ea := 0, pa := 0, v1 := t, v2 := 0, deadline := none,
                                               order := n, issue := n }) s) s

/-- An entry of the Heel table as 128 bits (R472, R479); zero for an index outside the cohort. -/
def State.heelEntry (s : State) (i : Nat) : Nat :=
  match s.cohort with
  | none => 0
  | some c =>
    if c.size ≤ i then 0
    else if i = c.own then i % 2 ^ 12 + 2 ^ 28 + 2 ^ 29 + s.heelStep % 2 ^ 32 * 2 ^ 32 + s.ns % 2 ^ 64 * 2 ^ 64
    else match Tab.find c.entries i with
      | none => 0
      | some e => i % 2 ^ 12 + e.state % 8 * 2 ^ 29 + e.step % 2 ^ 32 * 2 ^ 32 + e.heard % 2 ^ 64 * 2 ^ 64
/-- HREAD (R479). -/
def execHread (x : XForm) (s : State) : Host.Outcome State Fault Refusal :=
  runX (.hread x) x (fun s rs =>
    rs.foldl (fun s' r => s'.finish r x (runWrites x.d.toNat (s.heelEntry (s.regRun r x.a.toNat 1)) 4)) s) s

/-! ### Heartbeats (R473) -/

/-- The peer number of packets whose delivery Trara has configured, as it has that of heartbeats (R473). -/
def heartbeatPeer : Nat := 2048
/-- HEARTBEAT_SEND: every 10 µs a device with a cohort sends one, in class CONTROL (R446, R473). -/
def execHeartbeatSend (s : State) : Host.Outcome State Fault Refusal :=
  .next (match s.cohort with
    | none => s
    | some c =>
      if s.ns < s.lastHeartbeat + 10000 then s
      else
        (({ s with lastHeartbeat := s.ns } : State).emit (.heartbeat c.ident c.own s.heelStep s.ns)).sendClass heartbeatPeer 3 0 .write 0 [])
/-- HEARTBEAT: one arrives (R473). -/
def execHeartbeat (ident idx step : Nat) (s : State) : Host.Outcome State Fault Refusal :=
  .next (match s.cohort with
    | none => s.count 6 0 3
    | some c =>
      if ident ≠ c.ident ∨ c.size ≤ idx ∨ idx = c.own then s.count 6 0 3 else
      match Tab.find c.entries idx with
      | none => s.count 6 0 3
      | some e =>
        if e.state = 4 then s else
        let s := if e.state = 3 then s.count 6 0 1 else s
        let e : HeelEntry := { heard := s.ns, step := if newer step e.step then step else e.step, state := 1 }
        ({ s with cohort := some { c with entries := Tab.set c.entries idx e } } : State).heelRelease)
/-- A peer's entry changes its state where `p` holds of it. -/
def State.peerState (s : State) (i st : Nat) (p : Cohort → HeelEntry → Bool) : Option State :=
  match s.cohort with
  | none => none
  | some c =>
    match Tab.find c.entries i with
    | none => none
    | some e =>
      if i = c.own ∨ !p c e then none
      else some ({ s with cohort := some { c with entries := Tab.set c.entries i { e with state := st } } } : State).heelRelease
/-- PEER_LATE: a LIVE peer has been unheard for more than T_LATE (R473). -/
def execPeerLate (i : Nat) (s : State) : Host.Outcome State Fault Refusal :=
  .next ((s.peerState i 2 (fun c e => e.state == 1 && decide (e.heard + c.tLate * 1000 < s.ns))).getD s)
/-- PEER_SILENT: a peer has been unheard for more than T_SILENT (R473). -/
def execPeerSilent (i : Nat) (s : State) : Host.Outcome State Fault Refusal :=
  .next (match s.peerState i 3 (fun c e => (e.state == 1 || e.state == 2) && decide (e.heard + c.tSilent * 1000 < s.ns)) with
    | some s' => s'.count 6 0 0
    | none => s)

/-! ### GETTIME (R392) -/

/-- Samples the time for an issue of GETTIME whose last lane has been released: its operations are ready. -/
def State.sampleTime (s : State) (n : Nat) : State :=
  if (s.heldIn .gettime).any (fun e => e.2.issue == n) then s else
  { s with ops := s.ops.map (fun e =>
      if e.2.wait == .commit n then
        (e.1, { e.2 with wait := .ready, writes := match e.2.writes with | [] => [] | w :: _ => pairWrites w.1 s.ns })
      else e) }
/-- Whether a lane is released at once: no target, a target reached, or one more than 2^36 ns ahead (R392). -/
def State.timeReached (s : State) (x : XForm) (t : Nat) : Bool := x.a == 255 || decide (t ≤ s.ns) || decide (s.ns + 2 ^ 36 < t)
/-- A released lane goes on; its time is written once the issue's last lane is released. -/
def State.timeOp (s : State) (r : LaneRef) (x : XForm) (n : Nat) (ws : List (Nat × Word)) (insn fpc : Nat) : Op :=
  { lane := r, issue := n, together := !(sWrites ws).isEmpty, slot := slotOf x, writes := ws, preds := [], wait := .commit n, phase := 0, fill := none, mark := (s.lane r).issues,
    info := { code := 0, detail := 0, len := 4, addr := 0, insn := insn, fpc := fpc }, late := none }
/-- GETTIME (R392). -/
def execGettime (x : XForm) (s : State) : Host.Outcome State Fault Refusal :=
  runX (.gettime x) x (fun s rs =>
    if rs.isEmpty then s else
    -- an s destination: the instruction acts once, provided some active lane is not a helper (R390)
    if 128 ≤ x.d.toNat ∧ x.d.toNat < 192 ∧ (s.workers rs).isEmpty then rs.foldl (fun s r => s.finish r x []) s else
    let n := s.cur.num
    let s := rs.foldl (fun s r =>
      let t := s.reg64 r x.a.toNat
      if s.timeReached x t then (s.post (s.timeOp r x n (pairWrites x.d.toNat 0) s.cur.insn s.cur.pc.toNat) x).2
      else s.hold r { kind := .gettime, x := x, insn := s.cur.insn, ea := 0, pa := 0, v1 := t, v2 := 0, deadline := none, order := n, issue := n })
      s
    s.sampleTime n) s
/-- GETTIME_RELEASE: the time base reaches a held lane's target (R392). -/
def execGettimeRelease (r : LaneRef) (s : State) : Host.Outcome State Fault Refusal :=
  .next (match (s.lane r).cond with
    | .held h =>
      if h.kind ≠ .gettime ∨ !s.timeReached h.x h.v1 then s
      else
        let ws := pairWrites h.x.d.toNat 0
        let k := s.nextKey
        let o := s.timeOp r h.x h.issue ws h.insn (s.lane r).pc.toNat
        let s := { s with ops := Tab.set s.ops k o, nextKey := k + 1 }
        (s.modLane r (fun y => { y with cond := .running, pc := y.pc + 8, since := s.cycle + 1, released := none })).sampleTime h.issue
    | _ => s)

end Sys2Proof.Machine
end

