-- ==== Sys2Proof/Machine/CollectiveOps.lean ====
section
/-! DEFINITION. Collective groups, routes, the wire form, and the sums of reducers (R456 to R471). -/

namespace Sys2Proof.Machine

open Sys2Proof

/-! ### Group entries (R456) -/

/-- An entry at reset (R456). -/
def groupReset : Nat := 0x3F000000 * 2 ^ 96
/-- The entry of a group. -/
def State.groupEntry (s : State) (g : Nat) : Nat := Tab.getD s.groups g groupReset
/-- The fields of an entry. -/
def geDest (e : Nat) : Nat := bits e 255 192
def geCword (e : Nat) : Nat := bits e 191 128
def geLambda (e : Nat) : Nat := bits e 127 96
def geNelem (e : Nat) : Nat := 32 * (bits e 95 82 + 1)
def geFmt (e : Nat) : Nat := bits e 81 80
def geMean (e : Nat) : Bool := bit e 79
def geVp (e : Nat) : Bool := bit e 78
def geCohort (e : Nat) : Bool := bit e 77
def geV (e : Nat) : Bool := bit e 76
def geLmax (e : Nat) : Nat := bits e 75 72
/-- PARTK and K, where 0 stands for 4,096. -/
def gePartk (e : Nat) : Nat := let k := bits e 71 60; if k = 0 then 4096 else k
def geK (e : Nat) : Nat := let k := bits e 59 48; if k = 0 then 4096 else k
def geExpect (e : Nat) : Nat := bits e 47 35
def geT (e : Nat) : Nat := bits e 34 20
def geMcbase (e : Nat) : Nat := bits e 19 10
def geMcn (e : Nat) : Nat := bits e 9 0
/-- K_eff (R456). -/
def geKeff (e : Nat) : Nat := max 1 (min (geK e) (geExpect e))
/-- Bytes of an element of the source of a contribution, and of a result (R456, R465). -/
def geBytes (e : Nat) : Nat := if geFmt e = 1 then 2 else if geFmt e = 2 then 8 else 4
/-- Whether a group holds RES63 data. -/
def geRes (e : Nat) : Bool := geFmt e == 2
/-- λ lies in (0, 1] (R456). -/
def lambdaOk (w : Nat) : Bool := match decodeFloat 0 w with | .fin _ q => decide (0 < q) && decide (q ≤ 1) | _ => false
/-- Whether an entry breaks R456. -/
def groupBad (e : Nat) : Bool :=
  let n := geNelem e
  decide (524288 < n) || (geRes e && decide (262144 < n)) || (geRes e && geMean e) || !lambdaOk (geLambda e)
    || (!geVp e && geDest e % 256 != 0) || (geVp e && geDest e % 2 ^ 21 != 0) || (geVp e && decide (2 ^ 21 < n * geBytes e))
    || geCword e % 8 != 0 || decide (4096 < geExpect e) || decide (1024 < geMcbase e + geMcn e)
/-- The counter of the engine that serves a group (R457, R485). -/
def State.countCol (s : State) (g num : Nat) (n : Nat := 1) : State := s.count 5 (g % 16) num n

/-! ### Routes (R459, R460) -/

/-- The fields of a hop entry. -/
def hopAct (h : Nat) : Nat := bits h 31 29
def hopSw (h : Nat) : Bool := bit h 28
def hopPeer (h : Nat) : Nat := bits h 9 0
/-- A well-formed route of a valid descriptor (R459, R460, R470 for TIER 1). -/
def State.routeOk (s : State) (hs : List Nat) : Bool :=
  let es := hs.zipIdx
  let red (h : Nat) : Bool := hopAct h == 0
  let lastRed := (es.filter (fun e => red e.1)).getLast?.map Prod.snd
  let mcBefore (i : Nat) : Bool := decide (0 < i) && (match hs[i - 1]? with | some h => hopAct h == 3 | none => false)
  match lastRed with
  | none => false
  | some k =>
    es.all (fun e =>
      let h := e.1
      bits h 27 10 == 0 && decide (hopAct h ≤ 3) && (!hopSw h || red h) && !(e.2 == k && hopSw h)
        && ((hopPeer h == 0x3FF) == mcBefore e.2)
        && !((red h || hopAct h == 1) && (hs.take e.2).any (fun p => hopAct p == 3))
        && (hopPeer h == 0x3FF || bit (s.peerEntry (hopPeer h)) 63)
        && !(hopSw h && bit (s.peerEntry (hopPeer h)) 62))
/-- A switch hop over a link that is sealed end to end (R470). -/
def State.sealConflict (s : State) (hs : List Nat) : Bool := hs.any (fun h => hopSw h && !bit (s.peerEntry (hopPeer h)) 61)
/-- Whether the route reduces before its final reduction. -/
def routePartial (hs : List Nat) : Bool := decide (1 < (hs.filter (fun h => hopAct h == 0)).length)
/-- A logical peer whose entry names this device (R459). -/
def State.isLocalPeer (s : State) (p : Nat) : Bool := let e := s.peerEntry p; bit e 63 && !bit e 62 && bits e 73 64 == s.dev
/-- This device's source peer index (R462, R490). -/
def State.ownIndex (s : State) : Nat := match s.cohort with | some c => c.own | none => s.dev

/-! ### The wire form (R468) -/

/-- The bytes of a block: its scale and 32 E4M3 codes, or the escape byte and the FP32 codes. -/
def wireEncode (ws : List Nat) : List Byte :=
  let vs := ws.map (decodeFloat 0)
  let c := blockScale 3 vs
  let rs : List (Bool × ℚ) := vs.map (fun v => match v with | .fin n q => (n, roundUnbounded 3 0 0 (q / pow2 ((c : Int) - 127))) | _ => (false, 0))
  if c = 0xFF ∨ rs.any (fun r => decide (448 < |r.2|)) then 0xFF :: ws.flatMap (leBytes 4)
  else (c :: rs.map (fun r => encodeFloat 3 (.fin r.1 r.2))).map (BitVec.ofNat 8)
/-- The FP32 codes a decoder gives for a block, exactly (R43); the scale 0xFF means escape. -/
def wireDecode : List Byte → List Nat
  | [] => []
  | c :: es =>
    if c = 0xFF then (List.range (es.length / 4)).map (fun i => leNat ((es.drop (4 * i)).take 4))
    else es.map (fun b => encodeFloat 0 (match decodeFloat 3 b.toNat with | .fin n q => .fin n (q * pow2 ((c.toNat : Int) - 127)) | v => v))
/-- The blocks of 32 elements of some data. -/
def wireBlocks : Nat → List Nat → List (List Nat)
  | 0, _ => []
  | n + 1, ws => if ws.isEmpty then [] else ws.take 32 :: wireBlocks n (ws.drop 32)
/-- Data of a group as they travel: encoded and decoded where the group is WIRE, with its escapes counted (R468, R485). -/
def State.wire (s : State) (g : Nat) (ws : List Nat) : List Nat × State :=
  if geFmt (s.groupEntry g) ≠ 3 then (ws, s) else
  let bs := (wireBlocks ws.length ws).map wireEncode
  (bs.flatMap wireDecode, s.countCol g 8 (bs.filter (fun b => b.head? == some 0xFF)).length)

/-! ### Sums (R464, R465) -/

/-- FP32 codes. -/
def one32 : Nat := 0x3F800000
/-- w_d (R464). -/
def lateWeight (lambda : Nat) : Nat → Nat
  | 0 => one32
  | d + 1 => (fpMul 0 (lateWeight lambda d) lambda).1
/-- Adds weighted values to an accumulator (R465). -/
def accumulate (res : Bool) (w : Nat) (acc vs : List Nat) : List Nat :=
  if res then List.zipWith resAdd acc vs else List.zipWith (fun a v => (fpFma 0 w v a).1) acc vs
/-- W := round_to(W + w × S) (R465). -/
def addWeight (w wsum acc : Nat) : Nat := (fpFma 0 w wsum acc).1
/-- An element of a result (R465): mean, then BF16 where the group is BF16. -/
def resultElement (e w a : Nat) : Nat :=
  let y := if geMean e then (fpDiv 0 a w).1 else a
  if geFmt e = 1 then (deliver 2 (decodeFloat 0 y, false)).1 else y
/-- Data of an accumulator with no contribution. -/
def zeroAcc (e : Nat) : List Nat := List.replicate (geNelem e) 0

/-! ### Sending (R459, R461) -/

/-- Sends a contribution to the first hop of its list, for a team; 0 where it is passed on for another device. -/
def State.sendSum (s : State) (team : Nat) (c : Contribution) : State :=
  match c.hops with
  | [] => s
  | h :: _ =>
    let s := s.emit (.contribution (hopPeer h) c)
    if s.isLocalPeer (hopPeer h) then s else s.sendClass (hopPeer h) 1 team .write 0 []
/-- Sends a result to the first hop of its list. A WIRE result travels in the wire form, whether or not it leaves the device (R468). -/
def State.sendResult (s : State) (r : ResultPacket) : State :=
  match r.hops with
  | [] => s
  | h :: _ =>
    let w := s.wire r.group r.data
    let s := w.2.emit (.result (hopPeer h) { r with data := w.1 })
    if s.isLocalPeer (hopPeer h) then s else s.sendClass (hopPeer h) 1 0 .write 0 []
/-- Takes one packet that this device sent to itself off the list, where it is there. -/
def State.takeOut (s : State) (o : Outgoing) : State := { s with outgoing := s.outgoing.erase o }
/-- Takes a contribution or a result that this device sent to itself. -/
def State.takeSum (s : State) (c : Contribution) : State :=
  match c.hops with | h :: _ => if s.isLocalPeer (hopPeer h) then s.takeOut (.contribution (hopPeer h) c) else s | [] => s
def State.takeResult (s : State) (r : ResultPacket) : State :=
  match r.hops with | h :: _ => if s.isLocalPeer (hopPeer h) then s.takeOut (.result (hopPeer h) r) else s | [] => s

/-! ### Step states (R457, R462, R463) -/

/-- Key of a group's step. -/
def stepKey (g step : Nat) : Nat := g * 2 ^ 32 + step
/-- A step with nothing counted. -/
def StepState.zero (g step : Nat) (e : Nat) : StepState :=
  { group := g, step := step, det := false, non := 0, nlate := 0, acc := zeroAcc e, w := 0, seen := [], first := none, pending := [], hops := [] }
/-- State of a step. -/
def State.stepOf (s : State) (g step : Nat) : StepState := Tab.getD s.steps (stepKey g step) (StepState.zero g step (s.groupEntry g))
/-- Replaces a step's state. -/
def State.setStep (s : State) (x : StepState) : State := { s with steps := Tab.set s.steps (stepKey x.group x.step) x }
/-- CLOSED of a group (R457). -/
def State.closedOf (s : State) (g : Nat) : Nat := Tab.getD s.closed g 0
/-- Whether a source is WITHDRAWN here (R472). -/
def State.withdrawn (s : State) (src : Nat) : Bool :=
  match s.cohort with
  | some c => src != c.own && (match Tab.find c.entries src with | some e => e.state == 4 | none => false)
  | none => false
/-- Records that a direct contribution has been counted (R462). -/
def State.noteSource (s : State) (c : Contribution) : State :=
  if c.isPartial then s else
  let x := s.stepOf c.group c.step
  s.setStep { x with seen := insertNew c.src x.seen }
/-- Whether a step holds a contribution. -/
def StepState.holds (x : StepState) : Bool := x.first.isSome || decide (0 < x.nlate)
/-- Folds a contribution into an open step with a lateness (R464, R465). In a DET step it waits for the others (R471). -/
def State.foldStep (s : State) (x : StepState) (c : Contribution) (d : Nat) : State :=
  let e := s.groupEntry c.group
  let w := if geRes e then one32 else lateWeight (geLambda e) d
  let fresh := !x.holds
  let x := if fresh then { x with det := c.det } else x
  let x := if d = 0 then
      { x with non := x.non + c.n, first := some (x.first.getD s.ns), hops := if x.first.isNone then c.hops.tail else x.hops }
    else { x with nlate := x.nlate + c.n }
  let x := if x.det then { x with pending := x.pending ++ [c] }
    else { x with acc := accumulate (geRes e) w x.acc c.data, w := addWeight w c.wsum x.w }
  s.setStep x
/-- Orders contributions by source (R471). -/
def insertSource (c : Contribution) : List Contribution → List Contribution
  | [] => [c]
  | x :: xs => if c.src < x.src then c :: x :: xs else x :: insertSource c xs
/-- The sums of a step at its close; a DET step is combined now, in ascending source order (R471). -/
def closeSums (e : Nat) (x : StepState) : List Nat × Nat :=
  if !x.det then (x.acc, x.w) else
  (x.pending.foldr insertSource []).foldl (fun a c => (accumulate (geRes e) one32 a.1 c.data, addWeight one32 c.wsum a.2)) (x.acc, x.w)
/-- The completion word (R466). -/
def completionWord (step : Nat) (timer : Bool) (non nlate : Nat) : Nat :=
  step % 2 ^ 32 * 2 ^ 32 + 2 ^ 31 + (if timer then 2 ^ 30 else 0) + min nlate 8191 * 2 ^ 13 + min non 8191
/-- Closes the open steps that may close, in ascending order (R463). -/
def State.closeSteps (s : State) (g : Nat) : Nat → State
  | 0 => s
  | k + 1 =>
    let e := s.groupEntry g
    let step := (s.closedOf g + 1) % 2 ^ 32
    let x := s.stepOf g step
    match x.first with
    | none => s
    | some t =>
      let quorum := decide (geKeff e ≤ x.non)
      let timer := decide (geT e ≠ 0) && !x.det && decide (t + geT e * 1000 ≤ s.ns)
      if !(quorum || timer) then s
      else
        let sums := closeSums e x
        let data := sums.1.map (resultElement e sums.2)
        let word := completionWord step (!quorum) x.non x.nlate
        let s := s.countCol g (if quorum then 6 else 7)
        let s := { s with closed := Tab.set s.closed g step, steps := Tab.erase s.steps (stepKey g ((step + 2 ^ 31) % 2 ^ 32)) }
        let s := s.setStep { x with acc := [], pending := [], w := 0 }
        State.closeSteps (s.sendResult { group := g, step := step, word := word, data := data, hops := x.hops }) g k
/-- Judges a group's open steps again (R463, R475). -/
def State.judge (s : State) (g : Nat) : State := s.closeSteps g 17
/-- Classifies a contribution at the final reduction (R462, R471). -/
def State.classify (s : State) (c : Contribution) : State :=
  let e := s.groupEntry c.group
  let cl := s.closedOf c.group
  let drop (n : Nat) : State := s.countCol c.group n
  let d := (cl + 1 + (2 ^ 32 - c.step % 2 ^ 32)) % 2 ^ 32
  if newer c.step ((cl + 16) % 2 ^ 32) then drop 5
  else if s.withdrawn c.src then drop 4
  else if !c.isPartial && (s.stepOf c.group c.step).seen.contains c.src then drop 3
  else if newer c.step cl then
    let x := s.stepOf c.group c.step
    if x.holds && x.det != c.det then drop 3
    else (((s.foldStep x c 0).noteSource c).countCol c.group 0 c.n).judge c.group
  else if c.det then drop 2
  else if 1 ≤ d ∧ d ≤ geLmax e then
    let x := s.stepOf c.group ((cl + 1) % 2 ^ 32)
    if x.holds && x.det then drop 3
    else ((s.foldStep x c d).noteSource c).countCol c.group 1 c.n
  else drop 2

/-! ### Partial reductions (R469) -/

/-- A gathering with nothing in it. -/
def Partial_.zero (g step : Nat) (e : Nat) : Partial_ :=
  { group := g, step := step, n := 0, gathered := 0, wsum := 0, acc := zeroAcc e, seen := [], first := 0, hops := [], det := false, forwarded := false }
/-- Forwards what a partial reducer has gathered, marked partial (R469). -/
def State.forward (s : State) (k : Nat) : State :=
  match Tab.find s.partials k with
  | none => s
  | some x =>
    if x.forwarded || x.n == 0 then s else
    let s := { s with partials := Tab.set s.partials k { x with forwarded := true, acc := [] } }
    let w := s.wire x.group x.acc
    w.2.sendSum 0 { group := x.group, step := x.step, src := s.ownIndex, isPartial := true, n := x.n, wsum := x.wsum, data := w.1, det := x.det,
                    hops := x.hops }
/-- Forwards what a partial reducer has gathered once T µs have passed since its first arrival (R469). -/
def State.forwardDue (s : State) (k : Nat) : State :=
  match Tab.find s.partials k with
  | some x => let t := geT (s.groupEntry x.group); if t ≠ 0 ∧ x.first + t * 1000 ≤ s.ns then s.forward k else s
  | none => s
/-- A contribution at a partial reducer: gathered on the terms of R462, or passed on alone and unchanged once its step has been forwarded, by its
count or by its time (R469). -/
def State.gather (s : State) (c : Contribution) (rest : List Nat) : State :=
  let e := s.groupEntry c.group
  let k := stepKey c.group c.step
  let s := s.forwardDue k
  let x := Tab.getD s.partials k (Partial_.zero c.group c.step e)
  if s.withdrawn c.src then s.countCol c.group 4
  else if !c.isPartial && x.seen.contains c.src then s.countCol c.group 3
  else if x.forwarded || (decide (0 < x.n) && x.det != c.det) then
    (({ s with partials := Tab.set s.partials k { x with seen := if c.isPartial then x.seen else insertNew c.src x.seen } } : State).sendSum 0
      { c with hops := rest })
  else
    let x := { x with
      first := if x.n = 0 then s.ns else x.first, det := c.det, hops := if x.n = 0 then rest else x.hops, n := x.n + c.n,
      gathered := x.gathered + 1, wsum := addWeight one32 c.wsum x.wsum, acc := accumulate (geRes e) one32 x.acc c.data,
      seen := if c.isPartial then x.seen else insertNew c.src x.seen }
    let s := { s with partials := Tab.set s.partials k x }
    if gePartk e ≤ x.n then s.forward k else s

end Sys2Proof.Machine
end

