-- ==== Sys2Proof/Machine/Publish.lean ====
section
/-! DEFINITION. Deliveries of results, completion words, publications and flips of versioned pages (R413 to R418, R466, R467). -/

namespace Sys2Proof.Machine

open Sys2Proof

/-- The chunks of at most 64 bytes of a write, none of which crosses a sector: address and bytes. -/
def sectorChunks : Nat → Nat → List Byte → List (Nat × List Byte)
  | 0, _, _ => []
  | n + 1, a, bs =>
    if bs.isEmpty then [] else
    let k := 64 - a % 64
    (a, bs.take k) :: sectorChunks n (a + k) (bs.drop k)
/-- The physical places of an engine's write, or none where a sector cannot be written or holds uncorrectable data (R467). -/
def State.enginePlaces (s : State) (g va : Nat) (bs : List Byte) : Option (List (Nat × List Byte)) :=
  (sectorChunks (bs.length / 64 + 2) va bs).foldr (fun c acc =>
    match acc, s.place g c.1 1 with
    | some l, .mem pa _ => if s.bad.contains (sectorOf pa) then none else some ((pa, c.2) :: l)
    | _, _ => none) (some [])
/-- Counts an entry read that met uncorrectable data where an engine's write or read could not be placed (R406, R431). -/
def State.countWalk (s : State) (g va n : Nat) : State :=
  match (sectorsOf va n).findSome? (fun a => match s.place g a 1 with | .bad _ ue => some ue | .mem _ _ => none | .fabric => none) with
  | some ue => s.countUe ue
  | none => s
/-- The physical places of a write that comes from another device, or none where a sector's translation does not permit it (R439). -/
def State.storePlaces (s : State) (g va : Nat) (bs : List Byte) : Option (List (Nat × List Byte)) :=
  (sectorChunks (bs.length / 64 + 2) va bs).foldr (fun c acc =>
    match acc, s.place g c.1 1 with
    | some l, .mem pa _ => some ((pa, c.2) :: l)
    | _, _ => none) (some [])
/-- Writes at the homes, with every core's copies dropped (R371). -/
def State.engineWrites (s : State) (ws : List (Nat × List Byte)) : State :=
  ws.foldl (fun s w => (s.homeWrite w.1 w.2).dropAll (sectorOf w.1) 64) s
/-- Writes a completion word with the engine's signature (R367, R371, R467); a lost one is counted (R485). -/
def State.writeCword (s : State) (g va word : Nat) (sig : Sig) : State :=
  match s.enginePlaces s.fabricGrid va (leBytes 8 word) with
  | some ((pa, bs) :: _) => ((s.engineWrites [(pa, bs)]).putField pa 8 sig)
  | _ => (s.countCol g 10).countWalk s.fabricGrid va 8
/-- Bytes of a result in the output format (R33, R465). -/
def resultBytes (e : Nat) (data : List Nat) : List Byte := data.flatMap (leBytes (geBytes e))

/-! ### Publications (R417) -/

/-- Replaces a version entry. -/
def State.setVersion (s : State) (v : Nat) (x : Version) : State := { s with versions := Tab.set s.versions v x }
/-- Lines of a frame. -/
def frameLines (pa n : Nat) : List Nat := linesOf pa n
/-- Whether a result is not newer than what its page holds (R417). -/
def pubStale (x : Version) (k : Nat) : Bool := !newer k x.version || ((x.state == 1 || x.state == 2) && !newer k x.incoming)
/-- The oldest held result of a page that has yet to find a frame. -/
def State.nextPub (s : State) (v : Nat) : Option (Nat × Publication) :=
  (s.publications.filter (fun e => e.2.ver == v && !e.2.data.isEmpty)).foldl (fun a e =>
    match a with
    | none => some e
    | some b => if newer b.2.step e.2.step then some e else some b) none
/-- Brings held results of a page into its incoming frame while it is IDLE, and discards stale ones (R417). A word of the group's
engine goes with each; `Publication.word` carries the group in its bits above 63. -/
def State.pumpPage (s : State) (v : Nat) : Nat → State
  | 0 => s
  | n + 1 =>
    match Tab.find s.versions v, s.nextPub v with
    | some x, some (k, p) =>
      if pubStale x p.step then
        let s := ({ s with publications := Tab.erase s.publications k } : State).count 3 (v / 1024) 8
        State.pumpPage (s.writeCword (p.word / 2 ^ 64) p.cword (p.word % 2 ^ 64) (.lines [])) v n
      else if x.state ≠ 0 then s
      else
        let s := s.setVersion v { x with state := 2, incoming := p.step, deferred := false }
        let s := (s.poke (s.incoming v) p.data).deferFlip v
        { s with publications := Tab.set s.publications k { p with data := [] } }
    | _, _ => s
/-- Judges every held LDV again (R213). -/
def State.wakeLdv (s : State) : State := (s.heldIn .ldv).foldl (fun s e => s.ldvRetry e.1) s
/-- VERSION_FLIP: a FULL frame of an unpinned page becomes settled (R415, R417); the completion word follows the flip (R467). -/
def execVersionFlip (v : Nat) (s : State) : Host.Outcome State Fault Refusal :=
  .next (match Tab.find s.versions v with
    | none => s
    | some x =>
      if x.state ≠ 2 ∨ x.pins ≠ 0 then s else
      let die := v / 1024
      let s := ((s.dropAll (s.settled v) (2 ^ 21)).dropAll (s.incoming v) (2 ^ 21)).count 3 die 6
      let s := s.setVersion v { x with sel := !x.sel, version := x.incoming, state := 0 }
      let s := match s.publications.find? (fun e => e.2.ver == v && e.2.data.isEmpty) with
        | some (k, p) =>
          ({ s with publications := Tab.erase s.publications k } : State).writeCword (p.word / 2 ^ 64) p.cword (p.word % 2 ^ 64) .all
        | none => s
      (s.pumpPage v (s.publications.length + 1)).wakeLdv)
/-- VERSION_ENTRY_CREATE (R413). -/
def execVersionEntryCreate (v frame0 frame1 : Nat) (sel : Bool) (version : Nat) (s : State) : Host.Outcome State Fault Refusal :=
  .next (if 4096 ≤ v ∨ 24576 ≤ frame0 ∨ 24576 ≤ frame1 ∨ (Tab.find s.versions v).isSome then s
    else s.setVersion v { version := version % 2 ^ 32, incoming := 0, pins := 0, state := 0, sel := sel, frame0 := frame0, frame1 := frame1 })
/-- VERSION_ENTRY_DESTROY (R413): accesses to a page of an entry not in use fault (R406), held LDVs among them. -/
def execVersionEntryDestroy (v : Nat) (s : State) : Host.Outcome State Fault Refusal :=
  .next (({ s with versions := Tab.erase s.versions v,
                   publications := s.publications.filter (fun e => e.2.ver != v) } : State).wakeLdv)

/-! ### Deliveries (R467) -/

/-- Delivers a result on this device, under its own group entry. -/
def State.deliverResult (s : State) (r : ResultPacket) : State :=
  let e := s.groupEntry r.group
  let lost : State := s.countCol r.group 10
  let bs := resultBytes e r.data
  if !geV e then lost
  else if geVp e then
    match s.place s.fabricGrid (geDest e) 0 with
    | .mem _ (some v) =>
      if geDest e % 2 ^ 21 ≠ 0 ∨ s.bad.any (fun p => decide (s.incoming v ≤ p) && decide (p < s.incoming v + bs.length)) then lost else
      let p : Publication := { ver := v, step := r.step, data := bs, cword := geCword e, word := r.word % 2 ^ 64 + r.group * 2 ^ 64 }
      ({ s with publications := Tab.set s.publications s.nextKey p, nextKey := s.nextKey + 1 } : State).pumpPage v (s.publications.length + 2)
    | _ => lost.countWalk s.fabricGrid (geDest e) 1
  else
    match s.enginePlaces s.fabricGrid (geDest e) bs with
    | none => lost.countWalk s.fabricGrid (geDest e) bs.length
    | some ws => (s.engineWrites ws).writeCword r.group (geCword e) r.word (.lines (ws.map (fun w => lineOf w.1)))
/-- DLV: a result reaches a delivery hop (R461, R467). -/
def execDlv (r : ResultPacket) (s : State) : Host.Outcome State Fault Refusal :=
  .next (match r.hops with
    | h :: rest => if hopAct h = 2 then ((s.takeResult r).deliverResult r).sendResult { r with hops := rest } else s
    | [] => s)
/-- MCAST: a result reaches a multicast hop, with a copy to each logical peer of the range (R461). -/
def execMcast (r : ResultPacket) (s : State) : Host.Outcome State Fault Refusal :=
  .next (match r.hops with
    | h :: rest =>
      if hopAct h ≠ 3 then s else
      let s := (s.takeResult r).deliverResult r
      (match rest with
       | [] => s
       | n :: ns =>
         let e := s.groupEntry r.group
         (List.range (geMcn e)).foldl (fun s i => s.sendResult { r with hops := (n / 1024 * 1024 + geMcbase e + i) :: ns }) s)
    | [] => s)

end Sys2Proof.Machine
end

