-- ==== Sys2Proof/Machine/Collective.lean ====
section
/-! DEFINITION. COL, CWAIT and SLOTQ, and the reducers' events (R458 to R471, R480 to R484). -/

namespace Sys2Proof.Machine

open Sys2Proof

/-! ### Reading on the COL path -/

/-- Bytes an engine reads for a grid, word by word (R407, R415); the first address that cannot be read faults. -/
def State.spanRead (s : State) (g va n : Nat) : Except (Nat × Bool × Nat) (List Byte × Bool × State) :=
  let r := (List.range (n / 4)).foldl (fun (a : Except (Nat × Bool × Nat) (List (List Byte) × Bool × State)) i =>
    match a with
    | .error e => .error e
    | .ok (l, bad, s) =>
      match s.place g (va + 4 * i) 0 with
      | .mem pa _ => let h := s.homeRead pa 4; .ok (h.1 :: l, bad || h.2.1, h.2.2)
      | .bad c ue => .error (c, ue, va + 4 * i)
      | .fabric => .error (0x1E, false, va + 4 * i)) (.ok ([], false, s))
  match r with
  | .error e => .error e
  | .ok (l, bad, s) => .ok (l.reverse.flatten, bad, s)
/-- A fabric-window address (R403). -/
def isFabric (va : Nat) : Bool := bits va 63 57 == 0 && bit va 56
/-- Source elements as FP32 codes, or RES63 codes (R458). -/
def sourceData (e : Nat) (bs : List Byte) : List Nat :=
  let k := geBytes e
  (List.range (geNelem e)).map (fun i =>
    let c := leNat ((bs.drop (k * i)).take k)
    if geFmt e = 1 then c * 2 ^ 16 else c)
/-- The fault a lane's descriptor address takes (R480, R482). -/
def descFault (ea align : Nat) : Option Nat := if ea % align ≠ 0 then some 4 else if isFabric ea then some 0x1E else none
/-- Data met bad in a descriptor: MEMDROP, or the STRICT fault (R207, R431). -/
def State.descBad (s : State) (r : LaneRef) (bad : Bool) : State × Option Nat := s.metBad r 3 bad

/-! ### COL (R480) -/

/-- What a COL of a lane comes to. -/
inductive PostEnd where
  | fault (code addr : Nat) (ue : Bool)
  /-- The lane is not ready yet. -/
  | stay
  | done (s : State) (status : Nat)
  deriving DecidableEq, Repr

/-- COL's posting by a lane (R458 to R460, R468, R470, R471). -/
def State.colPost (s : State) (r : LaneRef) (x : XForm) : State × PostEnd :=
  let ea := s.reg64 r x.a.toNat
  let g := (s.team r.team).grid
  match descFault ea 64 with
  | some c => (s, .fault c ea false)
  | none =>
    match s.spanRead g ea 64 with
    | .error (c, ue, _) => (s, .fault c ea ue)
    | .ok (bs, bad, s) =>
      let m := s.descBad r bad
      let s := m.1
      match m.2 with
      | some c => (s, .fault c ea false)
      | none =>
        let hdr := leNat (bs.take 8)
        let src := leNat ((bs.drop 8).take 8)
        let nhop := bits hdr 19 16
        let hops := (List.range 8).map (fun i => leNat ((bs.drop (16 + 4 * i)).take 4))
        let route := hops.take nhop
        let grp := bits hdr 31 24
        let e := s.groupEntry grp
        if bits hdr 23 20 ≠ 0 ∨ bits hdr 15 0 ≠ 0 ∨ nhop = 0 ∨ 8 < nhop ∨ (hops.drop nhop).any (· != 0) ∨ (bs.drop 48).any (· != 0)
            ∨ src % 16 ≠ 0 ∨ isFabric src ∨ !geV e ∨ !s.routeOk route then (s, .fault 0x1E 0 false)
        else
          let det := (s.gridOf r.team).det
          if det && !(geK e == geExpect e && geT e == 0
              && (geRes e || !(routePartial route || route.any hopSw || geFmt e == 3))) then (s, .fault 0x19 0 false)
          else if s.sealConflict route then (s, .done (s.countCol grp 9) 1)
          else if 64 ≤ (s.outgoing.filter (fun o => match o with | .contribution p c => s.isLocalPeer p && c.group % 16 == grp % 16 | _ => false)).length
            then (s, .stay)
          else
            match s.spanRead g src (geNelem e * geBytes e) with
            | .error (c, ue, a) => (s, .fault c a ue)
            | .ok (ds, bad, s) =>
              if bad then
                let s := s.count 4 0 8
                if (s.gridOf r.team).strict then (s, .fault 8 src false) else (s, .done (s.setTerr r.team 1) 2)
              else
                let w := s.wire grp (sourceData e ds)
                (s, .done (w.2.sendSum r.team { group := grp, step := bits hdr 63 32, src := s.ownIndex, isPartial := false, n := 1, wsum := one32,
                                                 data := w.1, det := det, hops := route }) 0)
/-- Ends a lane's post: its status is written (R480, R482). -/
def State.endPost (s : State) (x : XForm) (r : LaneRef) (e : State × PostEnd) : State :=
  match e.2 with
  | .stay => s
  | .fault c a ue => (e.1.countUe ue).raise r c (if c = 0x1E then 0 else a)
  | .done s status => s.finish r x (runWrites x.d.toNat status 1)
/-- Posts for every working lane; helper lanes pass (R22). An s-register is written once, with the status of the last lane that has posted
(R16, R477). -/
def postAll (x : XForm) (post : State → LaneRef → State × PostEnd) (s : State) (rs : List LaneRef) : State :=
  let s := (rs.filter (fun r => s.isHelper r)).foldl (fun s r => s.finish r x []) s
  (s.workers rs).foldl (fun s r => s.endPost x r (post s r)) s
/-- COL (R480). -/
def execCol (x : XForm) (s : State) : Host.Outcome State Fault Refusal :=
  runX (.col x) x (postAll x (fun s r => s.colPost r x)) s

/-! ### CWAIT (R481) -/

/-- Whether a completion word meets a floor. -/
def cwordMet (w f : Nat) : Bool := bit w 31 && decide ((bits w 63 32 + (2 ^ 32 - f % 2 ^ 32)) % 2 ^ 32 < 2 ^ 31)
/-- CWAIT in one lane. -/
def State.cwaitLane (s : State) (x : XForm) (r : LaneRef) : State :=
  let ea := s.reg64 r x.a.toNat
  let f := s.regRun r x.d.toNat 1
  let tmo := s.regRun r x.c.toNat 1
  let g := s.gridOf r.team
  if ea % 8 ≠ 0 then s.raise r 4 ea
  else if isFabric ea then s.raise r 0x1E
  else if g.det && tmo != 0 then s.raise r 0x19
  else
    match s.place (s.team r.team).grid ea 0 with
    | .bad c ue => (s.countUe ue).raise r c ea
    | .fabric => s.raise r 0x1E
    | .mem pa _ =>
      let h := s.readHome r pa 8
      let w := leNat h.data
      match h.late with
      | some c => h.s.finishLate r x (pairWrites x.d.toNat 0) c ea
      | none =>
        if cwordMet w f then (h.s.acquireSig r 5 (h.s.field (lineOf pa))).finish r x (pairWrites x.d.toNat w)
        else h.s.hold r { kind := .cwait, x := x, insn := s.cur.insn, ea := ea, pa := pa, v1 := f, v2 := w,
                          deadline := if tmo = 0 then none else some (s.cycle + tmo), order := s.nextKey, issue := s.cur.num }
/-- CWAIT (R481). -/
def execCwait (x : XForm) (s : State) : Host.Outcome State Fault Refusal := runLanes (.cwait x) x (fun s r => s.cwaitLane x r) s
/-- The word a held CWAIT reads now, where its address can be read: its home place and the word. -/
def State.cwaitWord (s : State) (r : LaneRef) (h : Hold) : Option (Nat × Nat × State) :=
  match s.place (s.team r.team).grid h.ea 0 with
  | .mem pa _ => let v := s.homeRead pa 8; some (pa, leNat v.1, v.2.2)
  | _ => none
/-- Lets held CWAITs go on whose word has come (R481). -/
def State.wakeCwait (s : State) : State :=
  (s.heldIn .cwait).foldl (fun s e =>
    match s.cwaitWord e.1 e.2 with
    | some (pa, w, s') =>
      if cwordMet w e.2.v1 then (s'.acquireSig e.1 5 (s'.field (lineOf pa))).release e.1 (pairWrites e.2.x.d.toNat w) [] else s
    | none => s) s
/-- CWAIT_TIMEOUT: the word as last read is written (R481). -/
def execCwaitTimeout (r : LaneRef) (s : State) : Host.Outcome State Fault Refusal :=
  .next (match (s.lane r).cond with
    | .held h =>
      (match h.kind, h.deadline with
       | .cwait, some d =>
         if s.cycle < d then s
         else match s.cwaitWord r h with
           | some (_, w, s') => s'.release r (pairWrites h.x.d.toNat w) []
           | none => s.release r (pairWrites h.x.d.toNat h.v2) []
       | _, _ => s)
    | _ => s)

/-! ### SLOTQ (R454, R455, R482) -/

/-- Transmission time of a message in hundredths of a nanosecond (R454). -/
def messageTime (n : Nat) : Nat := n + 64 * ((n + 4095) / 4096)
/-- A port's part of a slot entry: PV and DEST (R453). -/
def slotReach (e p : Nat) : Option Nat := let b := bits e (64 + 8 * p + 7) (64 + 8 * p); if bit b 7 then some (bits b 5 0) else none
/-- DUR and GUARD of an entry, in hundredths of a nanosecond. -/
def slotDur (e : Nat) : Nat := bits e 23 0 * 100000
def slotGuard (e : Nat) : Nat := bits e 47 32 * 100
/-- The entries of a table in use. -/
def SlotTable.used (t : SlotTable) : List Nat := (List.range t.nslot).map (fun k => Tab.getD t.entries k 0)
/-- Whether some slot that reaches a queue can take a message of some bytes (R455). -/
def SlotTable.accepts (t : SlotTable) (q n : Nat) : Bool :=
  t.used.any (fun e => (List.range 8).any (fun p => slotReach e p == some q) && decide (messageTime n + slotGuard e ≤ slotDur e))
/-- Queues (R454). -/
def State.sendQueue (s : State) (q : Nat) : SendQueue := Tab.getD s.queues q { peer := none, msgs := [] }
/-- Whether a queue has no room for a message (R482). -/
def SendQueue.full (q : SendQueue) (n : Nat) : Bool :=
  decide (256 ≤ q.msgs.length) || decide (2 ^ 20 < q.msgs.foldl (fun k m => k + m.bytes.length) 0 + n)
/-- SLOTQ's posting by a lane (R482). -/
def State.slotPost (s : State) (r : LaneRef) (x : XForm) : State × PostEnd :=
  let ea := s.reg64 r x.a.toNat
  let qn := s.regRun r x.b.toNat 1
  let g := (s.team r.team).grid
  match descFault ea 32 with
  | some c => (s, .fault c ea false)
  | none =>
    match s.spanRead g ea 32 with
    | .error (c, ue, _) => (s, .fault c ea ue)
    | .ok (bs, bad, s) =>
      let m := s.descBad r bad
      let s := m.1
      match m.2 with
      | some c => (s, .fault c ea false)
      | none =>
        let src := leNat (bs.take 8)
        let dst := leNat ((bs.drop 8).take 8)
        let len := leNat ((bs.drop 16).take 4)
        let rsv := leNat ((bs.drop 20).take 4)
        let notify := leNat ((bs.drop 24).take 8)
        if 64 ≤ qn ∨ src % 4 ≠ 0 ∨ isFabric src ∨ dst % 4 ≠ 0 ∨ len < 4 ∨ 65536 < len ∨ len % 4 ≠ 0 ∨ rsv ≠ 0 ∨ notify % 4 ≠ 0 then
          (s, .fault 0x1E 0 false)
        else
          let q := s.sendQueue qn
          if q.peer.isNone || !s.slotTable.accepts qn len then (s, .done s 1)
          else if q.full len then (s, .stay)
          else
            match s.spanRead g src len with
            | .error (c, ue, a) => (s, .fault c a ue)
            | .ok (ds, bad, s) =>
              let m := s.descBad r bad
              (match m.2 with
               | some c => (m.1, .fault c src false)
               | none =>
                 let msg : Message := { queue := qn, team := r.team, dst := dst, notify := notify, bytes := ds }
                 (m.1, .done { m.1 with queues := Tab.set m.1.queues qn { q with msgs := q.msgs ++ [msg] } } 0))
/-- SLOTQ (R482). -/
def execSlotq (x : XForm) (s : State) : Host.Outcome State Fault Refusal :=
  runX (.slotq x) x (postAll x (fun s r => s.slotPost r x)) s

/-! ### The reducers' events -/

/-- RED: a contribution reaches a partial reducer (R461, R469). A hop with SW is the switch's: the device passes the packet on. -/
def execRed (c : Contribution) (s : State) : Host.Outcome State Fault Refusal :=
  .next (match c.hops with
    | h :: rest =>
      if hopAct h ≠ 0 ∨ !(rest.any (fun p => hopAct p == 0)) then s
      else
        let s := s.takeSum c
        if hopSw h then s.sendSum 0 { c with hops := rest } else s.gather c rest
    | [] => s)
/-- PARTIAL_TIMER: T µs have passed since the first arrival (R469). -/
def execPartialTimer (n : Nat) (s : State) : Host.Outcome State Fault Refusal :=
  .next (s.forwardDue n)
/-- FWD: a packet is sent on unchanged (R461). -/
def execFwd (p : Parcel) (s : State) : Host.Outcome State Fault Refusal :=
  .next (match p with
    | .sum c => (match c.hops with
        | h :: rest => if hopAct h = 1 then (s.takeSum c).sendSum 0 { c with hops := rest } else s
        | [] => s)
    | .result r => (match r.hops with
        | h :: rest => if hopAct h = 1 then (s.takeResult r).sendResult { r with hops := rest } else s
        | [] => s))
/-- FINAL_REDUCTION: a contribution reaches the last RED of its route; a step whose timer has run out by then has closed without it (R462 to
R465). -/
def execFinalReduction (c : Contribution) (s : State) : Host.Outcome State Fault Refusal :=
  .next (match c.hops with
    | h :: rest =>
      if hopAct h ≠ 0 ∨ rest.any (fun p => hopAct p == 0) then s
      else
        let s := s.takeSum c
        if geV (s.groupEntry c.group) then (s.judge c.group).classify c else s
    | [] => s)
/-- STEP_TIMER: a step's timer expires (R463). -/
def execStepTimer (g : Nat) (s : State) : Host.Outcome State Fault Refusal := .next (s.judge g)

end Sys2Proof.Machine
end

