-- ==== Sys2Proof/Machine/Approx.lean ====
section
/-! DEFINITION. The approximated functions (R121, R122): their exact values to far more places than FP32 holds, the exact cases
and special inputs, and the device's choice within the stated bound. -/

namespace Sys2Proof.Machine

open Sys2Proof

/-- Fractional bits of the fixed-point numbers below. -/
def fixBits : Nat := 320
/-- One in fixed point. -/
def fixOne : Int := 2 ^ 320
/-- Product in fixed point. -/
def fixMul (a b : Int) : Int := a * b / fixOne
/-- ln 2 in fixed point, to within one unit. -/
def fixLn2 : Int := 0xb17217f7d1cf79abc9e3b39803f2f6af40f343267298b62d8a0d175b8baafa2be7b876206debac98
/-- π with 640 fractional bits, to within one unit. -/
def piBits : Int := 0x3243f6a8885a308d313198a2e03707344a4093822299f31d0082efa98ec4e6c89452821e638d01377be5466cf34e90c6cc0ac29b7c97c50dd3f84d5b5b54709179216d5d98979fb1bd1310ba698dfb5ac

/-- The power series with first term `t` whose term after index n is that term times z over (n+1) d(n). -/
def seriesFrom (z : Int) (den : Nat → Int) : Nat → Nat → Int → Int
  | 0, _, _ => 0
  | k + 1, n, t => t + seriesFrom z den k (n + 1) (fixMul t z / den n)
/-- e^z for 0 ≤ z < 1. -/
def fixExp (z : Int) : Int := seriesFrom z (fun n => n + 1) 80 0 fixOne
/-- sin z for 0 ≤ z < 2. -/
def fixSin (z : Int) : Int := seriesFrom (-(fixMul z z)) (fun n => (2 * n + 2) * (2 * n + 3)) 50 0 z
/-- cos z for 0 ≤ z < 2. -/
def fixCos (z : Int) : Int := seriesFrom (-(fixMul z z)) (fun n => (2 * n + 1) * (2 * n + 2)) 50 0 fixOne
/-- The sum of z^(2k+1)/(2k+1) from a power `p` and an index. -/
def atanhFrom (zz : Int) : Nat → Nat → Int → Int
  | 0, _, _ => 0
  | k + 1, n, p => p / (2 * n + 1) + atanhFrom zz k (n + 1) (fixMul p zz)
/-- log2 m for 1 ≤ m < 2, m in fixed point. -/
def fixLog2 (m : Int) : Int :=
  let z := (m - fixOne) * fixOne / (m + fixOne)
  2 * atanhFrom (fixMul z z) 110 0 z * fixOne / fixLn2

/-- A fixed-point number as a rational. -/
def ofFix (x : Int) : Rat := (x : Rat) * pow2 (-320)
/-- A rational in fixed point, rounded down. -/
def toFix (x : Rat) : Int := (x * pow2 320).floor

/-- 2^x, with an error below 2^-240 of it, for |x| < 2^20. -/
def exp2Val (x : Rat) : Rat :=
  let k := x.floor
  ofFix (fixExp (fixMul (toFix (x - k)) fixLn2)) * pow2 k
/-- log2 x of a positive x, with an error below 2^-240. -/
def log2Val (x : Rat) : Rat :=
  let k := floorLog2 x
  k + ofFix (fixLog2 (toFix (x * pow2 (-k))))
/-- The quarter turn an argument lies in and what is left of it, in fixed point (exact reduction, R121). -/
def reduceArg (x : Rat) : Int × Int :=
  let a : Int := (x * pow2 640).floor
  let n := 2 * a / piBits
  (n, (2 * a - n * piBits) / 2 / 2 ^ 320)
/-- sin x, or cos x when `quarter` is 1, with an error below 2^-200. -/
def sinVal (x : Rat) (quarter : Int) : Rat :=
  let (n, z) := reduceArg x
  let k := (n + quarter) % 4
  ofFix (if k = 0 then fixSin z else if k = 1 then fixCos z else if k = 2 then -(fixSin z) else -(fixCos z))
/-- e^x, with an error below 2^-240 of it, for |x| < 40. -/
def expVal (x : Rat) : Rat :=
  let y := toFix x * fixOne / fixLn2
  let k := y / fixOne
  ofFix (fixExp (fixMul (y - k * fixOne) fixLn2)) * pow2 k
/-- tanh x for 2^-12 ≤ |x| < 10. -/
def tanhVal (x : Rat) : Rat :=
  let e := expVal (2 * |x|)
  let t := (e - 1) / (e + 1)
  if x < 0 then -t else t

/-- The device's result for an exact value known to within `slack`: its own choice where that is a finite code within the bound, else
the nearest code (R121; log entry 4). A subnormal result, or a zero from a non-zero value, sets UNF (R122). -/
def chosen (fn operand : Nat) (y slack bound : Rat) : Nat × FpFlags :=
  let c := Config.approxChoice fn operand % 2 ^ 32
  let code := match decodeFloat 0 c with
    | .fin _ v => if |v - y| + slack ≤ bound then c else encodeFloat 0 (roundIeee 0 (.fin (y < 0) y)).1
    | _ => encodeFloat 0 (roundIeee 0 (.fin (y < 0) y)).1
  let tiny := match decodeFloat 0 code with | .fin _ v => decide (|v| < pow2 (-126)) | _ => false
  (code, ⟨false, false, tiny⟩)
/-- A result within `k` ulps of the exact value, which is known to one part in 2^200. -/
def withinUlps (fn operand k : Nat) (y : Rat) : Nat × FpFlags :=
  chosen fn operand y (|y| * pow2 (-200)) ((k : Rat) * ulpOf 0 y)
/-- An exact value, rounded to nearest even. -/
def exactly (y : Rat) : Nat × FpFlags := deliver 0 (.fin (y < 0) y, false)
/-- The default NaN with INV. -/
def invalid : Nat × FpFlags := (defaultNaN 0, FpFlags.ofInv true)
/-- A special result with no flag. -/
def plain (v : Val) : Nat × FpFlags := (encodeFloat 0 v, FpFlags.none)
/-- Whether a positive rational is a power of two. -/
def isPow2 (x : Rat) : Bool := pow2 (floorLog2 x) == x

/-- FRCP (R121, R122). The reciprocal of a power of two is exact where FP32 holds it; that of ±2^-128 is not, and is the device's choice within
the bound (log entry 4). -/
def frcp (a : Nat) : Nat × FpFlags :=
  match decodeFloat 0 a with
  | .nan => plain .nan
  | .inf n => plain (.fin n 0)
  | .fin n q => if q = 0 then plain (.inf n) else if isPow2 |q| ∧ |1 / q| ≤ maxFinite 0 then exactly (1 / q) else withinUlps 0x4D a 1 (1 / q)
/-- FRSQ (R121, R122). -/
def frsq (a : Nat) : Nat × FpFlags :=
  match decodeFloat 0 a with
  | .nan => plain .nan
  | .inf n => if n then invalid else plain (.fin false 0)
  | .fin n q =>
    if q = 0 then plain (.inf n) else if q < 0 then invalid
    else if isPow2 q && floorLog2 q % 2 == 0 then exactly (pow2 (-(floorLog2 q / 2)))
    else
      -- 1/√q as an integer square root with more than 200 places
      let k : Nat := (220 + floorLog2 q).toNat + 4
      let n := ((pow2 (2 * k)) / q).floor.toNat
      withinUlps 0x4E a 2 ((isqrt n : Nat) * pow2 (-(k : Int)))
/-- FEXP2 (R121, R122). An integral operand gives the exact power where FP32 holds it; every other result is the device's choice within the
bound, those of 128 and of operands below -149 among them (log entry 4). -/
def fexp2 (a : Nat) : Nat × FpFlags :=
  match decodeFloat 0 a with
  | .nan => plain .nan
  | .inf n => if n then plain (.fin false 0) else plain (.inf false)
  | .fin _ q =>
    if q = 0 then plain (.fin false 1)
    else if 200 ≤ q then plain (.inf false)
    else if q ≤ -400 then chosen 0x51 a (pow2 (-400)) (pow2 (-400)) (2 * ulpOf 0 (pow2 (-400)))
    else if q.den = 1 ∧ -149 ≤ q ∧ q ≤ 127 then exactly (pow2 q.num)
    else withinUlps 0x51 a 2 (exp2Val q)
/-- FLOG2 (R121, R122). -/
def flog2 (a : Nat) : Nat × FpFlags :=
  match decodeFloat 0 a with
  | .nan => plain .nan
  | .inf n => if n then invalid else plain (.inf false)
  | .fin _ q =>
    if q = 0 then plain (.inf true) else if q < 0 then invalid
    else if isPow2 q then exactly (floorLog2 q)
    else
      let y := log2Val q
      if 1 / 2 ≤ q && q ≤ 2 then chosen 0x52 a y (pow2 (-200)) (pow2 (-22)) else withinUlps 0x52 a 2 y
/-- FSIN (R121, R122). -/
def fsin (a : Nat) : Nat × FpFlags :=
  match decodeFloat 0 a with
  | .nan => plain .nan
  | .inf _ => invalid
  | .fin n q =>
    if q = 0 then plain (.fin n 0)
    else if |q| < pow2 (-12) then exactly q
    else chosen 0x53 a (sinVal q 0) (pow2 (-190)) (pow2 (-22))
/-- FCOS (R121, R122). -/
def fcos (a : Nat) : Nat × FpFlags :=
  match decodeFloat 0 a with
  | .nan => plain .nan
  | .inf _ => invalid
  | .fin _ q => if q = 0 then plain (.fin false 1) else chosen 0x54 a (sinVal q 1) (pow2 (-190)) (pow2 (-22))
/-- FTANH (R121, R122). -/
def ftanh (a : Nat) : Nat × FpFlags :=
  match decodeFloat 0 a with
  | .nan => plain .nan
  | .inf n => plain (.fin n (if n then -1 else 1))
  | .fin n q =>
    if q = 0 then plain (.fin n 0)
    else if |q| < pow2 (-12) then exactly q
    else if 10 ≤ |q| then plain (.fin n (if n then -1 else 1))
    else withinUlps 0x55 a 2 (tanhVal q)

end Sys2Proof.Machine
end

