-- ==== Sys2Proof/Machine/Flags.lean ====
section
/-! DEFINITION. Compares and predicates (R106 to R108, R123), the class mask (R120), and the special registers with the sticky
error word (R23 to R28, R109, R110). -/

namespace Sys2Proof.Machine

open Sys2Proof

/-! ### Compares -/

/-- The integer compares (R106). -/
def eqW (a b : Word) : Bool := a == b
def neW (a b : Word) : Bool := a != b
def ltS (a b : Word) : Bool := decide (a.toInt < b.toInt)
def leS (a b : Word) : Bool := decide (a.toInt ≤ b.toInt)
def ltU (a b : Word) : Bool := decide (a.toNat < b.toNat)
def leU (a b : Word) : Bool := decide (a.toNat ≤ b.toNat)
/-- The floating compares (R123): unordered makes all but NE and UN false. -/
def fEq (a b : Word) : Bool := fpCompare a.toNat b.toNat == 2
def fNe (a b : Word) : Bool := fpCompare a.toNat b.toNat != 2
def fLt (a b : Word) : Bool := fpCompare a.toNat b.toNat == 1
def fLe (a b : Word) : Bool := let c := fpCompare a.toNat b.toNat; c == 1 || c == 2
def fUn (a b : Word) : Bool := fpCompare a.toNat b.toNat == 0

/-- FCLASS (R120). -/
def classMask (a : Word) : Word :=
  match decodeFloat 0 a.toNat with
  | .nan => 256
  | .inf n => if n then 1 else 128
  | .fin n q =>
    let k := if q = 0 then (if n then 3 else 4) else if |q| < pow2 (expMin 0) then (if n then 2 else 5) else (if n then 1 else 6)
    BitVec.ofNat 32 (2 ^ k)

/-- The predicates as a byte, p0 reading as true (R108). -/
def Lane.predByte (x : Lane) : Word := BitVec.ofNat 32 (Nat.lor 1 x.p.toNat)
/-- Predicates p1 to p7 from a byte (R108). -/
def predsOf (w : Word) : List (Nat × Bool) := (List.range 7).map (fun k => (k + 1, bit w.toNat (k + 1)))

/-! ### Special registers -/

/-- %ptptime in nanoseconds (R23). -/
def State.ptptime (s : State) : Nat := s.now / 100
/-- The value of a special register in a lane (R23 to R27). One count of arithmetic cycles, from reset on, serves as the %clock of every core:
R23 does not relate the clocks of different cores, and the model makes them equal (DESIGN CHOICE, log entry 69). -/
def State.special (s : State) (r : LaneRef) (n : Nat) : Nat :=
  let t := s.team r.team
  let g := s.grid t.grid
  match n with
  | 0 => r.l + (if s.isHelper r then 256 else 0)
  | 1 => r.l / 4
  | 2 => r.g
  | 3 => t.teamid
  | 4 => s.gangOf r.team * 4 + s.rankOf r.team
  | 5 => t.grid
  | 6 => g.nteams
  | 7 => g.ngroups
  | 8 => s.cycle
  | 9 => s.ptptime
  | 10 => s.heelStep
  | 11 => if g.det then g.lcores * 2 ^ 16 + 1 else 0
  | 12 => t.dphase.toNat
  | 13 => t.terr.toNat
  | 14 => t.qseed.toNat
  | _ => 0
/-- Writes a special register of a team in a cycle (R110): %terr is write-one-to-clear, and keeps the bits set in that cycle (R26). -/
def Team.putSpecial (x : Team) (cycle n v : Nat) : Team :=
  if n = 12 then { x with dphase := BitVec.ofNat 5 v }
  else if n = 13 then { x with terr := x.terr &&& ~~~ (BitVec.ofNat 7 v &&& ~~~ x.terrOf cycle) }
  else if n = 14 then { x with qseed := BitVec.ofNat 33 v }
  else x
/-- Whether a group with a higher number has written a special register in a cycle, so that an SWR of this group comes before it (R28). -/
def Team.swrAfter (x : Team) (cycle g n : Nat) : Bool :=
  match Tab.find x.swrs n with
  | some (c, h) => c == cycle && decide (g < h)
  | none => false
/-- An SWR of a group: the SWRs of one cycle to a register are applied in ascending %groupid, so that the highest group's value remains (R28,
R110); the clears of %terr add up in either order. -/
def State.swr (s : State) (t g n v : Nat) : State :=
  s.modTeam t (fun x =>
    if x.swrAfter s.cycle g n ∧ n ≠ 13 then x
    else { x.putSpecial s.cycle n v with swrs := if x.swrAfter s.cycle g n then x.swrs else Tab.set x.swrs n (s.cycle, g) })

end Sys2Proof.Machine
end

