-- ==== Sys2Proof/Machine/FloatOps.lean ====
section
/-! DEFINITION. FP32 and packed-pair functions over register words (R115 to R124). -/

namespace Sys2Proof.Machine

open Sys2Proof

/-- A code with its flags as a word. -/
def wordOf (x : Nat × FpFlags) : Word × FpFlags := (BitVec.ofNat 32 x.1, x.2)
/-- The flags of an operation that delivers one of its operands: UNF for a subnormal FP32 result (R38; log entry 10). -/
def copyFlags (code : Nat) : FpFlags :=
  match decodeFloat 0 code with
  | .fin _ q => ⟨false, false, q != 0 && decide (|q| < pow2 (-126))⟩
  | _ => FpFlags.none
/-- FADD, FSUB, FMUL, FDIV (R117). -/
def faddW (a b : Word) : Word × FpFlags := wordOf (fpAdd 0 a.toNat b.toNat)
def fsubW (a b : Word) : Word × FpFlags := wordOf (fpSub 0 a.toNat b.toNat)
def fmulW (a b : Word) : Word × FpFlags := wordOf (fpMul 0 a.toNat b.toNat)
def fdivW (a b : Word) : Word × FpFlags := wordOf (fpDiv 0 a.toNat b.toNat)
/-- FMAC (R118). -/
def fmacW (d a b : Word) : Word × FpFlags := wordOf (fpFma 0 a.toNat b.toNat d.toNat)
/-- FMIN and FMAX (R41, R117). -/
def fminW (a b : Word) : Word × FpFlags := let c := fpMinMax false a.toNat b.toNat; (BitVec.ofNat 32 c, copyFlags c)
def fmaxW (a b : Word) : Word × FpFlags := let c := fpMinMax true a.toNat b.toNat; (BitVec.ofNat 32 c, copyFlags c)
/-- FSCALE (R117). -/
def fscaleW (a b : Word) : Word × FpFlags :=
  match decodeFloat 0 a.toNat with
  | .nan => (BitVec.ofNat 32 (defaultNaN 0), FpFlags.none)
  | .inf _ => (a, FpFlags.none)
  | .fin n q => if q = 0 then (a, FpFlags.none)
      -- beyond ±400 the product lies out of range, or rounds to zero, whatever a is
      else wordOf (deliver 0 (.fin n (q * pow2 (max (-400) (min 400 b.toInt))), false))
/-- FABS and FNEG (R119). -/
def fabsW (a : Word) : Word × FpFlags :=
  if decodeFloat 0 a.toNat = .nan then (BitVec.ofNat 32 (defaultNaN 0), FpFlags.none)
  else let c := a &&& 0x7FFFFFFF#32; (c, copyFlags c.toNat)
def fnegW (a : Word) : Word × FpFlags :=
  if decodeFloat 0 a.toNat = .nan then (BitVec.ofNat 32 (defaultNaN 0), FpFlags.none)
  else let c := a ^^^ 0x80000000#32; (c, copyFlags c.toNat)
/-- FSQRT (R119). -/
def fsqrtW (a : Word) : Word × FpFlags := wordOf (fpSqrt 0 a.toNat)
/-- The approximated functions (R121). -/
def frcpW (a : Word) : Word × FpFlags := wordOf (frcp a.toNat)
def frsqW (a : Word) : Word × FpFlags := wordOf (frsq a.toNat)
def fexp2W (a : Word) : Word × FpFlags := wordOf (fexp2 a.toNat)
def flog2W (a : Word) : Word × FpFlags := wordOf (flog2 a.toNat)
def fsinW (a : Word) : Word × FpFlags := wordOf (fsin a.toNat)
def fcosW (a : Word) : Word × FpFlags := wordOf (fcos a.toNat)
def ftanhW (a : Word) : Word × FpFlags := wordOf (ftanh a.toNat)
/-- FFLOOR, FCEIL, FRINT, FTRUNC (R119), by their rounding mode; the sign of a is kept. -/
def fintW (mode : Nat) (a : Word) : Word × FpFlags :=
  match decodeFloat 0 a.toNat with
  | .nan => (BitVec.ofNat 32 (defaultNaN 0), FpFlags.none)
  | .inf _ => (a, FpFlags.none)
  | .fin n q =>
    let v : Rat := roundInt mode 0 q
    (BitVec.ofNat 32 (encodeFloat 0 (.fin n v)), FpFlags.none)
/-- FGETEXP (R119). -/
def fgetexpW (a : Word) : Word × FpFlags :=
  match decodeFloat 0 a.toNat with
  | .nan => (0x7FFFFFFF#32, FpFlags.none)
  | .inf _ => (0x7FFFFFFF#32, FpFlags.none)
  | .fin _ q => (if q = 0 then 0x80000000#32 else BitVec.ofInt 32 (floorLog2 |q|), FpFlags.none)
/-- The two 16-bit elements of a packed pair (R124). -/
def packed (op : Nat → Nat → Nat → Nat × FpFlags) (d a b : Word) : Word × FpFlags :=
  let e (w : Word) (i : Nat) : Nat := w.toNat / 2 ^ (16 * i) % 65536
  let x := op (e d 0) (e a 0) (e b 0)
  let y := op (e d 1) (e a 1) (e b 1)
  (BitVec.ofNat 32 (x.1 + 65536 * y.1), x.2.or y.2)
/-- Format of a packed pair: BF16 when m2 = 0b01, else FP16 (R124). -/
def pairFmt (f : RForm) : Nat := if f.m = 1 then 2 else 1

end Sys2Proof.Machine
end

