-- ==== Sys2Proof/Machine/Compact.lean ====
section
/-! DEFINITION. The compact forms (R65, R66, R113). -/

namespace Sys2Proof.Machine

open Sys2Proof

/-- C_MOV: vd := vb (R65). -/
def execCMov (f : CForm) (s : State) : Host.Outcome State Fault Refusal :=
  intC (.cMov f) f (fun _ b => b) s
/-- C_MOV with i = 1: vd := sext(imm5) (R65). -/
def execCMovImm (f : CForm) (s : State) : Host.Outcome State Fault Refusal :=
  immC (.cMovImm f) f (cSimm f) (fun _ b => b) s
/-- C_ADD: the effect of ADD with vd as destination and first source (R65, R97). -/
def execCAdd (f : CForm) (s : State) : Host.Outcome State Fault Refusal :=
  intC (.cAdd f) f (· + ·) s
/-- C_ADD with i = 1: b is sext(imm5) (R65). -/
def execCAddImm (f : CForm) (s : State) : Host.Outcome State Fault Refusal :=
  immC (.cAddImm f) f (cSimm f) (· + ·) s
/-- C_SUB: the effect of SUB with vd as destination and first source (R65, R97). -/
def execCSub (f : CForm) (s : State) : Host.Outcome State Fault Refusal :=
  intC (.cSub f) f (· - ·) s
/-- C_SUB with i = 1: b is sext(imm5) (R65). -/
def execCSubImm (f : CForm) (s : State) : Host.Outcome State Fault Refusal :=
  immC (.cSubImm f) f (cSimm f) (· - ·) s
/-- C_MUL: the effect of MUL with vd as destination and first source (R65, R97). -/
def execCMul (f : CForm) (s : State) : Host.Outcome State Fault Refusal :=
  intC (.cMul f) f (· * ·) s
/-- C_MUL with i = 1: b is sext(imm5) (R65). -/
def execCMulImm (f : CForm) (s : State) : Host.Outcome State Fault Refusal :=
  immC (.cMulImm f) f (cSimm f) (· * ·) s
/-- C_AND: the effect of AND with vd as destination and first source (R65, R97). -/
def execCAnd (f : CForm) (s : State) : Host.Outcome State Fault Refusal :=
  intC (.cAnd f) f (· &&& ·) s
/-- C_AND with i = 1: b is sext(imm5) (R65). -/
def execCAndImm (f : CForm) (s : State) : Host.Outcome State Fault Refusal :=
  immC (.cAndImm f) f (cSimm f) (· &&& ·) s
/-- C_OR: the effect of OR with vd as destination and first source (R65, R97). -/
def execCOr (f : CForm) (s : State) : Host.Outcome State Fault Refusal :=
  intC (.cOr f) f (· ||| ·) s
/-- C_OR with i = 1: b is sext(imm5) (R65). -/
def execCOrImm (f : CForm) (s : State) : Host.Outcome State Fault Refusal :=
  immC (.cOrImm f) f (cSimm f) (· ||| ·) s
/-- C_XOR: the effect of XOR with vd as destination and first source (R65, R97). -/
def execCXor (f : CForm) (s : State) : Host.Outcome State Fault Refusal :=
  intC (.cXor f) f (· ^^^ ·) s
/-- C_XOR with i = 1: b is sext(imm5) (R65). -/
def execCXorImm (f : CForm) (s : State) : Host.Outcome State Fault Refusal :=
  immC (.cXorImm f) f (cSimm f) (· ^^^ ·) s
/-- C_SHL: the effect of SHL (R65, R98). -/
def execCShl (f : CForm) (s : State) : Host.Outcome State Fault Refusal :=
  intC (.cShl f) f shlW s
/-- C_SHL with i = 1: imm5 is an unsigned count (R65). -/
def execCShlImm (f : CForm) (s : State) : Host.Outcome State Fault Refusal :=
  immC (.cShlImm f) f (cCount f) shlW s
/-- C_SHRL: the effect of SHRL (R65, R98). -/
def execCShrl (f : CForm) (s : State) : Host.Outcome State Fault Refusal :=
  intC (.cShrl f) f shrlW s
/-- C_SHRL with i = 1: imm5 is an unsigned count (R65). -/
def execCShrlImm (f : CForm) (s : State) : Host.Outcome State Fault Refusal :=
  immC (.cShrlImm f) f (cCount f) shrlW s
/-- C_SHRA: the effect of SHRA (R65, R98). -/
def execCShra (f : CForm) (s : State) : Host.Outcome State Fault Refusal :=
  intC (.cShra f) f shraW s
/-- C_SHRA with i = 1: imm5 is an unsigned count (R65). -/
def execCShraImm (f : CForm) (s : State) : Host.Outcome State Fault Refusal :=
  immC (.cShraImm f) f (cCount f) shraW s
/-- C_FADD: the effect of FADD (R65, R117). -/
def execCFadd (f : CForm) (s : State) : Host.Outcome State Fault Refusal :=
  aluC (.cFadd f) f faddW s
/-- C_FSUB: the effect of FSUB (R65, R117). -/
def execCFsub (f : CForm) (s : State) : Host.Outcome State Fault Refusal :=
  aluC (.cFsub f) f fsubW s
/-- C_FMUL: the effect of FMUL (R65, R117). -/
def execCFmul (f : CForm) (s : State) : Host.Outcome State Fault Refusal :=
  aluC (.cFmul f) f fmulW s
/-- C_FMAX: the effect of FMAX (R65, R117). -/
def execCFmax (f : CForm) (s : State) : Host.Outcome State Fault Refusal :=
  aluC (.cFmax f) f fmaxW s
/-- C_FMIN: the effect of FMIN (R65, R117). -/
def execCFmin (f : CForm) (s : State) : Host.Outcome State Fault Refusal :=
  aluC (.cFmin f) f fminW s

end Sys2Proof.Machine
end

