-- ==== Sys2Proof/Machine/Control.lean ====
section
/-! DEFINITION. Control flow, join masks, REFORM and HOME (R136 to R158). -/

namespace Sys2Proof.Machine

open Sys2Proof

/-- NOP has no effect (R66). -/
def execNop (s : State) : Host.Outcome State Fault Refusal := runAll .nop (fun s rs => s.advanceAll rs) s
/-- EXIT in the lanes of an issue, and what their leaving completes (R142, R147). -/
def State.exitAll (s : State) (rs : List LaneRef) : State :=
  let s := rs.foldl State.exitLane s
  (distinct (rs.map (fun r => r.g))).foldl (fun s g => s.settle s.cur.team g) s
/-- C_EXIT (R66, R142). -/
def execCExit (s : State) : Host.Outcome State Fault Refusal := runAll .cExit State.exitAll s
/-- EXIT (R142). -/
def execExit (s : State) : Host.Outcome State Fault Refusal := runAll .exit State.exitAll s
/-- C_YIELD: each lane's age starts anew at PC + 2 (R66, R143). -/
def execCYield (s : State) : Host.Outcome State Fault Refusal := runAll .cYield (fun s rs => s.advanceAll rs) s
/-- YIELD: each lane's age starts anew at PC + 4 (R143). -/
def execYield (s : State) : Host.Outcome State Fault Refusal := runAll .yield (fun s rs => s.advanceAll rs) s
/-- WAITALL, which issues once every slot is 0 (R66, R144). -/
def execWaitAll (s : State) : Host.Outcome State Fault Refusal := runAll .waitAll (fun s rs => s.advanceAll rs) s
/-- WAIT, which issues once its slots are 0 (R144). -/
def execWait (f : IForm) (s : State) : Host.Outcome State Fault Refusal := runAll (.wait f) (fun s rs => s.advanceAll rs) s
/-- TRAP raises USER_TRAP; a helper lane ignores it (R145). -/
def execTrap (f : IForm) (s : State) : Host.Outcome State Fault Refusal :=
  runAll (.trap f) (fun s rs =>
    (s.advanceAll (rs.filter s.isHelper)).raiseAll (s.workers rs) 0x1B 0 f.imm.toNat) s

/-- Target of a B-form branch (R70). -/
def branchTarget (pc : DWord) (off : BitVec 19) : Nat := (pc + off.signExtend 64 * 2).toNat
/-- BRA (R140). -/
def execBra (f : BForm) (s : State) : Host.Outcome State Fault Refusal :=
  runGuarded (.bra f) f.p f.n (fun s rs => rs.foldl (fun s r => s.jump r (branchTarget s.cur.pc f.off)) s) s
/-- CALL: the link goes to v6:v7 (R140). -/
def execCall (f : BForm) (s : State) : Host.Outcome State Fault Refusal :=
  runGuarded (.call f) f.p f.n (fun s rs => rs.foldl (fun s r =>
    (s.setRegs r (pairWrites 6 (s.cur.pc + 4).toNat)).jump r (branchTarget s.cur.pc f.off)) s) s
/-- BRX (R141). -/
def execBrx (f : RForm) (s : State) : Host.Outcome State Fault Refusal :=
  runAll (.brx f) (fun s rs => rs.foldl (fun s r => s.jump r (s.reg64 r (rBReg f))) s) s
/-- CALLX: the link goes to the pair d7, after the target has been read (R141). -/
def execCallx (f : RForm) (s : State) : Host.Outcome State Fault Refusal :=
  runAll (.callx f) (fun s rs => rs.foldl (fun s r =>
    let pc := s.reg64 r (rBReg f)
    (s.setRegs r (pairWrites f.d.toNat (s.cur.pc + 4).toNat)).jump r pc) s) s
/-- RET (R141). -/
def execRet (f : RForm) (s : State) : Host.Outcome State Fault Refusal :=
  runAll (.ret f) (fun s rs => rs.foldl (fun s r => s.jump r (s.reg64 r (rBReg f))) s) s

/-- The mask a JMSET writes (R148). -/
def jmMask (f : JForm) (s : State) (rs : List LaneRef) : BitVec 32 :=
  if f.a.toNat < 64 then (match rs.getLast? with | some r => s.reg r (128 + f.a.toNat) | none => 0)
  else rs.foldl (fun m r => if (s.lane r).pred (f.a.toNat - 64) then m ||| laneBit r.l else m) 0
/-- JMSET (R148). -/
def execJmset (f : JForm) (s : State) : Host.Outcome State Fault Refusal :=
  runGuarded (.jmset f) f.p f.n (fun s rs =>
    match rs.getLast? with
    | none => s
    | some r =>
      let j := f.j.toNat
      let m := jmMask f s rs
      let s := (s.advanceAll rs).modGroup r (fun x => x.setMask j m)
      let out := (s.joinWaiters r.team r.g j false).filter (fun q => !m.getLsbD q.l)
      let s := out.foldl (fun s q => s.goOn q 4 none) s
      let waiting := (s.joinWaiters r.team r.g j false).foldl (fun w q => w ||| laneBit q.l) (0 : BitVec 32)
      let s := s.modGroup r (fun x => x.setArrived j (x.arrived j &&& m &&& waiting))
      (s.evaluate r.team r.g j).checkDeadlock r.team r.g) s
/-- JMGET (R148). -/
def execJmget (f : JForm) (s : State) : Host.Outcome State Fault Refusal :=
  runGuarded (.jmget f) f.p f.n (fun s rs =>
    match rs.getLast? with
    | none => s
    | some r => (s.setReg r (128 + f.a.toNat) ((s.group r).mask f.j.toNat)).advanceAll rs) s
/-- JOIN in one lane (R149). -/
def State.joinLane (s : State) (j : Nat) (r : LaneRef) : State :=
  let s := s.returnHome r
  let again := (s.lane r).back.isSome
  if ((s.group r).mask j).getLsbD r.l then
    let s := (s.modGroup r (fun x => x.setArrived j (x.arrived j ||| laneBit r.l))).modLane r (fun x => { x with cond := .join j, back := none })
    s.evaluate r.team r.g j
  else
    let s := (s.advance r s.cur.len).modLane r (fun x => { x with back := none })
    if again then s.evaluate r.team r.g j else s
/-- JOIN (R149). -/
def execJoin (f : JForm) (s : State) : Host.Outcome State Fault Refusal :=
  runGuarded (.join f) f.p f.n (fun s rs =>
    let s := rs.foldl (fun s r => s.joinLane f.j.toNat r) s
    (distinct (rs.map (fun r => r.g))).foldl (fun s g => s.checkDeadlock s.cur.team g) s) s
/-- LEAVE (R149). -/
def execLeave (f : JForm) (s : State) : Host.Outcome State Fault Refusal :=
  runGuarded (.leave f) f.p f.n (fun s rs => rs.foldl (fun s r =>
    let j := f.j.toNat
    let s := (s.advance r s.cur.len).modGroup r (fun x =>
      (x.setMask j (x.mask j &&& ~~~ (laneBit r.l))).setArrived j (x.arrived j &&& ~~~ (laneBit r.l)))
    s.evaluate r.team r.g j) s) s
/-- WAITJ in one lane (R149). -/
def State.waitjLane (s : State) (j : Nat) (r : LaneRef) : State :=
  let s := s.returnHome r
  let x := s.group r
  let again := (s.lane r).back.isSome
  if !again ∧ x.mask j &&& ~~~ x.exited &&& ~~~ (x.arrived j) = 0 ∧ (s.joinWaiters r.team r.g j true).isEmpty then s.advance r s.cur.len
  else
    let s := s.modLane r (fun x => { x with cond := .waitj j, back := none })
    if again then s.evaluate r.team r.g j else s
/-- WAITJ (R149). -/
def execWaitj (f : JForm) (s : State) : Host.Outcome State Fault Refusal :=
  runGuarded (.waitj f) f.p f.n (fun s rs =>
    let s := rs.foldl (fun s r => s.waitjLane f.j.toNat r) s
    (distinct (rs.map (fun r => r.g))).foldl (fun s g => s.checkDeadlock s.cur.team g) s) s

/-- Inserts a member in ascending order of home group and lane (R169). -/
def insertMember (r : LaneRef) : List LaneRef → List LaneRef
  | [] => [r]
  | q :: qs => if r.g * 32 + r.l < q.g * 32 + q.l then r :: q :: qs else q :: insertMember r qs
/-- Files a lane in the bin of its key, or in a free one; where no bin is free the lane goes on where it stands (R154). A formation that has
taken an issue context occupies no bin any longer: the spec does not say so outright, and the model frees the bin at placement (log
entry 61). -/
def State.fileLane (s : State) (r : LaneRef) : State :=
  let core := (s.team r.team).gcore
  let pc := (s.lane r).pc + 4
  let fits (b : Bin) : Bool := b.core == core && b.team == r.team && b.pc == pc && b.place.isNone && decide (b.members.length < 32)
  let file (s : State) (n : Nat) (b : Bin) : State :=
    let s := s.returnHome r
    let b := { b with members := insertMember r b.members }
    let full := decide (b.members.length = 32) && !b.formed
    let s := { s with bins := Tab.set s.bins n { b with formed := b.formed || full } }
    let s := if full then s.count 0 core 8 else s
    s.modLane r (fun x => { x with away := some n, filed := s.cycle, pc := pc, since := s.cycle + 1, released := none })
  match s.bins.find? (fun e => fits e.2) with
  | some (n, b) => if (s.lane r).away = some n then s.advance r s.cur.len else file s n b
  | none =>
    if 16 ≤ (s.bins.filter (fun e => e.2.core == core && e.2.place.isNone)).length then (s.count 0 core 10).advance r s.cur.len
    else
      let n := s.nextKey
      file { s with nextKey := n + 1 } n { core := core, team := r.team, pc := pc, members := [], formed := false, place := none }
/-- REFORM; it only advances the PC in deterministic mode (R154, R158). -/
def execReform (s : State) : Host.Outcome State Fault Refusal :=
  runAll .reform (fun s rs => if (s.gridOf s.cur.team).det then s.advanceAll rs else rs.foldl State.fileLane s) s
/-- HOME (R155). -/
def execHome (s : State) : Host.Outcome State Fault Refusal :=
  runAll .home (fun s rs => rs.foldl (fun s r => (s.returnHome r).advance r s.cur.len) s) s

end Sys2Proof.Machine
end

