-- ==== Sys2Proof/Machine/Convert.lean ====
section
/-! DEFINITION. MOVI, conversions, the dither phase and FMA (R125 to R134). -/

namespace Sys2Proof.Machine

open Sys2Proof

/-- Register writes of a MOVI (R76, R126). -/
def moviWrites (x : XIForm) : List (Nat × Word) :=
  let d := x.d.toNat
  let hi : Word := if x.md = 1 then (if x.imm.msb then 0xFFFFFFFF#32 else 0) else 0
  if 192 ≤ d then []
  else if x.md = 0 then [(d, x.imm)]
  else if x.md = 3 then [(d + 1, x.imm)]
  else [(d, x.imm), (d + 1, hi)]
/-- MOVI (R126). -/
def execMovi (x : XIForm) (s : State) : Host.Outcome State Fault Refusal :=
  runGuarded (.movi x) x.p x.pn (fun s rs => (rs.foldl (fun s r => s.setRegs r (moviWrites x)) s).advanceAll rs) s

/-- The target and source slots of a conversion (R127). -/
def State.convSlots (s : State) (x : XForm) : Word × Word :=
  let g := s.gridOf s.cur.team
  (g.slot x.fs.toNat, g.slot (x.c.toNat % 8))
/-- A team's dither phase (R25). -/
def State.phase (s : State) (t : Nat) : Nat := (s.team t).dphase.toNat
/-- Ends a lane's conversion: its flags, and the write, or CONVERT_OVERFLOW where an element traps and the lane is no helper (R61). -/
def State.converted (s : State) (r : LaneRef) (x : XForm) (cs : List Conv) (ws : List (Nat × Word)) : State :=
  let trap := !s.isHelper r && cs.any (·.trap)
  let s := cs.foldl (fun s c => if c.trap && !s.isHelper r then s else s.setFlags r.team c.flags) s
  if trap then s.raise r 0x17 else s.finish r x ws
/-- CVT in one lane (R128). -/
def State.cvtLane (s : State) (x : XForm) (r : LaneRef) : State :=
  let (t, c) := s.convSlots x
  let v := convertCode t c r.l (s.phase r.team) (s.regRun r x.a.toNat (fmtRegs (slotFmt c)))
  s.converted r x [v] (runWrites x.d.toNat v.code (fmtRegs (slotFmt t)))
/-- CVT (R128). -/
def execCvt (x : XForm) (s : State) : Host.Outcome State Fault Refusal := runLanes (.cvt x) x (fun s r => s.cvtLane x r) s
/-- The new destination of CVTPK from the old one and two elements of width `w` (R129). -/
def packTop (w old e0 e1 : Nat) : Nat := old % 2 ^ 32 / 2 ^ (2 * w) + (e0 + e1 * 2 ^ w) * 2 ^ (32 - 2 * w)
/-- CVTPK in one lane (R129). -/
def State.cvtpkLane (s : State) (x : XForm) (r : LaneRef) : State :=
  let (t, c) := s.convSlots x
  let one (n : Nat) : Conv := convertCode t c r.l (s.phase r.team) (s.regRun r n 1)
  let e0 := one x.a.toNat
  let e1 := one x.b.toNat
  s.converted r x [e0, e1]
    (runWrites x.d.toNat (packTop (fmtWidth (slotFmt t)) (s.regRun r x.d.toNat 1) e0.code e1.code) 1)
/-- CVTPK (R129). -/
def execCvtpk (x : XForm) (s : State) : Host.Outcome State Fault Refusal := runLanes (.cvtpk x) x (fun s r => s.cvtpkLane x r) s

/-- The value a lane gives to a block (R130). A lane whose source fails parity gives +0, as a lane that takes no part does (DESIGN CHOICE, log
entry 62). -/
def State.blockValue (s : State) (src : Word) (x : XForm) (rs : List LaneRef) (l : Nat) : Val :=
  match rs.find? (fun r => r.l == l) with
  | some r => if s.isHelper r then .fin false 0 else sourceVal (slotFmt src) (slotFtz src) (s.regRun r x.a.toNat 1)
  | none => .fin false 0
/-- CVTQ over the active lanes (R130): the scale is chosen over the block. The lanes that do not trap complete together, and the phase
advances then, once, under RS; where every lane traps it advances at once (R58). Lanes in handler and lanes out of it form one block: the
spec separates them for the cross-lane instructions alone (R302), and the model's reading is log entry 60. -/
def cvtqLanes (x : XForm) (s : State) (rs : List LaneRef) : State :=
  let (t, c) := s.convSlots x
  let g := s.gridOf s.cur.team
  let rs4 := slotRnd t == 4
  if rs4 && g.det && g.ngroups != 1 then s.raiseAll rs 0x19 else
  let vs := (List.range 32).map (fun l => s.blockValue c x rs l)
  let code := blockScale (slotFmt t) vs
  let ph := s.phase s.cur.team
  let es := rs.map (fun r => (r, blockElement t code r.l ph (s.blockValue c x rs r.l)))
  let traps (e : LaneRef × Conv) : Bool := e.2.trap && !s.isHelper e.1
  let good := es.filter (fun e => !traps e)
  let scaleV := x.b.toNat < 128
  let s := es.foldl (fun s e => if traps e then s.raise e.1 0x17 else s.setFlags e.1.team e.2.flags) s
  let sK : List (Nat × Word) := if scaleV then [] else runWrites x.b.toNat code 1
  let lastGood := good.getLast?.map Prod.fst
  let s := good.foldl (fun s e =>
    let ws := runWrites x.d.toNat e.2.code 1 ++ (if scaleV then runWrites x.b.toNat code 1 else [])
    let atEnd := lastGood == some e.1
    let o := s.newOp e.1 x (if atEnd then ws ++ sK else ws) []
    (s.post { o with together := true, phase := if atEnd && rs4 then 1 else 0 } x).2) s
  match lastGood, rs with
  | none, r :: _ =>
    let s := s.setRegs r sK
    if rs4 then s.modTeam r.team (fun y => { y with dphase := y.dphase + 1 }) else s
  | _, _ => s
/-- CVTQ (R130, R133). -/
def execCvtq (x : XForm) (s : State) : Host.Outcome State Fault Refusal := runX (.cvtq x) x (cvtqLanes x) s

/-- DPH (R131, R134). -/
def execDph (x : XForm) (s : State) : Host.Outcome State Fault Refusal :=
  runX (.dph x) x (fun s rs =>
    let g := s.gridOf s.cur.team
    let set : Bool := x.md == 1
    if set && g.det && g.ngroups != 1 then s.raiseAll rs 0x19 else
    let ph := s.phase s.cur.team
    let s' := rs.foldl (fun s r => s.finish r x (runWrites x.d.toNat ph 1)) s
    match (if set then (s.workers rs).getLast? else none) with
    | some r => s'.modTeam r.team (fun t => t.putSpecial s.cycle 12 (s.regRun r x.a.toNat 1))
    | none => s') s

/-- FMA in one lane (R125). -/
def State.fmaLane (s : State) (x : XForm) (r : LaneRef) : State :=
  let t := (s.gridOf r.team).slot x.fs.toNat
  let src (n : Nat) : Val := sourceVal 0 (slotFtz t) (s.regRun r n 1)
  let e := fmaVal (slotRnd t == 3) (src x.a.toNat) (src x.b.toNat) (src x.c.toNat)
  -- an infinity or NaN result is no overflow of the rounding: R61's pass-through rows deliver it
  let v := convertVal t r.l (s.phase r.team) e.1
  s.converted r x [{ v with flags := v.flags.or (FpFlags.ofInv e.2) }] (runWrites x.d.toNat v.code 1)
/-- FMA (R125). -/
def execFma (x : XForm) (s : State) : Host.Outcome State Fault Refusal := runLanes (.fma x) x (fun s r => s.fmaLane x r) s

end Sys2Proof.Machine
end

