-- ==== Sys2Proof/Machine/MatrixOps.lean ====
section
/-! DEFINITION. The Last: planes, accumulators, footprints of requests and the arithmetic of a pass (R318 to R337). -/

namespace Sys2Proof.Machine

open Sys2Proof

/-! ### Planes (R323) -/

/-- K of a weight format. -/
def planeK (f : Nat) : Nat := if f ≤ 2 then 128 else if f = 3 ∨ f = 4 ∨ f = 6 then 256 else 512
/-- Bytes of a plane row. -/
def planeRowBytes (f : Nat) : Nat := 128 * fmtWidth f / 8
/-- The `w`-bit element `i` of packed bytes from an address (R33). -/
def elementAt (m : List Host.Cell) (base w i : Nat) : Nat :=
  if w = 4 then let b := (memGet m (base + i / 2)).toNat; if i % 2 = 0 then b % 16 else b / 16
  else leNat (memGetN m (base + i * (w / 8)) (w / 8))
/-- Whether a code is an infinity or a NaN (R36). -/
def nonFinite (f code : Nat) : Bool := isFloat f && !finiteVal (decodeFloat f code)
/-- Weight W[k][n] of a plane, as a value (R323, R343). -/
def Plane.weight (p : Plane) (k n : Nat) : Val :=
  sourceVal p.fmt p.ftz (elementAt p.rows (k * planeRowBytes p.fmt) (fmtWidth p.fmt) n)
/-- Scale code of column n in K-block b (R323). -/
def Plane.scale (p : Plane) (b n : Nat) : Nat := if p.mx then (memGet p.scales (128 * b + n)).toNat else 0x7F
/-- The plane a LAST loads from the operand space (R343). -/
def loadPlane (mb : List Host.Cell) (base scaleBase : Nat) (slot : Word) : Plane :=
  let f := slotFmt slot
  let mx := slotMx slot
  let rows := memSetN [] 0 (memGetN mb base 32768)
  let flags := (List.range (planeK f)).filter (fun k =>
    isFloat f && (List.range 128).any (fun n => nonFinite f (elementAt rows (k * planeRowBytes f) (fmtWidth f) n)))
  { fmt := f, mx := mx, ftz := slotFtz slot, rows := rows,
    scales := if mx then memSetN [] 0 (memGetN mb scaleBase (planeK f * 4)) else [], flags := flags }

/-- Whether a mixture is legal (R325): 0 illegal, 1 FP32 path, 2 RES63 path. -/
def mixture (wf : Nat) (wmx : Bool) (af : Nat) (amx : Bool) : Nat :=
  if (wf = 2 ∨ wf = 1) ∧ af = wf ∧ !wmx ∧ !amx then 1
  else if (wf = 3 ∨ wf = 4) ∧ (af = 3 ∨ af = 4) ∧ wmx ∧ amx then 1
  else if wf = 6 ∧ af = 6 ∧ !wmx ∧ !amx then 2
  else if (wf = 8 ∨ wf = 5) ∧ af = 2 ∧ !amx then 1
  else 0

/-! ### Accumulators (R322) -/

/-- Word of an accumulator tile. -/
def Last.accWord (l : Last) (t row col : Nat) : Nat := Tab.getD l.acc ((t * 128 + row) * 128 + col) 0
/-- Writes a word; a zero word is not listed. -/
def Last.setAcc (l : Last) (t row col v : Nat) : Last :=
  let k := (t * 128 + row) * 128 + col
  { l with acc := if v = 0 then Tab.erase l.acc k else Tab.set l.acc k v }
/-- The RES63 element of a pair. -/
def Last.accRes (l : Last) (t row col : Nat) : Nat := l.accWord t row col + 2 ^ 32 * l.accWord (t + 1) row col
/-- Contribution count of a row. -/
def Last.count (l : Last) (t row : Nat) : Nat := Tab.getD l.counts (t * 128 + row) 0
/-- Owner of a row: 1 + the quarter's number, or 0. -/
def Last.owner (l : Last) (t row : Nat) : Nat := Tab.getD l.owners (t * 128 + row) 0

/-! ### Requests (R326 to R328) -/

/-- Control-word fields (R345, R348, R349). -/
def ctlRow (c : Nat) : Nat := bits c 14 8
def ctlLow (c : Nat) : Nat := bits c 6 0
/-- Accumulator tile an X form's name field gives. -/
def accTile (n : BitVec 8) : Nat := n.toNat - 16
/-- Rows of an accumulator tile a request reads or writes: (tile, row). -/
def Req.rows (q : Req) : List (Nat × Nat) :=
  match q.kind with
  | .mstr =>
    let ms := q.lanes.map (fun r => ctlRow q.ctl + r.l % 8)
    let t := accTile q.x.d
    ms.map (fun m => (t, m)) ++ (if q.res then ms.map (fun m => (t + 1, m)) else [])
  | .mzero =>
    let ms := (List.range (ctlLow q.ctl + 1)).map (ctlRow q.ctl + ·)
    let t := accTile q.x.d
    ms.map (fun m => (t, m)) ++ (if q.x.md = 2 then ms.map (fun m => (t + 1, m)) else [])
  | .mdrn =>
    let ms := q.ctls.map (fun c => ctlRow c.1)
    let t := accTile q.x.a
    ms.map (fun m => (t, m)) ++ (if bit q.x.md.toNat 1 then ms.map (fun m => (t + 1, m)) else [])
  | _ => []
/-- Whether two lists share an element. -/
def overlaps (a b : List (Nat × Nat)) : Bool := a.any (fun x => b.contains x)
/-- Whether two requests conflict, so that they execute in acceptance order (R324, R327); `w` gives the local bytes a drain writes, as first
byte and length. -/
def Req.conflicts (w : Req → List (Nat × Nat)) (a b : Req) : Bool :=
  match a.kind, b.kind with
  | .last, .last => true
  | .last, .lswap => true
  | .lswap, .last => true
  | .lswap, .lswap => true
  | .last, .mstat => true
  | .mstat, .last => true
  | .lswap, .mstat => true
  | .mstat, .lswap => true
  | .lswap, .mstr => true
  | .mstr, .lswap => true
  | .mstr, .mstr => !(a.res && b.res) && overlaps a.rows b.rows
  | .mstr, .mzero => overlaps a.rows b.rows
  | .mzero, .mstr => overlaps a.rows b.rows
  | .mstr, .mdrn => overlaps a.rows b.rows
  | .mdrn, .mstr => overlaps a.rows b.rows
  | .mzero, .mzero => overlaps a.rows b.rows
  | .mzero, .mdrn => overlaps a.rows b.rows
  | .mdrn, .mzero => overlaps a.rows b.rows
  | .mdrn, .mdrn => (w a).any (fun x => (w b).any (fun y => decide (x.1 < y.1 + y.2) && decide (y.1 < x.1 + x.2)))
  | _, _ => false
/-- Accepted requests that have not executed, in acceptance order. -/
def Last.pending (l : Last) : List (Nat × Req) := l.table.filter (fun e => e.2.accepted)
/-- The format of the active plane once every accepted LSWAP has executed (R325). -/
def Last.formatAtGl (l : Last) (slotOf : Req → Word) : Nat × Bool :=
  (l.pending.foldl (fun (a : (Nat × Bool) × (Nat × Bool)) e =>
    match e.2.kind with
    | .last => (a.1, (slotFmt (slotOf e.2), slotMx (slotOf e.2)))
    | .lswap => (a.2, a.1)
    | _ => a) ((l.active.fmt, l.active.mx), (l.shadow.fmt, l.shadow.mx))).1
/-- Count of a row once every accepted request has executed (R333). -/
def Last.countAhead (l : Last) (t row : Nat) : Nat :=
  l.pending.foldl (fun c e =>
    match e.2.kind with
    | .mstr => if e.2.res && accTile e.2.x.d == t && e.2.rows.contains (t, row) then c + 256 else c
    | .mzero => if e.2.rows.contains (t, row) then 0 else c
    | _ => c) (l.count t row)
/-- Number of a quarter in its gang: rank, group, quarter (R334). -/
def quarterId (rank g quarter : Nat) : Nat := (rank * 32 + g) * 4 + quarter + 1
/-- Owner of a row once every accepted request has executed (R334). -/
def Last.ownerAhead (l : Last) (rank : Req → Nat) (t row : Nat) : Nat :=
  l.pending.foldl (fun o e =>
    match e.2.kind with
    | .mstr => if !e.2.res && o == 0 && e.2.rows.contains (t, row) then quarterId (rank e.2) e.2.g e.2.quarter else o
    | .mzero => if e.2.rows.contains (t, row) then 0 else o
    | _ => o) (l.owner t row)

/-! ### The arithmetic of a pass (R331 to R333) -/

/-- One column of an activation row against a plane: the accumulator word after every K-block, with the flags (R331). -/
def passColumn (p : Plane) (a : Nat → Val) (sa : Nat → Nat) (n acc : Nat) : Nat × FpFlags :=
  (List.range (planeK p.fmt / 32)).foldl (fun (x : Nat × FpFlags) b =>
    let s := blockSum ((List.range 32).map (fun k => (a (32 * b + k), p.weight (32 * b + k) n)))
    let t := scaleBlock (sa b) (p.scale b n) s
    let r := accAdd x.1 t.1
    (r.1, (x.2.or t.2).or r.2)) (acc, FpFlags.none)
/-- The exact sum of an INT8 row against a column (R333). -/
def intColumn (p : Plane) (a : Nat → Int) (n : Nat) : Int :=
  (List.range (planeK p.fmt)).foldl (fun s k => s + a k * signedOf 8 (elementAt p.rows (k * planeRowBytes p.fmt) 8 n)) 0
/-- One row of a pass into the accumulators: the row's first byte, its scale bytes, the target tile and row (R346). -/
def Last.passRow (l : Last) (fmt : Nat) (ftz : Bool) (res : Bool) (base scaleBase : Nat) (mx : Bool) (t m : Nat) : Last × FpFlags :=
  let p := l.active
  let w := fmtWidth fmt
  if res then
    let a (k : Nat) : Int := signedOf 8 (elementAt l.mb base 8 k)
    ((List.range 128).foldl (fun l n =>
      let v := resAdd (l.accRes t m n) (resEncode (intColumn p a n))
      (l.setAcc t m n (v % 2 ^ 32)).setAcc (t + 1) m n (v / 2 ^ 32)) { l with counts := Tab.set l.counts (t * 128 + m) (l.count t m + planeK p.fmt) },
     FpFlags.none)
  else
    let a (k : Nat) : Val := sourceVal fmt ftz (elementAt l.mb base w k)
    let sa (b : Nat) : Nat := if mx then (memGet l.mb (scaleBase + b)).toNat else 0x7F
    (List.range 128).foldl (fun (x : Last × FpFlags) n =>
      let v := passColumn p a sa n (x.1.accWord t m n)
      (x.1.setAcc t m n v.1, x.2.or v.2)) (l, FpFlags.none)
/-- Zero elements of an activation row: those skipped, and those multiplied because their plane row has its flag set (R332). -/
def Last.zeroElements (l : Last) (fmt base : Nat) : Nat × Nat :=
  let p := l.active
  let w := fmtWidth fmt
  (List.range (planeK p.fmt)).foldl (fun (x : Nat × Nat) k =>
    if elementAt l.mb base w k % 2 ^ (if fmt = 6 then 8 else w - 1) = 0 then
      (if p.flags.contains k then (x.1, x.2 + 1) else (x.1 + 1, x.2))
    else x) (0, 0)

end Sys2Proof.Machine
end

