-- ==== Sys2Proof/Machine/Matrix.lean ====
section
/-! DEFINITION. The instructions of the Last: posting, acceptance and execution of requests (R326 to R352). -/

namespace Sys2Proof.Machine

open Sys2Proof

/-! ### Operands -/

/-- A tile with one request more, or less, that holds it READY (R321). One that a drain with CLR would have emptied meanwhile is EMPTY when the
last of them lets go (log entry 76). -/
def Tile.held (x : Tile) (up : Bool) : Tile :=
  let x := { x with users := if up then x.users + 1 else x.users - 1 }
  if x.users = 0 ∧ x.clr ∧ x.drains = 0 ∧ x.state = 2 then x.emptied else x
/-- Changes the number of requests that hold a tile READY (R321). -/
def State.useTile (s : State) (t : Nat) (src : Nat × Nat × Nat) (up : Bool) : State :=
  if src.2.2 = 0 then s else
  let k := tileKey (s.team t).gcore (src.2.2 - 1)
  match Tab.find s.tiles k with
  | some x => s.setTile k (x.held up)
  | none => s
/-- A request with no operands. -/
def Req.blank (k : ReqKind) (x : XForm) : Req :=
  { kind := k, x := x, team := 0, g := 0, quarter := 0, lanes := [], ctl := 0, ctls := [], src := (0, 0, 0), scale := (0, 0, 0), gen := 0,
    prio := 0, accepted := false, at_ := 0, phase := 0, issue := 0, pc := 0, insn := 0, res := false }
/-- Posts a request for some lanes, which wait at their instruction until it is accepted (R326). -/
def State.postReq (s : State) (q : Req) : State :=
  match q.lanes with
  | [] => s
  | r :: _ =>
    let n := s.nextKey
    let cl := (s.team r.team).cluster
    let q := { q with team := r.team, g := r.g, prio := (s.gridOf r.team).prio, at_ := s.cycle, phase := (s.team r.team).dphase.toNat,
                      issue := n, pc := (s.lane r).pc.toNat, insn := s.cur.insn }
    let l := s.last cl
    let s := ({ s with nextKey := n + 1 } : State).setLast cl { l with table := Tab.set l.table n q }
    let s := (s.useTile r.team q.src true).useTile r.team q.scale true
    q.lanes.foldl (fun s p => s.hold p { kind := .request, x := q.x, insn := s.cur.insn, ea := cl, pa := 0, v1 := n, v2 := 0, deadline := none,
                                         order := n, issue := n }) s
/-- How a matrix instruction ends at issue: a fault in every active lane, an operand tile that is not READY yet, or done. -/
inductive MatEnd where
  | fault (code : Nat)
  | stay
  | done (s : State)
  deriving DecidableEq, Repr
/-- Whether a lane's registers are read (R340): in MDRN every working lane's; of the operands used once per request, those of the request's
first working lane whose own can be read (R20, R357). -/
def State.matrixReads (s : State) (i : Instr) (x : XForm) (r : LaneRef) : Bool :=
  let ws := s.workers (s.active x.p x.pn)
  ws.contains r &&
  (match i with
   | .mdrn _ => true
   | .mstr _ => ((ws.filter (fun q => q.l / 8 == r.l / 8)).takeWhile (· != r)).all (fun q => (parityFault i s q).1.isSome)
   | _ => (ws.takeWhile (· != r)).all (fun q => (parityFault i s q).1.isSome))
/-- A matrix instruction: members of the holding gang only (R340), and helper lanes pass (R22). `every` is a fault of every active lane, and
`f` acts for the working lanes. -/
def matrixX (i : Instr) (x : XForm) (f : State → List LaneRef → LaneRef → MatEnd) (s : State) (every : Option Nat := none) :
    Host.Outcome State Fault Refusal :=
  .next (execute x.p x.pn (staticFault i) (fun s r => if s.matrixReads i x r then parityFault i s r else (none, none)) (fun s rs =>
    if !s.holdsLast s.cur.team then s.raiseAll rs 0x0B
    else if let some c := every then s.raiseAll rs c
    else
      let pass (s : State) : State := (rs.filter (fun r => s.isHelper r)).foldl (fun s r => s.finish r x []) s
      match s.workers rs with
      | [] => pass s
      | r :: ws =>
        match f s (r :: ws) r with
        | .fault c => s.raiseAll rs c
        | .stay => s
        | .done s => pass s) s)

/-! ### Posting -/

/-- LAST (R343). -/
def execLast (x : XForm) (s : State) : Host.Outcome State Fault Refusal :=
  matrixX (.last x) x (fun s ws r =>
    match s.matSource r x.a.toNat, s.matSource r x.b.toNat with
    | some a, some b =>
      if !s.sourceReady r.team a || !s.sourceReady r.team b then .stay else
      let t := (s.gridOf r.team).slot x.fs.toNat
      let scaleLen := planeK (slotFmt t) * 4
      -- a scale source named mbN ends with its own buffer
      let limit := if b.2.2 = 0 then 32768 else b.2.1
      if (a.2.2 != 0 && decide (a.2.1 < 32768)) || (slotMx t && decide (limit < 1024 * x.c.toNat + scaleLen)) then .fault 0x0C
      else .done (s.postReq { Req.blank .last x with lanes := ws, src := a, scale := b })
    | _, _ => .fault 0x0B) s
/-- LSWAP (R344). -/
def execLswap (x : XForm) (s : State) : Host.Outcome State Fault Refusal :=
  matrixX (.lswap x) x (fun s ws _ => .done (s.postReq { Req.blank .lswap x with lanes := ws })) s
/-- MSTR posts one request for each quarter with a working lane (R345). -/
def execMstr (x : XForm) (s : State) : Host.Outcome State Fault Refusal :=
  matrixX (.mstr x) x (fun s ws r =>
    match s.matSource r x.a.toNat, s.matSource r x.c.toNat with
    | some a, some c =>
      if !s.sourceReady r.team a || !s.sourceReady r.team c then .stay else
      .done ((List.range 4).foldl (fun s k =>
        let qs := ws.filter (fun r => r.l / 8 == k)
        match qs with
        | [] => s
        | q :: _ =>
          let ctl := (s.reg q x.b.toNat).toNat
          s.postReq { Req.blank .mstr x with lanes := qs, quarter := k, ctl := ctl, src := a, scale := c, gen := bits ctl 31 16 }) s)
    | _, _ => .fault 0x0B) s
/-- MZERO (R348). -/
def execMzero (x : XForm) (s : State) : Host.Outcome State Fault Refusal :=
  matrixX (.mzero x) x (fun s ws r =>
    .done (s.postReq { Req.blank .mzero x with lanes := ws, ctl := (s.reg r x.b.toNat).toNat })) s
/-- MDRN (R349, R351): a bad control word faults its own lane. -/
def execMdrn (x : XForm) (s : State) : Host.Outcome State Fault Refusal :=
  let g := s.gridOf s.cur.team
  matrixX (.mdrn x) x (fun s ws _ =>
    let ctl (r : LaneRef) : Nat := (s.reg r x.b.toNat).toNat
    let bad (r : LaneRef) : Bool := bits (ctl r) 31 15 != 0 || bit (ctl r) 7 || decide (128 < ctlLow (ctl r) + x.c.toNat)
    let good := ws.filter (fun r => !bad r)
    let ctls := good.map (fun r => (ctl r, if bit x.md.toNat 0 then s.regRun r x.d.toNat 1 else 0))
    let s := s.raiseAll (ws.filter bad) 0x0C
    .done (s.postReq { Req.blank .mdrn x with lanes := good, ctls := ctls })) s
    (if g.det && slotRnd (g.slot x.fs.toNat) == 4 && g.ngroups != 1 then some 0x19 else none)
/-- MSTAT (R352). -/
def execMstat (x : XForm) (s : State) : Host.Outcome State Fault Refusal :=
  matrixX (.mstat x) x (fun s ws _ => .done (s.postReq { Req.blank .mstat x with lanes := ws })) s

/-! ### Acceptance (R326) -/

/-- The slot of a request. -/
def State.reqSlot (s : State) (q : Req) : Word := (s.gridOf q.team).slot q.x.fs.toNat
/-- Bytes of an activation row (R345). -/
def rowBytes (k fmt : Nat) : Nat := k * fmtWidth fmt / 8
/-- The fault of an MSTR at acceptance, the first in the order of R345, with its path. -/
def State.mstrCheck (s : State) (l : Last) (q : Req) : Except Nat Bool :=
  let t := s.reqSlot q
  let w := l.formatAtGl s.reqSlot
  let af := slotFmt t
  let mx := slotMx t
  let mix := mixture w.1 w.2 af mx
  let k := planeK w.1
  let noScale := q.x.c == 255
  let a := accTile q.x.d
  if mix = 0 ∨ (mx && noScale) ∨ (!mx && !noScale) ∨ (mix = 2 ∧ a % 2 = 1) then .error 1
  else
    let ctl := q.ctl
    let rows := q.lanes.map (fun r => ctl % 256 + r.l % 8)
    let rb := rowBytes k af
    if bit ctl 15 ∨ 120 < ctlRow ctl ∨ rows.any (fun r => decide (q.src.2.1 < (r + 1) * rb))
        ∨ (mx && rows.any (fun r => decide (q.scale.2.1 < (r + 1) * (k / 32)))) then .error 0x0C
    else if q.gen ≠ (l.gl : Nat) then .error 0x0B
    else
      let ms := q.lanes.map (fun r => ctlRow ctl + r.l % 8)
      if mix = 2 then
        (if ms.any (fun m => decide (2 ^ 48 - 2 ^ 6 ≤ l.countAhead a m + 256)) then .error 0x18 else .ok true)
      else
        let me := quarterId (s.rankOf q.team) q.g q.quarter
        if (s.gridOf q.team).det && ms.any (fun m =>
            let o := l.ownerAhead (fun p => s.rankOf p.team) a m
            o != 0 && o != me) then .error 0x19
        else .ok false
/-- Bytes of a drain's element run. -/
def State.drainBytes (s : State) (q : Req) : Nat := q.x.c.toNat * fmtWidth (slotFmt (s.reqSlot q)) / 8
/-- The fault of a .LM lane at acceptance (R349). -/
def State.drainFault (s : State) (q : Req) (r : LaneRef) (addr : Nat) : Option Nat :=
  if !bit q.x.md.toNat 0 then none
  else if addr % 4 ≠ 0 then some 4
  else if (s.localPlace r.team addr (s.drainBytes q)).isNone then some 9
  else none
/-- Faults held lanes of a request. -/
def State.faultReq (s : State) (rs : List LaneRef) (code : Nat) : State := rs.foldl (fun s r => s.faultHeld r code) s
/-- Takes a request out of the table; its tiles are held no longer (R321). -/
def State.dropReq (s : State) (cl n : Nat) (q : Req) : State :=
  let l := s.last cl
  ((s.setLast cl { l with table := Tab.erase l.table n }).useTile q.team q.src false).useTile q.team q.scale false
/-- One lane leaves a request that has not been accepted; the request stays for its other lanes (R326, R342). -/
def State.leaveReq (s : State) (cl n : Nat) (q : Req) (r : LaneRef) : State :=
  let rest := q.lanes.filter (· != r)
  let l := s.last cl
  if rest.isEmpty then s.dropReq cl n q
  else
    let q := { q with lanes := rest, ctls := ((q.lanes.zip q.ctls).filter (fun e => e.1 != r)).map Prod.snd }
    s.setLast cl { l with table := Tab.set l.table n q }
/-- The registers a request will write in each lane. -/
def State.reqWrites (s : State) (q : Req) : List (Nat × Word) :=
  match q.kind with
  | .mdrn => if bit q.x.md.toNat 0 then [] else runWrites q.x.d.toNat 0 (s.drainBytes q / 4)
  | .mstat => runWrites q.x.d.toNat 0 2
  | _ => []
/-- The lanes of an accepted request go on, with an operation in flight each until it has executed (R326, R171). -/
def State.acceptReq (s : State) (cl n : Nat) (q : Req) : State :=
  let l := s.last cl
  let s := s.setLast cl { l with table := Tab.set l.table n { q with accepted := true, at_ := s.cycle } }
  let ws := s.reqWrites q
  let one := q.kind == .mstat && decide (128 ≤ q.x.d.toNat)
  let lastLane := q.lanes.getLast?
  q.lanes.foldl (fun s r =>
    let k := s.nextKey
    let o : Op := { lane := r, issue := q.issue, together := true, slot := slotOf q.x, writes := if one && lastLane != some r then [] else ws, preds := [],
                    wait := .request cl n, phase := 0, fill := none, mark := (s.lane r).issues,
                    info := { code := 0, detail := 0, len := 4, addr := 0, insn := q.insn, fpc := q.pc }, late := none }
    ({ s with ops := Tab.set s.ops k o, nextKey := k + 1 } : State).modLane r (fun y =>
      { y with cond := .running, pc := y.pc + 8, since := s.cycle + 1, released := none })) s
/-- REQUEST_ACCEPTANCE: the Last judges the oldest posted request, while the table of 32 has room (R326). -/
def execRequestAcceptance (cl : Nat) (s : State) : Host.Outcome State Fault Refusal :=
  .next (let l := s.last cl
    match l.table.find? (fun e => !e.2.accepted) with
    | none => s
    | some (n, q) =>
      if 32 ≤ l.pending.length then s else
      match q.kind with
      | .last => s.acceptReq cl n q
      | .lswap => (s.setLast cl { l with gl := (l.gl + 1) % 2 ^ 16 }).acceptReq cl n q
      | .mstat => s.acceptReq cl n q
      | .mzero =>
        if bits q.ctl 31 15 ≠ 0 ∨ bit q.ctl 7 ∨ 127 < ctlRow q.ctl + ctlLow q.ctl then (s.dropReq cl n q).faultReq q.lanes 0x0C
        else s.acceptReq cl n q
      | .mstr =>
        (match s.mstrCheck l q with
         | .error c => (s.dropReq cl n q).faultReq q.lanes c
         | .ok res => s.acceptReq cl n { q with res := res })
      | .mdrn =>
        let es := q.lanes.zip q.ctls
        let s1 := es.foldl (fun s' e => match s.drainFault q e.1 e.2.2 with
          | some c => s'.faultHeld e.1 c e.2.2
          | none => s') s
        let good := es.filter (fun e => (s.drainFault q e.1 e.2.2).isNone)
        if good.isEmpty then s1.dropReq cl n q
        else s1.acceptReq cl n { q with lanes := good.map Prod.fst, ctls := good.map Prod.snd })

/-! ### Execution -/

/-- Local bytes a .LM drain writes, wherever its addresses reach (R181, R327). -/
def State.drainRanges (s : State) (q : Req) : List (Nat × Nat) :=
  if q.kind == .mdrn && bit q.x.md.toNat 0 then
    q.ctls.filterMap (fun c => (s.localPlace q.team c.2 (s.drainBytes q)).map (fun p => (localKey p.1 p.2, s.drainBytes q)))
  else []
/-- The requests of a Last that may execute: every conflicting one accepted before has executed (R324, R327, R328). -/
def State.eligibleAll (s : State) (cl : Nat) : List (Nat × Req) :=
  let ps := (s.last cl).pending
  ps.filter (fun e => !ps.any (fun d => decide (d.1 < e.1) && Req.conflicts s.drainRanges d.2 e.2))
/-- Whether a request has waited 4,096 cycles since its acceptance (R328). -/
def Req.aged (q : Req) (cycle : Nat) : Bool := decide (q.at_ + 4096 ≤ cycle)
/-- The order in which the arbiter ranks eligible requests (R328): those past the age cap by age; then by priority; then by age. Requests are
numbered in the order of acceptance. -/
def ranksBefore (cycle : Nat) (a b : Nat × Req) : Bool :=
  if a.2.aged cycle != b.2.aged cycle then a.2.aged cycle
  else if a.2.aged cycle || a.2.prio == b.2.prio then decide (a.1 < b.1)
  else decide (b.2.prio < a.2.prio)
/-- The request that the arbiter of a Last grants next (R328). -/
def State.grant (s : State) (cl : Nat) : Option (Nat × Req) :=
  match s.eligibleAll cl with
  | [] => none
  | e :: es => some (es.foldl (fun a b => if ranksBefore s.cycle b a then b else a) e)
/-- The request of a kind with a number, where it is granted next. -/
def State.eligible (s : State) (cl n : Nat) (k : ReqKind) : Option Req :=
  match s.grant cl with
  | some (m, q) => if m = n ∧ q.kind = k then some q else none
  | none => none
/-- Counts a grant under the age cap (R338). -/
def State.countGrant (s : State) (cl : Nat) (q : Req) : State := if q.aged s.cycle then s.count 2 cl 6 else s
/-- Ends an executed request: its operations are ready, with the register writes that `ws` gives each lane, or its fault and its address (R171, R301, R489); an
advance of the dither phase comes with their completion (R58). -/
def State.endReq (s : State) (cl n : Nat) (q : Req) (ws : LaneRef → Option (List (Nat × Word))) (late : LaneRef → Option (Nat × Nat))
    (phase : Nat := 0) : State :=
  let s := (s.dropReq cl n q).countGrant cl q
  let one := (s.ops.find? (fun e => e.2.wait == .request cl n && (late e.2.lane).isNone)).map Prod.fst
  let s := if phase ≠ 0 ∧ one.isNone then s.modTeam q.team (fun t => { t with dphase := t.dphase + BitVec.ofNat 5 phase }) else s
  { s with ops := s.ops.map (fun e =>
      if e.2.wait == .request cl n then
        (e.1, { e.2 with wait := .ready, phase := if one = some e.1 then phase else 0,
                         writes := if e.2.writes.isEmpty then e.2.writes else (ws e.2.lane).getD e.2.writes,
                         late := (late e.2.lane).map (fun c => { e.2.info with code := c.1, addr := c.2 }) })
      else e) }
/-- Uncorrectable data that the Last reads is replaced by zeros: MEMDROP of the posting team, or under STRICT a stop (R431, R432). -/
def State.operandBad (s : State) (cl t base len : Nat) : State :=
  if ((s.last cl).mbBad).any (fun k => decide (base < 64 * k + 64) && decide (64 * k < base + len)) then
    let s := s.count 4 0 5
    if (s.gridOf t).strict then s.stopLost (s.team t).grid 0 else s.setTerr t 0
  else s
/-- LAST_EXECUTE (R343). -/
def execLastExecute (cl n : Nat) (s : State) : Host.Outcome State Fault Refusal :=
  .next (match s.eligible cl n .last with
    | none => s
    | some q =>
      let s := s.operandBad cl q.team q.src.1 32768
      let l := s.last cl
      let p := loadPlane l.mb q.src.1 (q.scale.1 + 1024 * q.x.c.toNat) (s.reqSlot q)
      (s.setLast cl { l with shadow := p, shv := true }).endReq cl n q (fun _ => none) (fun _ => none))
/-- LSWAP_EXECUTE (R344). -/
def execLswapExecute (cl n : Nat) (s : State) : Host.Outcome State Fault Refusal :=
  .next (match s.eligible cl n .lswap with
    | none => s
    | some q =>
      let l := s.last cl
      (s.setLast cl { l with active := l.shadow, shadow := l.active, ga := (l.ga + 1) % 2 ^ 16, shv := false }).endReq cl n q
        (fun _ => none) (fun _ => none))
/-- One quarter of a pass (R346). -/
def State.passQuarter (s : State) (cl : Nat) (q : Req) : State :=
  let t := s.reqSlot q
  let k := planeK (s.last cl).active.fmt
  let rb := rowBytes k (slotFmt t)
  let a := accTile q.x.d
  let me := quarterId (s.rankOf q.team) q.g q.quarter
  q.lanes.foldl (fun s r =>
    let row := q.ctl % 256 + r.l % 8
    let m := ctlRow q.ctl + r.l % 8
    let base := q.src.1 + row * rb
    let s := s.operandBad cl q.team base rb
    let l := s.last cl
    let z := l.zeroElements (slotFmt t) base
    let l := if q.res || l.owner a m != 0 || !(s.gridOf q.team).det then l else { l with owners := Tab.set l.owners (a * 128 + m) me }
    let v := l.passRow (slotFmt t) (slotFtz t) q.res base (q.scale.1 + row * (k / 32)) (slotMx t) a m
    (((s.setLast cl v.1).setFlags q.team v.2).count 2 cl 3 z.1).count 2 cl 4 z.2) s
/-- Whether a quarter may join another in a pass (R329): one generation and activation slot, and no shared row. -/
def Req.joins (a b : Req) : Bool := a.gen == b.gen && a.x.fs == b.x.fs && !overlaps a.rows b.rows
/-- The quarters that a pass may hold (R329): the granted one, then those that may join, in order of age, up to 16 in all. -/
def State.fullPass (s : State) (cl : Nat) : List (Nat × Req) :=
  match s.grant cl with
  | none => []
  | some o =>
    if o.2.kind ≠ .mstr then [] else
    ((s.eligibleAll cl).filter (fun e => e.2.kind == .mstr && e.1 != o.1)).foldl (fun ps e =>
      if ps.length < 16 && ps.all (fun p => e.2.joins p.2) then ps ++ [e] else ps) [o]
/-- MSTR_PASS: one pass of fused quarters (R328 to R333): the granted one with as many of those that join as the event names, the oldest
first. -/
def execMstrPass (cl : Nat) (ns : List Nat) (s : State) : Host.Outcome State Fault Refusal :=
  .next (let qs := (s.fullPass cl).take ns.length
    if ns.isEmpty ∨ qs.map Prod.fst ≠ ns then s else
    let s := ((s.count 2 cl 0).count 2 cl 1 qs.length).count 2 cl 2 (qs.length - 1)
    -- what the row lanes move among themselves is not architectural (R330; log entry 67)
    let s := ({ s with freeCount := s.freeCount + 1 } : State).count 2 cl 5 (Config.freeValue s.freeCount)
    let s := qs.foldl (fun s e => (s.passQuarter cl e.2).endReq cl e.1 { e.2 with at_ := s.cycle } (fun _ => none) (fun _ => none)) s
    match qs with
    | o :: _ => s.countGrant cl o.2
    | [] => s)
/-- Clears a row of a tile (R348). -/
def Last.clearRow (l : Last) (t m : Nat) : Last :=
  let lo := (t * 128 + m) * 128
  { l with acc := l.acc.filter (fun e => decide (e.1 < lo) || decide (lo + 128 ≤ e.1)) }
/-- MZERO_EXECUTE (R348). -/
def execMzeroExecute (cl n : Nat) (s : State) : Host.Outcome State Fault Refusal :=
  .next (match s.eligible cl n .mzero with
    | none => s
    | some q =>
      let l := q.rows.foldl (fun (l : Last) e =>
        let l := l.clearRow e.1 e.2
        { l with counts := Tab.erase l.counts (e.1 * 128 + e.2), owners := Tab.erase l.owners (e.1 * 128 + e.2) }) (s.last cl)
      (s.setLast cl l).endReq cl n q (fun _ => none) (fun _ => none))

/-- The converted elements of a drain's lane (R349). -/
def State.drainElements (s : State) (l : Last) (q : Req) (ctl : Nat) : List Conv :=
  let t := s.reqSlot q
  let res := bit q.x.md.toNat 1
  -- the target slot's FTZ flushes sources too (R40)
  let src : Word := if res then 10 else if slotFtz t then 4096 else 0
  (List.range q.x.c.toNat).map (fun i =>
    let col := ctlLow ctl + i
    let v := if res then l.accRes (accTile q.x.a) (ctlRow ctl) col else l.accWord (accTile q.x.a) (ctlRow ctl) col
    convertCode t src (col % 32) q.phase v)
/-- Elements packed at width w (R33). -/
def packElements (w : Nat) (cs : List Conv) : Nat := cs.zipIdx.foldl (fun n e => n + e.1.code * 2 ^ (w * e.2)) 0
/-- What an engine's write of local bytes came to: the state, whether a fill met uncorrectable data, and a fault of a transition (R185,
R186). -/
structure EngineEnd where
  s : State
  drop : Bool
  fault : Option Nat
  deriving DecidableEq, Repr
/-- An engine's write of a piece of a team's region that lies within one sector, through the stash (R185). -/
def State.enginePiece (s : State) (t off : Nat) (bs : List Byte) : EngineEnd :=
  match (s.team t).stashAt off with
  | none => { s := (s.pokeLocal t off bs).breakLocal t (lineOf off), drop := false, fault := none }
  | some (m, k, mp) =>
    match s.stashWrite t m k mp (decide (bs.length = 64)) false with
    | .ok s d _ => { s := (s.pokeLocal t off bs).breakLocal t (lineOf off), drop := d, fault := none }
    | .fault s c => { s := s, drop := false, fault := some c }
    | .late s c => { s := s, drop := false, fault := some c }
/-- An engine's write of words of a team's region. -/
def State.engineLocal (s : State) (t off : Nat) (bs : List Byte) : EngineEnd :=
  (List.range (bs.length / 4)).foldl (fun (a : EngineEnd) i =>
    let w := a.s.enginePiece t (off + 4 * i) ((bs.drop (4 * i)).take 4)
    { w with drop := a.drop || w.drop, fault := a.fault.or w.fault }) { s := s, drop := false, fault := none }
/-- MDRN_EXECUTE (R349, R350). -/
def execMdrnExecute (cl n : Nat) (s : State) : Host.Outcome State Fault Refusal :=
  .next (match s.eligible cl n .mdrn with
    | none => s
    | some q =>
      let l := s.last cl
      let w := fmtWidth (slotFmt (s.reqSlot q))
      let lm := bit q.x.md.toNat 0
      let out := (q.lanes.zip q.ctls).map (fun e => (e.1, e.2.2, s.drainElements l q e.2.1))
      let traps (cs : List Conv) : Bool := cs.any (·.trap)
      let s := out.foldl (fun s e => e.2.2.foldl (fun s c => if c.trap then s else s.setFlags q.team c.flags) s) s
      let r := out.foldl (fun (a : State × List (LaneRef × Nat × Nat)) e =>
        if traps e.2.2 then (a.1, (e.1, 0x17, 0) :: a.2)
        else if !lm then a
        else match a.1.localPlace q.team e.2.1 (a.1.drainBytes q) with
          | none => (a.1, (e.1, 9, e.2.1) :: a.2)
          | some (t, off) =>
            let v := a.1.engineLocal t off (leBytes (a.1.drainBytes q) (packElements w e.2.2))
            -- a fill that meets uncorrectable data (R186)
            let b := v.s.metBad e.1 3 v.drop
            (b.1, match v.fault.or b.2 with | some c => (e.1, c, e.2.1) :: a.2 | none => a.2)) (s, [])
      r.1.endReq cl n q
        (fun p => (out.find? (fun e => e.1 == p)).map (fun e => runWrites q.x.d.toNat (packElements w e.2.2) (s.drainBytes q / 4)))
        (fun p => (r.2.find? (fun e => e.1 == p)).map Prod.snd) (if slotRnd (s.reqSlot q) = 4 then 1 else 0))

/-- The status word (R337, R352). -/
def State.statusWord (s : State) (cl n : Nat) (q : Req) : Nat :=
  let l := s.last cl
  let b (x : Bool) : Nat := if x then 1 else 0
  let occ := if (s.gridOf q.team).det then 0 else (l.pending.filter (fun e => e.1 != n)).length
  l.ga * 2 ^ 48 + l.gl * 2 ^ 32 + b l.shv * 2 ^ 31 + b (!l.active.flags.isEmpty) * 2 ^ 30 + occ % 64 * 2 ^ 24 + s.rankOf q.team * 2 ^ 22
    + b l.active.mx * 2 ^ 17 + l.active.fmt * 2 ^ 12 + l.walks.length * 2 ^ 6
/-- MSTAT_EXECUTE (R352). -/
def execMstatExecute (cl n : Nat) (s : State) : Host.Outcome State Fault Refusal :=
  .next (match s.eligible cl n .mstat with
    | none => s
    | some q => s.endReq cl n q (fun _ => some (runWrites q.x.d.toNat (s.statusWord cl n q) 2)) (fun _ => none))

end Sys2Proof.Machine
end

