-- ==== Sys2Proof/Machine/Quiesce.lean ====
section
/-! DEFINITION. Quiescence of a team (R31, R200, R230, R257, R276, R307, R342, R483): its held lanes are withdrawn and its work in flight
runs on until none is left. -/

namespace Sys2Proof.Machine

open Sys2Proof

/-- A lane leaves every waiting line. -/
def State.leaveLines (s : State) (r : LaneRef) : State := s.dropWaiters (fun w => w.lane == r)
/-- A held BARW at SAVE: its arrival is withdrawn at the home while the phase still stands (R257). -/
def State.withdrawBarw (s : State) (r : LaneRef) (h : Hold) : State :=
  match s.waiters.find? (fun e => e.2.lane == r) with
  | none => s
  | some (_, w) =>
    match s.objRead (s.team r.team).gcore w.at 16 true with
    | .ok bs bad s1 =>
      let b := s1.metBad r (if w.localTo = 0 then 3 else 5) bad
      let n := leNat bs
      (match b.2 with
       | some c => (b.1.leaveLines r).faultHeld r c h.ea
       | none => ((if barPhase n = h.v2 ∧ !bad then b.1.objWrite w.at 0 (leBytes 16 (barUnarrive n)) else b.1).leaveLines r).withdraw r)
    | .fault s _ => (s.leaveLines r).withdraw r
    | .late s _ => (s.leaveLines r).withdraw r
/-- The operation of a team that waits for the reply to a held instruction's request. -/
def State.awaited (s : State) (r : LaneRef) (h : Hold) : Option Nat :=
  (s.ops.find? (fun e => e.2.lane.team == r.team && e.2.slot.isNone && e.2.info.code != takeBackCode &&
    (if h.kind = .chain then e.2.info.code == 0xFF else e.2.lane == r && h.awaits e.2))).map Prod.fst
/-- The operation of a held BWAIT or BARW that is on its way to a gang member's region. -/
def State.onTheWay (s : State) (r : LaneRef) : Option Nat :=
  (s.ops.find? (fun e => e.2.lane == r && e.2.slot.isNone && (match e.2.wait with | .gang _ _ _ _ _ => true | _ => false))).map Prod.fst
/-- Withdraws a lane held in a blocking instruction. TFREE completes instead (R230). Of a request that waits at another device the withdrawal
is asked for there; an arrival at such an object goes on to its wait first. `stands` leaves a BARW's arrival in force, as a flush does
(R257). -/
def State.withdrawHeld (s : State) (r : LaneRef) (stands : Bool) : State :=
  match (s.lane r).cond with
  | .held h =>
    match h.kind with
    | .tfree => s
    | .barw =>
      if let some k := s.onTheWay r then ({ s with ops := Tab.erase s.ops k } : State).withdraw r else
      if h.pkt ≠ 0 then
        (match s.awaited r h with
         | some k => if h.v2 = 2 ^ 16 then s else s.askBack k (if stands then 2 ^ 16 else h.v2)
         | none => s)
      else if stands then (s.leaveLines r).withdraw r
      else s.withdrawBarw r h
    | .bwait =>
      if let some k := s.onTheWay r then ({ s with ops := Tab.erase s.ops k } : State).withdraw r else
      (match s.awaited r h with
       | some k => s.askBack k (2 ^ 16)
       | none => (s.leaveLines r).withdraw r)
    | .chain =>
      (match s.awaited r h with
       | some k => s.askBack k (2 ^ 16)
       | none => (({ s with chains := s.chains.filter (fun e => e.2.team != r.team) } : State).leaveLines r).withdraw r)
    | .request =>
      (match Tab.find (s.last h.ea).table h.v1 with
       | some q => ((if q.accepted then s else s.leaveReq h.ea h.v1 q r)).withdraw r
       | none => s.withdraw r)
    | .gettime => (s.withdraw r).sampleTime h.issue
    | .ldv => s.withdraw r
    | .twait => s.withdraw r
    | .hstep => s.withdraw r
    | .cwait => s.withdraw r
    | .enq => (s.leaveLines r).withdraw r
    | .deq => (s.leaveLines r).withdraw r
  | _ => s
/-- A lane stands down: it is at home (R32), and where it waited it stands at its instruction (R152, R257). -/
def State.standDown (s : State) (r : LaneRef) (stands : Bool) : State :=
  let s := (s.returnHome r).withdrawHeld r stands
  s.modLane r (fun x => match x.cond with
    | .join j => { x with cond := .running, back := some j }
    | .waitj j => { x with cond := .running, back := some j }
    | .tbar _ => { x with cond := .running }
    | _ => x)
/-- A team stops issuing: its lanes stand down. -/
def State.stopTeam (s : State) (t : Nat) (p : Phase) (stands : Bool) : State :=
  (s.teamLanes t).foldl (fun s r => s.standDown r stands) (s.modTeam t (fun x => { x with phase := p }))
/-- A started command of a team is incomplete. -/
def Team.copying (t : Team) : Bool := t.ring.started.any (fun c => !c.complete)
/-- Whether bytes are on their way into a team's tiles, or a started command of a gang member may still deliver to it (R200). -/
def State.inbound? (s : State) (t : Nat) : Bool :=
  (s.team t).copying || s.landings.any (fun e => e.2.team == t || (match e.2.cmd with | some c => c.1 == t | none => false))
    || s.teams.any (fun e => e.2.ring.started.any (fun c => c.members.contains t && !c.complete))
/-- Whether nothing of a team's work is in flight any more (R31). -/
def State.quiet (s : State) (t : Nat) : Bool :=
  !(s.ops.any (fun e => e.2.lane.team == t)) && !(s.commits.any (fun e => e.2.lane.team == t)) && !s.inbound? t
    && (s.teamLanes t).all (fun r => match (s.lane r).cond with | .held _ => false | _ => true)

end Sys2Proof.Machine
end

