-- ==== Sys2Proof/Machine/RingEvents.lean ====
section
/-! DEFINITION. The command rings of teams and their block-transfer engines (R192 to R201). -/

namespace Sys2Proof.Machine

open Sys2Proof

/-! ### The ring -/

/-- Log of the ring's size; 0 for none (R192, R380). -/
def Grid.cring (g : Grid) : Nat := bits g.regs 11 8
/-- Entries of a team's ring. -/
def State.ringSize (s : State) (t : Nat) : Nat := 2 ^ (s.gridOf t).cring
/-- Changes a team's ring. -/
def State.modRing (s : State) (t : Nat) (f : Ring → Ring) : State := s.modTeam t (fun x => { x with ring := f x.ring })
/-- A sector in which an engine has met uncorrectable data: the counter of the events (3 for DRAM, 5 for SRAM), a number for the sector, and
its global address, or 0 where it has none (R430 to R432). -/
structure BadSector where
  counter : Nat
  key : Nat
  addr : Nat
  deriving DecidableEq, Repr
/-- Adds a sector to a list, once. -/
def addBad (bad : List BadSector) (b : BadSector) : List BadSector := if bad.any (fun c => c.key == b.key) then bad else bad ++ [b]
/-- Uncorrectable data met by an engine: MEMDROP of the ring's team and a count for each sector (R194, R201, R431); under STRICT the grid stops
(R432). -/
def State.engineBad (s : State) (t : Nat) (bad : List BadSector) : State :=
  bad.foldl (fun s b =>
    let s := (s.count 1 (s.ringEngine t) 6).count 4 0 b.counter
    if (s.gridOf t).strict then s.stopLost (s.team t).grid b.addr else s.setTerr t 0) s
/-- The global address to which a sector of a team's region is mapped, or 0. -/
def State.mappedAt (s : State) (t off : Nat) : Nat := match (s.team t).stashAt off with | some (_, k, mp) => mp.gaddr + 64 * k | none => 0
/-- Writes a word of the ring header (R192); a fill that this causes may meet uncorrectable data (R186). Where the transition faults the write
is lost (log entry 77). -/
def State.ringWord (s : State) (t off v : Nat) : State :=
  let w := s.engineLocal t off (leBytes 4 v)
  w.s.engineBad t (if w.drop then [{ counter := 3, key := localKey t off / 64 * 64, addr := s.mappedAt t off }] else [])
/-- Records a command error: only the first is kept (R198). -/
def State.ringErr (s : State) (t code idx : Nat) : State :=
  if bit (s.team t).ring.err 31 then s else
  let v := 2 ^ 31 + code * 2 ^ 16 + idx % 2 ^ 16
  (s.modRing t (fun r => { r with err := v })).ringWord t 12 v
/-- Halts a ring with an error (R198); a ring is counted once. -/
def State.ringHalt (s : State) (t code idx : Nat) : State :=
  let s1 := (s.ringErr t code idx).modRing t (fun r => { r with halted := true })
  if (s.team t).ring.halted then s1 else s1.count 1 (s.ringEngine t) 5
/-- A started command ends in a translation error: its ring halts, and DONE does not pass it (R198). -/
def State.failCommand (s : State) (c : Nat × Nat) : State :=
  (s.modRing c.1 (fun r => { r with started := r.started.map (fun d => if d.index = c.2 then { d with failed := true } else d) })).ringHalt c.1 5 c.2
/-- Whether the engine may act on a team's ring. -/
def State.ringLive (s : State) (t : Nat) : Bool :=
  let x := s.team t
  x.phase == .running && decide (2 ≤ (s.gridOf t).cring) && !x.ring.halted && (s.gridOf t).stop.isNone
/-- A word of a team's region as the engine reads it, through the stash (R185), with the sector if it met uncorrectable data; a fault of a
transition. -/
def State.engineRead (s : State) (t off : Nat) : Except State (Nat × List BadSector × State) :=
  let plain (s : State) (d : Bool) : Nat × List BadSector × State :=
    let b := (s.team t).localBad.contains (off / 64)
    (if b || d then 0 else leNat (memGetN (s.team t).localMem off 4),
     if b || d then [{ counter := if d then 3 else 5, key := localKey t off / 64 * 64, addr := s.mappedAt t off }] else [], s)
  match (s.team t).stashAt off with
  | none => .ok (plain s false)
  | some (m, k, mp) =>
    match s.stashRead t m k mp false with
    | .ok s d _ => .ok (plain s d)
    | .fault s _ => .error s
    | .late s _ => .error s
/-- TAIL_OBSERVATION: the engine observes a TAIL store (R195). An overrun is no entry's error; ERR names HEAD (log entry 63). -/
def execTailObservation (t : Nat) (s : State) : Host.Outcome State Fault Refusal :=
  .next (if !s.ringLive t then s else
    match s.engineRead t 0 with
    | .error _ => s
    | .ok (v, d, s) =>
      let r := (s.team t).ring
      let s := s.engineBad t d
      if s.ringSize t < (v + (2 ^ 32 - r.head)) % 2 ^ 32 then s.ringHalt t 6 r.head
      else s.modRing t (fun r => { r with tail := v }))

/-! ### Entries (R193) -/

/-- A command entry's fields. -/
structure Entry where
  kind : Nat
  rearm : Bool
  close : Bool
  clr : Bool
  tv : Bool
  tile : Nat
  rows : Nat
  len : Nat
  gaddr : Nat
  laddr : Nat
  lstride : Int
  gstride : Int
  /-- Fields that must be zero are zero, and LEN is in range. -/
  formed : Bool
  /-- Every address and stride is a multiple of 4. -/
  aligned : Bool
  deriving DecidableEq, Repr

/-- Reads an entry from its four words. -/
def entryOf (w0 w1 w2 w3 : Nat) : Entry :=
  let kind := bits w0 3 0
  let len := bits w0 63 44
  let tv := bit w0 21
  let inbound := kind == 1 || kind == 3 || kind == 4 || kind == 5
  let fill := kind == 5
  let formed :=
    if kind = 0 then w0 == 0 && w1 == 0 && w2 == 0 && w3 == 0
    else decide (kind ≤ 5) && bits w0 17 4 == 0 && (tv || bits w0 27 22 == 0) && (!bit w0 20 || (kind == 2 && tv)) && (!bit w0 19 || inbound)
      && (!bit w0 18 || (inbound && tv)) && bits w3 63 48 == 0 && !(fill && bits w3 47 0 != 0) && !((fill || kind == 3) && bits w1 63 32 != 0)
      && len % 4 == 0 && (decide (4 ≤ len) || (fill && bit w0 18))
  { kind := kind, rearm := bit w0 18, close := bit w0 19, clr := bit w0 20, tv := tv, tile := bits w0 27 22, rows := bits w0 43 28 + 1, len := len,
    gaddr := w1, laddr := bits w2 31 0, lstride := signedOf 32 (bits w2 63 32), gstride := signedOf 48 (bits w3 47 0), formed := formed,
    aligned := bits w2 31 0 % 4 == 0 && bits w2 63 32 % 4 == 0 && bits w3 47 0 % 4 == 0 && (fill || w1 % 4 == 0) }
/-- Inbound commands (R194). -/
def Entry.inbound (e : Entry) : Bool := e.kind == 1 || e.kind == 3 || e.kind == 4 || e.kind == 5
/-- First local-side addresses of the rows, and first GADDR-side addresses. -/
def Entry.lrow (e : Entry) (r : Nat) : Int := (e.laddr : Int) + r * e.lstride
def Entry.grow (e : Entry) (r : Nat) : Int := (e.gaddr : Int) + r * e.gstride
/-- The rows of a command that moves something. -/
def Entry.rowList (e : Entry) : List Nat := if e.len = 0 then [] else List.range e.rows

/-! ### Local places -/

/-- The team and offset that a row of `n` bytes of local memory reaches, whole (R181, R198); a team with a closed inbound gate is absent
to a writer (R200). Of a row address at or above 2^32 the low 32 bits are taken (log entry 65). -/
def State.rowPlace (s : State) (t : Nat) (a : Int) (n : Nat) (write : Bool) : Option (Nat × Nat) :=
  if a < 0 then none else
  match s.localPlace t a.toNat n with
  | none => none
  | some (u, off) => if write && !(s.team u).gate then none else some (u, off)
/-- Where a row of the local side lies: in a tile at an offset, or in a region. -/
inductive RowAt where
  | tile (off : Nat)
  | region (t off : Nat)
  deriving DecidableEq, Repr
/-- The place of a row, within its tile where the command names one (R193). -/
def State.entryRow (s : State) (t : Nat) (e : Entry) (tl : Option Tile) (r : Nat) : Option RowAt :=
  let a := e.lrow r
  match tl with
  | some x =>
    if x.kind then (if 0 ≤ a ∧ a.toNat + e.len ≤ x.bytes then some (.tile a.toNat) else none)
    else match s.rowPlace t a e.len e.inbound with
      | none => none
      | some (u, off) =>
        if u = t ∧ x.base * 512 ≤ off ∧ off + e.len ≤ x.base * 512 + x.bytes then some (.tile (off - x.base * 512)) else none
  | none => (s.rowPlace t a e.len e.inbound).map (fun p => .region p.1 p.2)
/-- Every row's place, or none where a row lies outside (R198). -/
def State.entryRows (s : State) (t : Nat) (e : Entry) (tl : Option Tile) : Option (List RowAt) :=
  e.rowList.foldr (fun r acc => match acc, s.entryRow t e tl r with | some l, some p => some (p :: l) | _, _ => none) (some [])
/-- A number for a local byte, by which ranges are compared (R196). -/
def rangeKey (t : Nat) (tl : Option Tile) : RowAt → Nat
  | .tile off => match tl with
    | some x => (if x.kind then 2 ^ 20 else t * 2 ^ 21) + x.base * 512 + off
    | none => off
  | .region u off => u * 2 ^ 21 + off
/-- The half-open range of the local side: the spec does not say whether the gaps between the rows of a strided command count, and the model
takes the range from the lowest to the highest byte (DESIGN CHOICE, log entry 78). -/
def rowRange (t : Nat) (e : Entry) (tl : Option Tile) (rs : List RowAt) : Nat × Nat :=
  match rs.map (rangeKey t tl) with
  | [] => (0, 0)
  | k :: ks => (ks.foldl min k, ks.foldl max k + e.len)

/-! ### Moving words -/

/-- A word to be written: its bytes, or the fabric-window address from which they are still to come (R194). -/
inductive WordSrc where
  | known (bs : List Byte)
  | away (va : Nat)
  deriving DecidableEq, Repr
/-- What a command has read: the rows' words, the sectors that met uncorrectable data, and the state. -/
abbrev RowData := List (List WordSrc) × List BadSector × State
/-- What one row has given. -/
abbrev RowGot := List WordSrc × List BadSector × State
/-- Adds words to a row, one after the other, while none faults. -/
def rowOf (n : Nat) (one : State → Nat → Except State (WordSrc × List BadSector × State)) (s : State) : Except State RowGot :=
  (List.range (n / 4)).foldl (fun (acc : Except State RowGot) (i : Nat) =>
    match acc with
    | .error s => .error s
    | .ok (ws, bad, s) => (match one s (4 * i) with
      | .ok (w, b, s) => .ok (ws ++ [w], b.foldl addBad bad, s)
      | .error s => .error s)) (.ok ([], [], s))
/-- One row of the GADDR side, word by word (R194, R415); the words of the fabric window are still to be asked for. -/
def State.globalRow (s : State) (g : Nat) (a : Int) (n : Nat) : Except State RowGot :=
  rowOf n (fun s i =>
    let va := a + (i : Nat)
    if va < 0 then .error s else
    match s.place g va.toNat 0 with
    | .mem pa _ =>
      let h := s.homeRead pa 4
      .ok (.known h.1, if h.2.1 then [{ counter := 3, key := sectorOf pa, addr := va.toNat }] else [], h.2.2)
    | .bad _ ue => .error (s.countUe ue)
    | .fabric => if (s.fabricFault va.toNat).isSome then .error s else .ok (.away va.toNat, [], s)) s
/-- One row of a team's region or of a tile. -/
def State.localRow (s : State) (t : Nat) (tl : Option Tile) (p : RowAt) (n : Nat) : Except State RowGot :=
  let inRegion (s : State) (u off : Nat) : Except State (WordSrc × List BadSector × State) :=
    match s.engineRead u off with
    | .ok (v, d, s) => .ok (.known (leBytes 4 v), d, s)
    | .error s => .error s
  rowOf n (fun s i =>
    match p, tl with
    | .region u off, _ => inRegion s u (off + i)
    | .tile off, some x =>
      if x.kind then
        let l := s.last (s.team t).cluster
        let a := x.base * 512 + off + i
        let d := l.mbBad.contains (a / 64)
        .ok (.known (if d then zeros 4 else memGetN l.mb a 4), if d then [{ counter := 5, key := 2 ^ 60 + a / 64, addr := 0 }] else [], s)
      else inRegion s t (x.base * 512 + off + i)
    | .tile _, none => .error s) s
/-- Every row of a side. -/
def readRows (f : State → Nat → Except State RowGot) (n : Nat) (s : State) : Except State RowData :=
  (List.range n).foldl (fun (acc : Except State RowData) r =>
    match acc with
    | .error s => .error s
    | .ok (rows, bad, s) => (match f s r with
      | .ok (ws, b, s) => .ok (rows ++ [ws], b.foldl addBad bad, s)
      | .error s => .error s)) (.ok ([], [], s))
/-- Bytes of words that are all known. -/
def knownBytes (ws : List WordSrc) : List Byte := ws.flatMap (fun w => match w with | .known bs => bs | .away _ => zeros 4)
/-- The pieces of a row, none of which crosses a sector: offset and bytes. -/
def rowPieces : Nat → Nat → List Byte → List (Nat × List Byte)
  | 0, _, _ => []
  | n + 1, off, bs => if bs.isEmpty then [] else (off, bs.take (64 - off % 64)) :: rowPieces n (off + (64 - off % 64)) (bs.drop (64 - off % 64))
/-- The pieces of a row of words: whole sectors where every word is known, else word by word, with the address a word comes from. -/
def wordPieces (off : Nat) (ws : List WordSrc) : List (Nat × List Byte × Option Nat) :=
  if ws.all (fun w => match w with | .known _ => true | .away _ => false) then
    (rowPieces (ws.length / 16 + 2) off (knownBytes ws)).map (fun p => (p.1, p.2, none))
  else ws.zipIdx.map (fun e => match e.1 with
    | .known bs => (off + 4 * e.2, bs, none)
    | .away va => (off + 4 * e.2, [], some va))
/-- Sends the bytes of a row towards a team's tile or region (R190, R199), and says which landings wait for which addresses. -/
def State.landRow (s : State) (owner : Nat) (e : Entry) (entry : Option Nat) (cmd : Nat × Nat) (final : Bool) (off : Nat) (ws : List WordSrc) :
    State × List (Nat × Nat) :=
  let ps := wordPieces off ws
  ps.zipIdx.foldl (fun (a : State × List (Nat × Nat)) p =>
    let s := a.1
    let next := (ps[p.2 + 1]?).map (fun q => q.1 / 512)
    let x := s.team owner
    let l : Landing :=
      { core := x.gcore, entry := entry, team := owner, g := 0, tag := x.tag, off := p.1.1, data := p.1.2.1,
        closing := entry.isSome && final && e.close && next != some (p.1.1 / 512), op := none, cmd := some cmd, order := s.nextKey }
    ({ s with landings := Tab.set s.landings s.nextKey l, nextKey := s.nextKey + 1 },
     match p.1.2.2 with | some va => a.2 ++ [(va, s.nextKey)] | none => a.2)) (s, [])
/-- Sends the rows of an inbound command towards their places. -/
def State.writeRows (s : State) (owner : Nat) (e : Entry) (cmd : Nat × Nat) (places : List RowAt) (rows : List (List WordSrc)) :
    State × List (Nat × Nat) :=
  (places.zip rows).zipIdx.foldl (fun (a : State × List (Nat × Nat)) p =>
    let v := match p.1.1 with
      | .tile off => a.1.landRow owner e (some e.tile) cmd (decide (p.2 + 1 = e.rows)) off p.1.2
      | .region u off => a.1.landRow u e none cmd false off p.1.2
    (v.1, a.2 ++ v.2)) (s, [])
/-- Asks for the words that are still to come, each once (R194). -/
def State.askWords (s : State) (cmd : Nat × Nat) (asked : List (Nat × Nat)) : State :=
  (distinct (asked.map Prod.fst)).foldl (fun s va =>
    s.sendCmd cmd va (.read 4) [] ((asked.filter (fun e => e.1 == va)).map Prod.snd)) s
/-- Writes one row of the GADDR side word by word; an error where a word cannot be translated for writing (R198). -/
def State.putGlobal (s : State) (cmd : Nat × Nat) (a : Int) (bs : List Byte) : Except State State :=
  (List.range (bs.length / 4)).foldl (fun (acc : Except State State) (i : Nat) =>
    match acc with
    | .error s => .error s
    | .ok s =>
      let va := a + (4 * i : Nat)
      let w := (bs.drop (4 * i)).take 4
      if va < 0 then .error s else
      match s.place (s.team cmd.1).grid va.toNat 1 with
      | .mem pa _ => .ok ((s.homeWrite pa w).emptyField pa 4)
      | .bad _ ue => .error (s.countUe ue)
      | .fabric => if (s.fabricFault va.toNat).isSome then .error s else .ok (s.sendCmd cmd va.toNat .write w [])) (.ok s)

/-! ### Starting a command (R196) -/

/-- The command at HEAD of a team's ring, with its words. Where a transition of the entry's own sector faults the engine leaves the ring as it is
(log entry 77). -/
def State.nextEntry (s : State) (t : Nat) : Option (Entry × (Nat × Nat × Nat × Nat) × State) :=
  let r := (s.team t).ring
  if !s.ringLive t || r.head == r.tail then none else
  let base := 64 + 32 * (r.head % s.ringSize t)
  let ws := (List.range 8).foldl (fun (acc : Option (List Nat × List BadSector × State)) i =>
    match acc with
    | none => none
    | some (l, bad, s) => (match s.engineRead t (base + 4 * i) with
      | .ok (v, d, s) => some (l ++ [v], d.foldl addBad bad, s)
      | .error _ => none)) (some ([], [], s))
  match ws with
  | some ([a, b, c, d, e, f, g, h], bad, s) =>
    let s := s.engineBad t bad
    let w0 := a + b * 2 ^ 32
    let w1 := c + d * 2 ^ 32
    let w2 := e + f * 2 ^ 32
    let w3 := g + h * 2 ^ 32
    some (entryOf w0 w1 w2 w3, (w0, w1, w2, w3), s)
  | _ => none
/-- Advances HEAD and records the started command. -/
def State.startAt (s : State) (t : Nat) (w : Nat × Nat × Nat × Nat) (ranges : List (Nat × Nat)) (members : List Nat) : State :=
  let r := (s.team t).ring
  let c : Command := { index := r.head, w0 := w.1, w1 := w.2.1, w2 := w.2.2.1, w3 := w.2.2.2, ranges := ranges, members := members,
                       failed := false, complete := false }
  let h := (r.head + 1) % 2 ^ 32
  (s.modRing t (fun r => { r with head := h, started := r.started ++ [c] })).ringWord t 4 h
/-- Whether a range overlaps what an earlier incomplete command of the ring writes (R196). -/
def Ring.blocks (r : Ring) (x : Nat × Nat) : Bool :=
  r.started.any (fun c => !c.complete && c.ranges.any (fun y => decide (y.1 < x.2) && decide (x.1 < y.2)))
/-- The tile an entry names, where the team holds it. -/
def State.entryTile (s : State) (t : Nat) (e : Entry) : Option Tile := if e.tv then s.heldTile t e.tile else none
/-- Changes the tile an entry names. -/
def State.modEntryTile (s : State) (t : Nat) (e : Entry) (f : Tile → Tile) : State :=
  match s.entryTile t e with
  | some x => s.setTile (tileKey (s.team t).gcore e.tile) (f x)
  | none => s
/-- A tile after the start of an inbound command (R189). -/
def Tile.armed (x : Tile) (rearm : Bool) : Tile :=
  let x := if x.state = 2 ∧ rearm then x.emptied else x
  { x with state := if x.state = 0 then 1 else x.state }
/-- The start of an inbound command on its tile (R189). -/
def State.armTile (s : State) (t : Nat) (e : Entry) : State := s.modEntryTile t e (fun x => x.armed e.rearm)
/-- The error of an entry, in the order of R198's codes but that a tile must be held before its range can be judged; or the places of
its rows. The issuer's own tile is judged so for MCASTIN too, which halts the ring where another member would be skipped (log entry 64). -/
def State.entryCheck (s : State) (t : Nat) (e : Entry) : Except Nat (List RowAt) :=
  if !e.formed then .error 1
  else if !e.aligned then .error 2
  else if e.tv && (s.entryTile t e).isNone then .error 4
  else match s.entryRows t e (s.entryTile t e) with
    | none => .error 3
    | some rs =>
      if e.kind = 3 ∧ e.rowList.any (fun r => (s.rowPlace t (e.grow r) e.len false).isNone) then .error 3
      else match s.entryTile t e with
        | some x => if e.inbound && x.state == 2 && !e.rearm then .error 4 else .ok rs
        | none => .ok rs
/-- Whether an inbound command must wait, unstarted, for a tile: until a DRAINING one is READY, and for REARM until no posted matrix request
holds a READY one (R189, R321). -/
def Tile.makesWait (x : Tile) (rearm : Bool) : Bool := x.state == 3 || (x.state == 2 && rearm && decide (0 < x.users))
/-- Whether a command must wait unstarted for its tile (R189, R196). -/
def State.entryWaits (s : State) (t : Nat) (e : Entry) : Bool :=
  match s.entryTile t e with
  | some x => if e.inbound then x.makesWait e.rearm else e.kind == 2 && x.state != 2 && x.state != 3
  | none => false
/-- Whether a command must wait for the earlier packets to a peer whose table entry has changed (R440). -/
def State.entryBusy (s : State) (e : Entry) : Bool :=
  (e.kind == 1 || e.kind == 2 || e.kind == 4) && !s.sent.isEmpty &&
    e.rowList.any (fun r => let a := (e.grow r).toNat; bits a 63 56 == 1 && s.fabricBusy (fabricPeer a))
/-- The source rows of an inbound command. -/
def State.sourceRows (s : State) (t : Nat) (e : Entry) : Except State RowData :=
  let n := e.rowList.length
  if e.kind = 5 then .ok ((List.range n).map (fun _ => (List.range (e.len / 4)).map (fun _ => WordSrc.known (leBytes 4 e.gaddr))), [], s)
  else if e.kind = 3 then
    readRows (fun s r => match s.rowPlace t (e.grow r) e.len false with
      | some (u, off) => s.localRow t none (.region u off) e.len
      | none => .error s) n s
  else readRows (fun s r => s.globalRow (s.team t).grid (e.grow r) e.len) n s
/-- How an MCASTIN finds a rank of the gang (R199). -/
inductive MemberAt where
  /-- Absent, with a closed gate, or with a tile that does not accept: skipped. -/
  | skipped
  /-- The command waits for its tile (R189). -/
  | waits
  | reached (t : Nat) (rows : List RowAt)
  deriving DecidableEq, Repr
/-- A rank of a team's gang as an MCASTIN finds it (R199). LADDR names the same offset in every member: its bits 31 to 19, by which the
issuer's own side is checked, are taken as 0 there; and a REARM command waits for another member's tile as it does for the issuer's (log
entry 64). -/
def State.mcastMember (s : State) (t rank : Nat) (e : Entry) : MemberAt :=
  match s.gangMember t rank with
  | none => .skipped
  | some u =>
    if !(s.team u).gate then .skipped else
    let x := s.entryTile u e
    let at_ : MemberAt := match s.entryRows u { e with laddr := e.laddr % 2 ^ 19 } x with
      | some rs => .reached u rs
      | none => .skipped
    match x with
    | none => if e.tv then .skipped else at_
    | some y => if e.rearm && y.makesWait true then .waits else if y.state == 3 || (y.state == 2 && !e.rearm) then .skipped else at_
/-- The members a command delivers to, with the places of its rows: for an MCASTIN those reached, else the issuer. -/
def State.entryMembers (s : State) (t : Nat) (e : Entry) (rs : List RowAt) : List MemberAt :=
  if e.kind = 4 then (List.range (s.gridOf t).gangSize).map (fun k => s.mcastMember t k e) else [.reached t rs]
/-- A COPYOUT starts (R189, R194): its tile drains, and what it reads goes to the GADDR side. -/
def State.startCopyout (s : State) (t head : Nat) (e : Entry) (w : Nat × Nat × Nat × Nat) (rs : List RowAt) : State :=
  let tl := s.entryTile t e
  let s := (s.modEntryTile t e (fun x => { x with state := 3, drains := x.drains + 1, clr := x.clr || e.clr })).startAt t w [] (if e.tv then [t] else [])
  match readRows (fun s r => match rs[r]? with | some q => s.localRow t tl q e.len | none => .error s) rs.length s with
  | .error s => s.failCommand (t, head)
  | .ok (rows, bad, s) =>
    match rows.zipIdx.foldl (fun (acc : Except State State) q => acc.bind (fun s => s.putGlobal (t, head) (e.grow q.2) (knownBytes q.1)))
        (.ok (s.engineBad t bad)) with
    | .error s => s.failCommand (t, head)
    | .ok s => s.count 1 (s.ringEngine t) 2 (e.len * e.rowList.length)
/-- An inbound command starts (R189, R194, R199): its tiles fill, and its words go to their places. -/
def State.startInbound (s : State) (t head : Nat) (e : Entry) (w : Nat × Nat × Nat × Nat) (ms : List MemberAt) : State :=
  let dst := ms.filterMap (fun m => match m with | .reached u rs => some (u, rs) | _ => none)
  let skips := (ms.filter (fun m => m == .skipped)).length
  let ranges := dst.map (fun m => rowRange m.1 e (s.entryTile m.1 e) m.2)
  let s := (dst.foldl (fun s m => s.armTile m.1 e) s).startAt t w ranges
    (distinct (dst.flatMap (fun m => m.1 :: m.2.filterMap (fun p => match p with | .region u _ => some u | .tile _ => none))))
  let s := if skips = 0 then s else (s.ringErr t 8 head).count 1 (s.ringEngine t) 4 skips
  match s.sourceRows t e with
  | .error s => s.failCommand (t, head)
  | .ok (rows, bad, s) =>
    let v := dst.foldl (fun (a : State × List (Nat × Nat)) m => let b := a.1.writeRows m.1 e (t, head) m.2 rows; (b.1, a.2 ++ b.2))
      (s.engineBad t bad, [])
    v.1.askWords (t, head) v.2
/-- Starts the command at HEAD, if it is of the kind `p` and may start. The source range of a COPYLOCAL waits for earlier commands too: R196
names the local-side range and does not say whether a source is part of it (DESIGN CHOICE, log entry 78). -/
def State.startCommand (s : State) (t : Nat) (p : Nat → Bool) : State :=
  match s.nextEntry t with
  | none => s
  | some (e, w, s1) =>
    if !p e.kind then s else
    let head := (s1.team t).ring.head
    match s1.entryCheck t e with
    | .error c => s1.ringHalt t c head
    | .ok rs =>
      let ms := s1.entryMembers t e rs
      let own := rowRange t e (s1.entryTile t e) rs
      let src : Nat × Nat := if e.kind = 3 then
          rowRange t e none (e.rowList.filterMap (fun r => (s1.rowPlace t (e.grow r) e.len false).map (fun q => RowAt.region q.1 q.2)))
        else (0, 0)
      let ranges := own :: src :: ms.filterMap (fun m => match m with | .reached u rs => some (rowRange u e (s1.entryTile u e) rs) | _ => none)
      if s1.entryWaits t e || s1.entryBusy e || ms.contains .waits || ranges.any (s1.team t).ring.blocks then s
      else if e.kind = 0 then s1.startAt t w [] []
      else if e.kind = 2 then s1.startCopyout t head e w rs
      else s1.startInbound t head e w ms
/-- RING_NOP: the command at HEAD is a NOP, or of a reserved kind, which halts the ring (R194, R198). -/
def execRingNop (t : Nat) (s : State) : Host.Outcome State Fault Refusal := .next (s.startCommand t (fun k => k == 0 || decide (6 ≤ k)))
/-- COPYIN (R194). -/
def execCopyin (t : Nat) (s : State) : Host.Outcome State Fault Refusal := .next (s.startCommand t (fun k => k == 1))
/-- COPYOUT (R194). -/
def execCopyout (t : Nat) (s : State) : Host.Outcome State Fault Refusal := .next (s.startCommand t (fun k => k == 2))
/-- COPYLOCAL (R194). -/
def execCopylocal (t : Nat) (s : State) : Host.Outcome State Fault Refusal := .next (s.startCommand t (fun k => k == 3))
/-- MCASTIN (R199). -/
def execMcastin (t : Nat) (s : State) : Host.Outcome State Fault Refusal := .next (s.startCommand t (fun k => k == 4))
/-- FILL (R194). -/
def execFill (t : Nat) (s : State) : Host.Outcome State Fault Refusal := .next (s.startCommand t (fun k => k == 5))

/-! ### Completion (R196) -/

/-- Advances DONE past each leading completed entry and writes it as a release. -/
def State.advanceDone (s : State) (t : Nat) : Nat → State
  | 0 => s
  | n + 1 =>
    let r := (s.team t).ring
    match r.started with
    | [] => s
    | c :: cs =>
      if c.complete ∧ c.index = r.done then
        let d := (r.done + 1) % 2 ^ 32
        State.advanceDone (((s.modRing t (fun r => { r with done := d, started := cs })).ringWord t 8 d).putField (localKey t 8) 4 .all) t n
      else s
/-- The end of a drain of a tile (R189). One with CLR leaves a tile READY while a posted request holds it (R321; log entry 76). -/
def Tile.drained (x : Tile) : Tile :=
  let d := x.drains - 1
  if d = 0 then (if x.clr && x.users == 0 then { x.emptied with drains := 0 } else { x with drains := 0, state := 2 }) else { x with drains := d }
/-- Whether words of a command are still on their way or unacknowledged (R196). -/
def State.commandOut (s : State) (c : Nat × Nat) : Bool := s.landings.any (fun e => e.2.cmd == some c) || s.sent.any (fun e => e.2.cmd == some c)
/-- COMMAND_COMPLETION: every word a command writes has been acknowledged (R196). One that has failed ends here too, and DONE stays before
it (R198). -/
def execCommandCompletion (t n : Nat) (s : State) : Host.Outcome State Fault Refusal :=
  .next (match (s.team t).ring.started.find? (fun c => c.index == n && !c.complete) with
    | none => s
    | some c =>
      if s.commandOut (t, n) then s else
      let e := entryOf c.w0 c.w1 c.w2 c.w3
      let s := if e.kind = 2 then s.modEntryTile t e Tile.drained else s
      if c.failed then s.modRing t (fun r => { r with started := r.started.filter (fun d => d.index != n) })
      else
        let s := s.modRing t (fun r => { r with started := r.started.map (fun d => if d.index = n then { d with complete := true } else d) })
        (s.count 1 (s.ringEngine t) 0).advanceDone t ((s.team t).ring.started.length))

/-! ### Landings (R190, R191) -/

/-- Writes bytes of a tile's memory, through the stash where a KIND 0 tile lies in a mapped range (R185, R226). -/
def State.writeTile (s : State) (x : Tile) (off : Nat) (bs : List Byte) : EngineEnd :=
  if x.kind then
    let cl := (s.team x.team).cluster
    let l := s.last cl
    { s := s.setLast cl { l with mb := memSetN l.mb (x.base * 512 + off) bs }, drop := false, fault := none }
  else s.enginePiece x.team (x.base * 512 + off) bs

/-- Whether a landing may land: its bytes have come, and a closing one follows every earlier copy of its group into the chunk (R227). -/
def State.mayLand (s : State) (l : Landing) : Bool :=
  !l.data.isEmpty &&
  !(l.closing && s.landings.any (fun e => e.2.cmd == l.cmd && e.2.team == l.team && e.2.g == l.g && e.2.core == l.core && e.2.entry == l.entry
      && e.2.off / 512 == l.off / 512 && decide (e.2.order < l.order)))
/-- The operation of a per-lane copy is done, or ends in a fault found after issue (R184, R489). -/
def State.copyDone (s : State) (op : Option Nat) (late : Option Nat) : State :=
  match op.bind (fun o => (Tab.find s.ops o).map (fun p => (o, p))) with
  | some (o, p) => { s with ops := Tab.set s.ops o { p with wait := .ready, late := late.map (fun c => { p.info with code := c }) } }
  | none => s
/-- Uncorrectable data met by a fill that a landing has caused: it goes to the ring's team or to the copying lane (R186, R432). -/
def State.landBad (s : State) (l : Landing) (drop : Bool) : State × Option Nat :=
  if !drop then (s, none) else
  match l.cmd with
  | some c =>
    let off := match l.entry.bind (fun e => Tab.find s.tiles (tileKey l.core e)) with | some x => x.base * 512 + l.off | none => l.off
    (s.engineBad c.1 [{ counter := 3, key := localKey l.team off / 64 * 64, addr := s.mappedAt l.team off }], none)
  | none =>
    let s := s.count 4 0 3
    if (s.gridOf l.team).strict then (s, some 8) else (s.setTerr l.team 0, none)
/-- Ends a landing whose bytes have been written, or could not be (R184, R191, R201). -/
def landEnd (l : Landing) (w : EngineEnd) (written : State → State) : State :=
  match w.fault with
  | some c => (match l.cmd with
    | some k => w.s.failCommand k
    | none => w.s.copyDone l.op (some c))
  | none =>
    let b := (written w.s).landBad l w.drop
    (match l.cmd with
     | some k => b.1.count 1 (b.1.ringEngine k.1) 1 l.data.length
     | none => b.1).copyDone l.op b.2
/-- TILE_LANDING: bytes land in a tile or, from a command, in a region (R190, R191, R199). Where the tag no longer matches its region they are
dropped (R180). R201 does not say what one delivery is: each landing, of at most 64 bytes, counts as one in STALE_DROPS (DESIGN CHOICE, log
entry 79). -/
def execTileLanding (n : Nat) (s : State) : Host.Outcome State Fault Refusal :=
  .next (match Tab.find s.landings n with
    | none => s
    | some l =>
      if !s.mayLand l then s else
      let s := { s with landings := Tab.erase s.landings n }
      let dropped (s : State) : State := (match l.cmd with | some c => s.count 1 (s.ringEngine c.1) 3 | none => s).copyDone l.op none
      if (s.team l.team).tag ≠ l.tag then dropped s else
      match l.entry with
      | none => landEnd l (s.enginePiece l.team l.off l.data) id
      | some e =>
        let k := tileKey l.core e
        match Tab.find s.tiles k with
        | none => dropped s
        | some x =>
          if x.team ≠ l.team then dropped s else
          landEnd l (s.writeTile x l.off l.data) (fun s => (s.setTile k (x.landed (l.off / 512) l.data.length l.closing)).tileWake k))

/-- Cancels the unstarted entries of a ring and closes the team's inbound gate (R200). -/
def State.closeRing (s : State) (t : Nat) : State :=
  let r := (s.team t).ring
  let s := s.modTeam t (fun x => { x with gate := false })
  if decide (2 ≤ (s.gridOf t).cring) && r.head != r.tail then (s.ringErr t 7 r.head).modRing t (fun r => { r with tail := r.head }) else s

end Sys2Proof.Machine
end

