-- ==== Sys2Proof/Machine/CoreEvents.lean ====
section
/-! DEFINITION. Events of a core: completed fetches, completions and deferred faults of operations, handler entry, formations, and L1
copies (R64, R154, R169, R171, R172, R301, R365, R489); page-table walks (R404). -/

namespace Sys2Proof.Machine

open Sys2Proof

/-! ### Fetch -/

/-- Sectors an instruction cache holds (R165). -/
def icacheSectors : Nat := 1024
/-- Whether a core's instruction cache holds a sector. -/
def State.inIcache (s : State) (core g va : Nat) : Bool := s.icache.any (fun c => c.core == core && c.grid == g && c.va == sectorOf va)
/-- Reads one sector of instructions at its home and brings it into a core's instruction cache, or says whether the failed fetch met
uncorrectable data (R64, R407, R431). The sector fetched longest ago makes room. -/
def State.fetchSector (s : State) (core g va : Nat) : Except Bool State :=
  if s.inIcache core g va then .ok s
  else if bits va 63 56 ≠ 0 then .error false
  else match s.place g (sectorOf va) 2 with
  | .mem pa _ =>
    if isHost pa then .error false else
    let h := s.homeRead pa 64
    if h.2.1 then .error true else
    let mine := h.2.2.icache.filter (fun c => c.core == core)
    let old := if icacheSectors ≤ mine.length then mine.head? else none
    .ok { h.2.2 with icache := (h.2.2.icache.filter (fun c => some c != old)) ++ [{ core := core, grid := g, va := sectorOf va, bytes := h.1 }] }
  | .bad _ ue => .error ue
  | .fabric => .error false
/-- The running lanes of a grid on a core that stand at a PC: those that would issue the instruction there (R408). In deterministic mode a
group takes only its lowest PC, at which no lane is held in a blocking instruction (R139). -/
def State.lanesAt (s : State) (core g pc : Nat) : List LaneRef :=
  s.teams.flatMap (fun e =>
    if e.2.gcore == core && e.2.grid == g && s.mayIssue e.1 then
      (s.teamLanes e.1).filter (fun r => s.runs r && (s.lane r).pc.toNat == pc && decide ((s.lane r).since ≤ s.cycle) &&
        !((s.gridOf e.1).det && (s.homeLanes e.1 r.g).any (fun q =>
          (s.runs q && decide ((s.lane q).pc.toNat < pc)) || (s.blocking q && decide ((s.lane q).pc.toNat ≤ pc)))))
    else [])
/-- INSTRUCTION_FETCH: the first sector that the instruction at a PC still needs comes into the cache, or the lanes that would issue it park
(R64, R408). The lanes are ready once the fetch is complete (R136). -/
def execInstructionFetch (core g pc : Nat) (s : State) : Host.Outcome State Fault Refusal :=
  .next (match s.teams.find? (fun e => e.2.gcore == core && e.2.grid == g) with
    | none => s
    | some (t, _) =>
      match s.fetch t pc with
      | .insn _ _ => s
      | .miss va =>
        match s.fetchSector core g va with
        | .ok s' => s'
        | .error ue => let rs := s.lanesAt core g pc; if rs.isEmpty then s else s.fetchFault rs pc va ue)

/-! ### Completion -/

/-- Ends an operation with no effect on registers: it leaves flight and its slot falls (R170, R172). -/
def State.dropOp (s : State) (n : Nat) (o : Op) : State := ({ s with ops := Tab.erase s.ops n } : State).dropSlot o.lane o.slot
/-- Ends one lane's part of an operation: its destinations are written and its slot falls (R170, R171). -/
def State.completeOne (s : State) (n : Nat) (o : Op) : State :=
  let s := ((s.dropOp n o).setRegs o.lane o.writes).setPreds o.lane o.preds
  if o.phase = 0 then s else s.modTeam o.lane.team (fun t => { t with dphase := t.dphase + BitVec.ofNat 5 o.phase })
/-- Inserts an operation by the lane order of its lane within a team. -/
def insertOp (e : Nat × Op) : List (Nat × Op) → List (Nat × Op)
  | [] => [e]
  | f :: fs => if e.2.lane.g * 32 + e.2.lane.l < f.2.lane.g * 32 + f.2.lane.l then e :: f :: fs else f :: insertOp e fs
/-- The operations that complete with one, in lane order: those of its issue, where the instruction writes once for the group. -/
def State.partsOf (s : State) (o : Op) : List (Nat × Op) :=
  (s.ops.filter (fun e => e.2.together && e.2.issue == o.issue && e.2.lane.team == o.lane.team)).foldl (fun a e => insertOp e a) []
/-- Whether a part of an issue is still to be known: one in flight or late, or a lane still held. -/
def State.partMissing (s : State) (o : Op) : Bool :=
  (s.partsOf o).any (fun e => e.2.wait != .ready || e.2.late.isSome) ||
  (s.teamLanes o.lane.team).any (fun q => match (s.lane q).cond with | .held h => h.issue == o.issue | _ => false)
/-- Completes an operation whose results are known. The parts of an issue that writes once for the group wait for one another and complete
in lane order, so that an s-register keeps the value of the last lane that has not faulted (R16, R75). -/
def State.completeOp (s : State) (n : Nat) (o : Op) : State :=
  if !o.together then s.completeOne n o
  else
    let s := { s with ops := Tab.set s.ops n o }
    if s.partMissing o then s else (s.partsOf o).foldl (fun s e => s.completeOne e.1 e.2) s
/-- Whether an operation is a load, which in a helper lane takes no fault and sets no flag (R22). -/
def Op.isLoad (o : Op) : Bool :=
  match decodeBits o.info.len o.info.insn with
  | .ok (.ld _) | .ok (.ldl _) | .ok (.ldv _) => true
  | _ => false
/-- An operation that ends in a fault found after issue (R489). A load of a helper lane completes with its zeros instead (R22, R309). -/
def State.spoilOp (s : State) (n : Nat) (o : Op) (code addr : Nat) : State :=
  if s.isHelper o.lane && o.isLoad then s.completeOp n { o with wait := .ready } else
  let i := { o.info with code := code, addr := addr }
  let s := { s with ops := Tab.set s.ops n { o with wait := .ready, late := some i }, landings := s.landings.filter (fun e => e.2.op != some n) }
  -- an access made once for the group fails for each of its lanes (R204)
  if o.together then
    { s with ops := s.ops.map (fun e =>
        if e.2.together && e.2.issue == o.issue && e.2.lane.team == o.lane.team && !(s.isHelper e.2.lane && o.isLoad) then (e.1, { e.2 with late := some i }) else e) }
  else s
/-- The instruction of an operation. -/
def Op.instr (o : Op) : Option Instr := match decodeBits o.info.len o.info.insn with | .ok i => some i | .error _ => none
/-- The other lanes of the group for which an operation is performed (R204). -/
def State.sharers (s : State) (o : Op) : List LaneRef :=
  if o.together then ((s.partsOf o).map (fun e => e.2.lane)).filter (· != o.lane) else []
/-- Ends a barrier instruction whose operation has arrived at its region: of one that holds its lane, the operation leaves and the lane goes on,
waits, or faults at its instruction. -/
def State.barArrived (s : State) (n : Nat) (o : Op) (at_ : ObjAt) (e : BarEnd) : State :=
  match (s.lane o.lane).cond with
  | .held h =>
    let gone (s : State) : State := { s with ops := Tab.erase s.ops n }
    (match e with
     | .done s ws ps => (gone s).release o.lane ws ps
     | .wait s t phase =>
       ((gone s).modLane o.lane (fun y => { y with cond := .held { h with v1 := t, v2 := phase } })).addWaiter (at_.waiter o.lane h.kind)
     | .fault s c => (gone s).faultHeld o.lane c h.ea
     | .late s c named => (gone s).faultHeld o.lane c (if named then h.ea else 0))
  | _ =>
    match e with
    | .done s ws ps => s.completeOp n { o with wait := .ready, writes := ws, preds := ps }
    | .wait s _ _ => s
    | .fault s c => s.spoilOp n o c o.info.addr
    | .late s c named => s.spoilOp n o c (if named then o.info.addr else 0)
/-- A plain gang access, or a BINIT, is performed at its region; one of no data reads. -/
def State.gangAccess (s : State) (n : Nat) (o : Op) (p : Nat × Nat) (t off w : Nat) (data : List Byte) : State :=
  match (if data.isEmpty then s.readLocal o.lane t off w else s.writeLocal o.lane t off data) with
  | .fault s c => s.spoilOp n o c o.info.addr
  | .ok g =>
    match g.late with
    | some c => g.s.spoilOp n o c o.info.addr
    | none =>
      let s := if data.isEmpty then (g.s.localAcquire o.lane t off p.2 p.1).shareLearnt o.lane (g.s.sharers o)
        else g.s.localRelease o.lane t off w p.1
      s.completeOp n { o with wait := .ready, writes := match o.fill with | some (d, c) => loadWrites d c g.data | none => o.writes }
/-- A gang access arrives (R183): where the region's tag is no longer the one it had at issue, the lane faults with LOCAL_BOUNDS and memory is
untouched; else the access is performed. -/
def State.gangArrive (s : State) (n : Nat) (o : Op) (t off w tag : Nat) (data : List Byte) : State :=
  if (s.team t).tag ≠ tag ∨ !(s.team t).resident then
    (if o.slot.isNone && (match (s.lane o.lane).cond with | .held _ => true | _ => false)
     then ({ s with ops := Tab.erase s.ops n } : State).faultHeld o.lane 9 o.info.addr else s.spoilOp n o 9 o.info.addr)
  else match o.instr with
    | none => s.gangAccess n o (0, 0) t off w data
    | some i =>
      if (match i with | .barr _ | .bwait _ | .barw _ | .btestp _ | .bdrop _ => true | _ => false)
      then s.barArrived n o (.loc t off) (s.barAt i o.lane (.loc t off) (leNat data))
      else s.gangAccess n o (ordering i) t off w data
/-- The gang accesses of one issue to one region arrive together, in lane order (R204). -/
def State.gangAll (s : State) (o : Op) (t : Nat) : State :=
  ((s.ops.filter (fun e => e.2.issue == o.issue && e.2.lane.team == o.lane.team && e.2.late.isNone &&
      (match e.2.wait with | .gang u _ _ _ _ => u == t | _ => false))).foldl (fun a e => insertOp e a) []).foldl
    (fun s e => match Tab.find s.ops e.1 with
      | some q => (match q.wait, q.late with
        | .gang u off w tag data, none => s.gangArrive e.1 q u off w tag data
        | _, _ => s)
      | none => s) s
/-- The acquire part of an operation that the fabric answered: every copy may be stale (R366, R368). A strong one without an acquire part
leaves that to a later acquire fence (R228, R363). -/
def State.fabricAcquire (s : State) (r : LaneRef) (len w : Nat) : State :=
  match decodeBits len w with
  | .ok i => let o := ordering i; if o.1 % 2 = 1 then s.acquireSig r o.2 .all else s.noteSeen r o.2 .all
  | .error _ => s
/-- The second half of a BARW on a fabric-window object: the wait for the phase after the arrival's (R252). Where the team is being saved it is
asked back with its arrival, and where it is being flushed, without (R257). -/
def State.barwWait (s : State) (r : LaneRef) (h : Hold) (o : Op) (phase : Nat) : State :=
  let n := s.nextKey
  let stopping := (s.team r.team).phase != .running
  let t := (phase + 1) % 2 ^ 16
  let s := s.send r.team (some (n + 1)) h.ea (.object 0x26 [t]) [] false
  let k := s.nextKey
  let s := { s with ops := Tab.set s.ops k { o with wait := .fabric n }, nextKey := k + 1 }
  let s := s.modLane r (fun y => { y with cond := .held { h with v1 := t, v2 := phase, pkt := n } })
  if stopping then s.askBack k (if (s.team r.team).phase = .flushing then 2 ^ 16 else phase) else s
/-- The answer to an operation that takes back another: the other leaves the fabric, and its lanes stand at their instructions again (R257). -/
def State.takenBack (s : State) (n : Nat) (o : Op) (done : Bool) : State :=
  let s := { s with ops := Tab.erase s.ops n }
  match (if done then Tab.find s.ops o.info.detail else none) with
  | none => s
  | some w =>
    let s := (s.sent.filter (fun e => e.2.op == some o.info.detail)).foldl (fun s e => s.settleSent e.1)
      { s with ops := Tab.erase s.ops o.info.detail }
    if w.info.code = 0xFF then
      match s.chains.find? (fun e => e.2.team == w.lane.team) with
      | none => s
      | some (k, c) =>
        let s := ({ s with chains := Tab.erase s.chains k } : State).dropWaiters (fun v => v.kind == .chain && c.lanes.any (fun e => e.1 == v.lane))
        c.lanes.foldl (fun s e => s.withdraw e.1) s
    else s.withdraw w.lane
/-- A reply to an operation whose lane has gone on. -/
def State.fabricPlain (s : State) (n : Nat) (o : Op) (status : Nat) (data : List Byte) (addr code : Nat) : State :=
  if status ≠ 0 then s.spoilOp n o code addr
  else
    match s.landings.find? (fun e => e.2.op == some n && e.2.data.isEmpty) with
    | some (k, l) =>
      { s with landings := Tab.set s.landings k { l with data := (data ++ zeros 16).take 16 },
               ops := Tab.set s.ops n { o with wait := .landing k } }
    | none =>
      let s := (s.fabricAcquire o.lane o.info.len o.info.insn).shareLearnt o.lane (s.sharers o)
      match o.fill with
      | none => s.completeOp n { o with wait := .ready }
      | some (d, w) =>
        if 256 ≤ d then s.completeOp n { o with wait := .ready, preds := [(d - 256, bit (leNat data) 0)] }
        else s.completeOp n { o with wait := .ready, writes := loadWrites d w ((data ++ zeros (widthBytes w)).take (widthBytes w)) }
/-- A reply to the operations of the lanes that share a request, which have gone on (R204). -/
def State.fabricShared (s : State) (n : Nat) (o : Op) (status : Nat) (data : List Byte) (addr code : Nat) : State :=
  (s.ops.filter (fun e => e.1 != n && e.2.wait == o.wait)).foldl (fun s e =>
    match Tab.find s.ops e.1 with
    | some q => s.fabricPlain e.1 q status data addr code
    | none => s) (s.fabricPlain n o status data addr code)
/-- A reply of a fabric target: its first byte is the status, 0 done, 1 refused (R436, R439), 2 a broken object (R248), 3 done with INV raised
(R234), 4 the request waits there (R251). -/
def State.fabricReply (s : State) (n : Nat) (o : Op) (p : Nat) (q : Sent) (status : Nat) (data : List Byte) : State :=
  if status = 4 then { s with sent := Tab.set s.sent p { q with held := true } } else
  let s := (s.settleSent p).resendMoved
  let s := if status = 3 then s.setFlags o.lane.team (FpFlags.ofInv true) else s
  let status := if status = 3 then 0 else status
  if o.info.code = takeBackCode then s.takenBack n o (status = 0 && leNat data == 1) else
  let addr := 2 ^ 56 + q.peer * 2 ^ 46 + q.offset
  let code := if status = 1 then 6 else 0x10
  if o.info.code = 0xFF then
    let s := { s with ops := Tab.erase s.ops n }
    match s.chains.find? (fun e => e.2.team == o.lane.team) with
    | none => s
    | some (k, c) =>
      if status = 0 then
        (c.lanes.foldl (fun s e => s.acquireSig e.1 (match (s.lane e.1).cond with | .held h => h.x.fs.toNat | _ => 0) .all) s).chainRelease k
          (leNat data)
      else s.chainFault k code
  else
    match (s.lane o.lane).cond with
    | .held h =>
      if h.awaits o then
        let s := { s with ops := Tab.erase s.ops n }
        if status ≠ 0 then s.faultHeld o.lane code h.ea
        else if h.kind = .barw ∧ h.v2 = 2 ^ 16 then s.barwWait o.lane h o (leNat (data.take 2))
        else (s.fabricAcquire o.lane 4 h.insn).release o.lane (runWrites h.x.d.toNat (leNat (data.take 2)) 1) []
      else s.fabricShared n o status data addr code
    | _ => s.fabricShared n o status data addr code
/-- The reply to a request that no lane waits for: an acknowledgement, or the bytes a ring's command has asked for (R194, R196, R448). A
refusal ends the command in a translation error (R198, R439); a scheduled packet that was lost, discarded or refused is to be sent again
(R487). -/
def State.commandReply (s : State) (n : Nat) (q : Sent) (reply : List Byte) : State :=
  let gone : State := (s.settleSent n).resendMoved
  match q.cmd, reply with
  | none, [] => gone
  | none, _ :: _ => if q.queue.isSome then { s with sent := Tab.set s.sent n { q with waits := true } } else gone
  | some _, [] => if q.lands.isEmpty then gone else s
  | some c, b :: data =>
    if b = 0 then gone.fillLandings q.lands ((data ++ zeros 4).take 4)
    else ({ gone with landings := gone.landings.filter (fun e => !q.lands.contains e.1) } : State).failCommand c
/-- OPERATION_COMPLETION: an operation completes for its lane (R171), one in the fabric by its reply; a request that no lane waits for is
acknowledged (R448). No reply counts after the request's bound (R447). -/
def execOperationCompletion (n : Nat) (reply : List Byte) (s : State) : Host.Outcome State Fault Refusal :=
  .next (match Tab.find s.ops n with
    | none =>
      (match Tab.find s.sent n with
       | some q => if q.op.isNone && !q.waits && !s.overdue q then s.commandReply n q reply else s
       | none => s)
    | some o =>
      if o.late.isSome then s else
      match o.wait with
      | .ready => s.completeOp n o
      | .fabric p =>
        (match Tab.find s.sent p, reply with
         | some q, b :: data => if q.waits ∨ s.overdue q then s else s.fabricReply n o p q b.toNat data
         | _, _ => s)
      | .landing _ => s
      | .commit _ => s
      | .request _ _ => s
      | .gang t _ _ _ _ => s.gangAll o t)

/-! ### Deferred faults -/

/-- Takes a lane out of what it waits for, its arrivals with it. -/
def State.takeBack (s : State) (r : LaneRef) : State :=
  let s := match (s.lane r).cond with
    | .join j => s.modGroup r (fun x => x.setArrived j (x.arrived j &&& ~~~ (laneBit r.l)))
    | .tbar id => s.modTeam r.team (fun t => { t with tbar := Tab.set t.tbar (32 * id + r.g) (t.tbarSet id r.g &&& ~~~ (laneBit r.l)) })
    | _ => s
  let s := s.standDown r false
  -- a lane that a SAVE found at a join and that has not executed it again leaves it too (R152)
  let s := match (s.lane r).back with
    | some j =>
      ((s.modGroup r (fun x => x.setArrived j (x.arrived j &&& ~~~ (laneBit r.l)))).modLane r (fun x => { x with back := none })).evaluate r.team r.g j
    | none => s
  match (s.lane r).cond with
  | .held _ => (s.leaveLines r).withdraw r
  | _ => s
/-- Whether a lane is held in a request that waits at another device. -/
def State.waitsAbroad (s : State) (r : LaneRef) : Bool :=
  match (s.lane r).cond with
  | .held h => h.pkt != 0 || (h.kind == .chain && (s.awaited r h).isSome)
  | _ => false
/-- A deferred fault is taken (R489); a lane whose request waits at another device takes it once that has been given back. -/
def State.takeDeferred (s : State) (n : Nat) (o : Op) (i : FaultInfo) : State :=
  let r := o.lane
  let x := s.lane r
  let counted (s : State) : State :=
    let g := s.gridOf r.team
    if g.stop.isSome && g.handler != 0 then s.stopEvent r i 0 else s
  if s.exited r then s.dropOp n o
  else if x.parked then (s.dropOp n o).modLane r (fun y => { y with deferred := y.deferred ++ [i] })
  else if x.issues = o.mark then
    counted (((s.dropOp n o).modLane r (fun y => { y with pc := BitVec.ofNat 64 i.fpc, cond := .running })).park r i false)
  else if s.waitsAbroad r then s.standDown r false
  else counted (((s.dropOp n o).takeBack r).park r i true)
/-- DEFERRED_FAULT: a fault found after issue arrives (R489). -/
def execDeferredFault (n : Nat) (s : State) : Host.Outcome State Fault Refusal :=
  .next (match Tab.find s.ops n with
    | none => s
    | some o =>
      match o.late, o.wait with
      | some i, .ready => s.takeDeferred n o i
      | _, _ => s)
/-- HANDLER_ENTRY: a parked lane enters the trap handler (R301). -/
def execHandlerEntry (r : LaneRef) (s : State) : Host.Outcome State Fault Refusal := .next (s.enterHandler r)

/-! ### Formations (R154, R169) -/

/-- The age threshold of a core in cycles (R154). -/
def State.ageLimit (s : State) (core : Nat) : Nat := Tab.getD s.ageThreshold core 256
/-- Cycle at which the oldest thread of a bin was filed (R154, R169). -/
def State.binSince (s : State) (b : Bin) : Nat := ((b.members.map (fun r => (s.lane r).filed)).min?).getD s.cycle
/-- FORMATION: a bin's oldest thread has waited the age threshold (R154). -/
def execFormation (n : Nat) (s : State) : Host.Outcome State Fault Refusal :=
  .next (match Tab.find s.bins n with
    | none => s
    | some b =>
      if b.formed || b.members.isEmpty || decide (s.cycle < s.binSince b + s.ageLimit b.core) then s
      else (({ s with bins := Tab.set s.bins n { b with formed := true } } : State).count 0 b.core 8).count 0 b.core 9)
/-- Occupied formation contexts of a partition. -/
def State.formedAt (s : State) (core p : Nat) : List Nat :=
  s.bins.filterMap (fun e => match e.2.place with | some (q, c) => if e.2.core = core ∧ q = p then some c else none | none => none)
/-- The partition with the fewest occupied formation contexts, the lowest on a tie, and its lowest free context (R169). -/
def State.formationPlace (s : State) (core : Nat) : Option (Nat × Nat) :=
  let n (p : Nat) : Nat := (s.formedAt core p).length
  let best := [1, 2, 3].foldl (fun b p => if n p < n b then p else b) 0
  ([12, 13].find? (fun c => !(s.formedAt core best).contains c)).map (fun c => (best, c))
/-- FORMATION_PLACEMENT: the waiting formation whose oldest thread has waited longest takes a free context (R169). -/
def execFormationPlacement (n : Nat) (s : State) : Host.Outcome State Fault Refusal :=
  .next (match Tab.find s.bins n with
    | none => s
    | some b =>
      if !b.formed || b.place.isSome || s.bins.any (fun e => e.2.core == b.core && e.2.formed && e.2.place.isNone && decide (s.binSince e.2 < s.binSince b))
      then s
      else match s.formationPlace b.core with
        | none => s
        | some p =>
          b.members.foldl (fun s r => s.modLane r (fun x => { x with since := s.cycle + 1 }))
            { s with bins := Tab.set s.bins n { b with place := some p } })

/-! ### Caches -/

/-- L1_COPY_EXPIRE: an L1 copy is dropped (R365). -/
def execL1CopyExpire (n : Nat) (s : State) : Host.Outcome State Fault Refusal := .next { s with l1 := Tab.erase s.l1 n }
/-- Entries of the shared TLBs of the package (R409). -/
def tlbEntries : Nat := 65536
/-- PAGE_WALK: a walk completes and its translation is cached, or it faults and nothing is (R404, R406, R409). -/
def execPageWalk (g va : Nat) (s : State) : Host.Outcome State Fault Refusal :=
  .next (if bits va 63 56 ≠ 0 ∨ (Tab.find s.grids g).isNone ∨ (s.tlbHit g va).isSome then s
    else
      match s.walkVa g va with
      | .leaf e size => { s with tlb := (s.tlb.drop (s.tlb.length + 1 - tlbEntries)) ++ [{ grid := g, va := va / size * size, size := size, pte := e }] }
      | .bad _ ue => s.countUe ue)

end Sys2Proof.Machine
end

