-- ==== Sys2Proof/Machine/CrossLane.lean ====
section
/-! DEFINITION. Cross-lane instructions (R159 to R164). -/

namespace Sys2Proof.Machine

open Sys2Proof

/-- The participants a lane meets: the lanes of the subset that are in handler as it is, or as it is not (R159, R302). -/
def State.fellows (s : State) (rs : List LaneRef) (r : LaneRef) : List LaneRef :=
  rs.filter (fun q => (s.lane q).inHandler == (s.lane r).inHandler)
/-- A cross-lane instruction: every lane's result is computed before any is written (R160). `flags` are those the combination of the
lanes raises. A lane whose own read fails parks and is no participant: it contributes nothing to the votes and combinations of the issue
(R159 does not say; log entry 62). -/
def crossLane (i : Instr) (d : Nat) (val : State → List LaneRef → LaneRef → Word) (flags : State → List LaneRef → FpFlags)
    (parity : State → LaneRef → Option Nat × Option Nat) (s : State) : Host.Outcome State Fault Refusal :=
  .next (execute 0 false (staticFault i) parity (fun s rs =>
    let vs := rs.map (fun r => (r, val s (s.fellows rs r) r))
    ((vs.foldl (fun s v => s.setReg v.1 d v.2) s).setFlags s.cur.team (flags s rs)).advanceAll rs) s)
/-- No flags. -/
def noFlags (_ : State) (_ : List LaneRef) : FpFlags := FpFlags.none
/-- b of a shuffle or QBC: a register, or imm7 under ALT (R160, R163). -/
def State.crossB (s : State) (r : LaneRef) (f : RForm) : Nat := if f.m = 1 then f.b.toNat else (s.reg r (rBReg f)).toNat
/-- The reads of a shuffle or quad exchange that fail parity in a lane: a as it stands in the lane that is read, and the lane's own b
(R20, R160, R163, R164). -/
def crossParity (f : RForm) (src : State → LaneRef → Nat) (s : State) (r : LaneRef) : Option Nat × Option Nat :=
  let a := s.badReads ⟨r.team, r.g, src s r⟩ [f.a.toNat]
  let b := if f.m = 1 then (none, none) else s.badReads r [rBReg f]
  ((a.1.toList ++ b.1.toList).min?, b.2)

/-- The source lane of a shuffle, where it is valid (R160). -/
def shuffleSrc (kind b l : Nat) : Option Nat :=
  if kind = 0 then some (b % 32)
  else if kind = 1 then (if l < b then none else some (l - b))
  else if kind = 2 then (if 31 < l + b then none else some (l + b))
  else some (Nat.xor l (b % 32))
/-- The lane a shuffle reads: the source where it takes part, else the lane itself (R160). -/
def shuffleFrom (kind : Nat) (f : RForm) (s : State) (ps : List LaneRef) (r : LaneRef) : Nat :=
  match shuffleSrc kind (s.crossB r f) r.l with
  | some k => if ps.contains ⟨r.team, r.g, k⟩ then k else r.l
  | none => r.l
/-- A shuffle. Its participants are those of the issue, also one whose own read fails: a lane that reads another's register is not touched
by a fault of that lane (R159, R160, R164). -/
def shuffle (i : Instr) (kind : Nat) (f : RForm) (s : State) : Host.Outcome State Fault Refusal :=
  let from_ (r : LaneRef) : Nat := shuffleFrom kind f s (s.fellows s.present r) r
  crossLane i f.d.toNat (fun s _ r => s.reg ⟨r.team, r.g, from_ r⟩ f.a.toNat) noFlags (crossParity f (fun _ r => from_ r)) s
/-- SHFLI (R160). -/
def execShfli (f : RForm) (s : State) : Host.Outcome State Fault Refusal := shuffle (.shfli f) 0 f s
/-- SHFLU (R160). -/
def execShflu (f : RForm) (s : State) : Host.Outcome State Fault Refusal := shuffle (.shflu f) 1 f s
/-- SHFLD (R160). -/
def execShfld (f : RForm) (s : State) : Host.Outcome State Fault Refusal := shuffle (.shfld f) 2 f s
/-- SHFLX (R160). -/
def execShflx (f : RForm) (s : State) : Host.Outcome State Fault Refusal := shuffle (.shflx f) 3 f s

/-- VOTEALL (R161). -/
def execVoteall (f : RForm) (s : State) : Host.Outcome State Fault Refusal :=
  crossLane (.voteall f) f.d.toNat (fun s ps _ => if (s.workers ps).all (fun q => s.reg q f.a.toNat != 0) then 1 else 0) noFlags
    (parityFault (.voteall f)) s
/-- VOTEANY (R161). -/
def execVoteany (f : RForm) (s : State) : Host.Outcome State Fault Refusal :=
  crossLane (.voteany f) f.d.toNat (fun s ps _ => if (s.workers ps).any (fun q => s.reg q f.a.toNat != 0) then 1 else 0) noFlags
    (parityFault (.voteany f)) s
/-- BALLOT (R161). -/
def execBallot (f : RForm) (s : State) : Host.Outcome State Fault Refusal :=
  crossLane (.ballot f) f.d.toNat (fun s ps _ =>
    BitVec.ofNat 32 ((s.workers ps).foldl (fun m q => if s.reg q f.a.toNat != 0 then m + 2 ^ q.l else m) 0)) noFlags
    (parityFault (.ballot f)) s
/-- ELECT (R161). -/
def execElect (f : RForm) (s : State) : Host.Outcome State Fault Refusal :=
  crossLane (.elect f) f.d.toNat (fun s ps r => if (s.workers ps).head? = some r then 1 else 0) noFlags (parityFault (.elect f)) s

/-- Combines values in turn from the identity (R162). -/
def combineAll (op : Nat) (vs : List Word) : Nat × Bool :=
  vs.foldl (fun (a : Nat × Bool) v => let r := atomicOp op 32 a.1 v.toNat; (r.1, a.2 || r.2)) (atomicIdentity op 32, false)
/-- The flag of a combination over the contributors: INV alone (R159). Every step of the fold is judged, also one whose NaN no lane receives or that
comes before a NaN contributor (DESIGN CHOICE, log entry 82). -/
def combineFlags (f : RForm) (s : State) (rs : List LaneRef) : FpFlags :=
  FpFlags.ofInv (rs.any (fun r => (combineAll (f.b.toNat % 16) ((s.workers (s.fellows rs r)).map (fun q => s.reg q f.a.toNat))).2))
/-- LRED (R162). -/
def execLred (f : RForm) (s : State) : Host.Outcome State Fault Refusal :=
  crossLane (.lred f) f.d.toNat (fun s ps _ =>
    BitVec.ofNat 32 (combineAll (f.b.toNat % 16) ((s.workers ps).map (fun q => s.reg q f.a.toNat))).1) (combineFlags f)
    (parityFault (.lred f)) s
/-- LSCAN, inclusive, or exclusive with b7[6] (R162). -/
def execLscan (f : RForm) (s : State) : Host.Outcome State Fault Refusal :=
  crossLane (.lscan f) f.d.toNat (fun s ps r =>
    let upTo := (s.workers ps).filter (fun q => if bit f.b.toNat 6 then decide (q.l < r.l) else decide (q.l ≤ r.l))
    BitVec.ofNat 32 (combineAll (f.b.toNat % 16) (upTo.map (fun q => s.reg q f.a.toNat))).1) (combineFlags f)
    (parityFault (.lscan f)) s

/-- A quad exchange from a partner lane, in whatever condition it is (R163). -/
def quad (i : Instr) (f : RForm) (src : State → LaneRef → Nat) (s : State) : Host.Outcome State Fault Refusal :=
  crossLane i f.d.toNat (fun s _ r => s.reg ⟨r.team, r.g, src s r⟩ f.a.toNat) noFlags (crossParity f src) s
/-- QXH (R163). -/
def execQxh (f : RForm) (s : State) : Host.Outcome State Fault Refusal := quad (.qxh f) f (fun _ r => Nat.xor r.l 1) s
/-- QXV (R163). -/
def execQxv (f : RForm) (s : State) : Host.Outcome State Fault Refusal := quad (.qxv f) f (fun _ r => Nat.xor r.l 2) s
/-- QXD (R163). -/
def execQxd (f : RForm) (s : State) : Host.Outcome State Fault Refusal := quad (.qxd f) f (fun _ r => Nat.xor r.l 3) s
/-- QBC (R163). -/
def execQbc (f : RForm) (s : State) : Host.Outcome State Fault Refusal :=
  quad (.qbc f) f (fun s r => r.l / 4 * 4 + s.crossB r f % 4) s

end Sys2Proof.Machine
end

