-- ==== Sys2Proof/Machine/Float.lean ====
section
/-! DEFINITION. FP32 arithmetic, functions, comparison and packed pairs (R115 to R124). -/

namespace Sys2Proof.Machine

open Sys2Proof

/-- FADD (R117). -/
def execFadd (f : RForm) (s : State) : Host.Outcome State Fault Refusal :=
  aluR (.fadd f) f (fun _ a b => faddW a b) s
/-- FSUB (R117). -/
def execFsub (f : RForm) (s : State) : Host.Outcome State Fault Refusal :=
  aluR (.fsub f) f (fun _ a b => fsubW a b) s
/-- FMUL (R117). -/
def execFmul (f : RForm) (s : State) : Host.Outcome State Fault Refusal :=
  aluR (.fmul f) f (fun _ a b => fmulW a b) s
/-- FMIN (R41, R117). -/
def execFmin (f : RForm) (s : State) : Host.Outcome State Fault Refusal :=
  aluR (.fmin f) f (fun _ a b => fminW a b) s
/-- FMAX (R41, R117). -/
def execFmax (f : RForm) (s : State) : Host.Outcome State Fault Refusal :=
  aluR (.fmax f) f (fun _ a b => fmaxW a b) s
/-- FDIV (R117). -/
def execFdiv (f : RForm) (s : State) : Host.Outcome State Fault Refusal :=
  aluR (.fdiv f) f (fun _ a b => fdivW a b) s
/-- FSCALE (R117). -/
def execFscale (f : RForm) (s : State) : Host.Outcome State Fault Refusal :=
  aluR (.fscale f) f (fun _ a b => fscaleW a b) s
/-- FMAC, with one rounding (R118). -/
def execFmac (f : RForm) (s : State) : Host.Outcome State Fault Refusal :=
  aluR (.fmac f) f fmacW s
/-- FABS (R119). -/
def execFabs (f : RForm) (s : State) : Host.Outcome State Fault Refusal :=
  aluR (.fabs f) f (fun _ a _ => fabsW a) s
/-- FNEG (R119). -/
def execFneg (f : RForm) (s : State) : Host.Outcome State Fault Refusal :=
  aluR (.fneg f) f (fun _ a _ => fnegW a) s
/-- FSQRT (R119). -/
def execFsqrt (f : RForm) (s : State) : Host.Outcome State Fault Refusal :=
  aluR (.fsqrt f) f (fun _ a _ => fsqrtW a) s
/-- FRCP (R121). -/
def execFrcp (f : RForm) (s : State) : Host.Outcome State Fault Refusal :=
  aluR (.frcp f) f (fun _ a _ => frcpW a) s
/-- FRSQ (R121). -/
def execFrsq (f : RForm) (s : State) : Host.Outcome State Fault Refusal :=
  aluR (.frsq f) f (fun _ a _ => frsqW a) s
/-- FEXP2 (R121). -/
def execFexp2 (f : RForm) (s : State) : Host.Outcome State Fault Refusal :=
  aluR (.fexp2 f) f (fun _ a _ => fexp2W a) s
/-- FLOG2 (R121). -/
def execFlog2 (f : RForm) (s : State) : Host.Outcome State Fault Refusal :=
  aluR (.flog2 f) f (fun _ a _ => flog2W a) s
/-- FSIN (R121). -/
def execFsin (f : RForm) (s : State) : Host.Outcome State Fault Refusal :=
  aluR (.fsin f) f (fun _ a _ => fsinW a) s
/-- FCOS (R121). -/
def execFcos (f : RForm) (s : State) : Host.Outcome State Fault Refusal :=
  aluR (.fcos f) f (fun _ a _ => fcosW a) s
/-- FTANH (R121). -/
def execFtanh (f : RForm) (s : State) : Host.Outcome State Fault Refusal :=
  aluR (.ftanh f) f (fun _ a _ => ftanhW a) s
/-- FGETEXP (R119). -/
def execFgetexp (f : RForm) (s : State) : Host.Outcome State Fault Refusal :=
  aluR (.fgetexp f) f (fun _ a _ => fgetexpW a) s
/-- FFLOOR (R119). -/
def execFfloor (f : RForm) (s : State) : Host.Outcome State Fault Refusal :=
  aluR (.ffloor f) f (fun _ a _ => fintW 3 a) s
/-- FCEIL (R119). -/
def execFceil (f : RForm) (s : State) : Host.Outcome State Fault Refusal :=
  aluR (.fceil f) f (fun _ a _ => fintW 2 a) s
/-- FRINT (R119). -/
def execFrint (f : RForm) (s : State) : Host.Outcome State Fault Refusal :=
  aluR (.frint f) f (fun _ a _ => fintW 0 a) s
/-- FTRUNC (R119). -/
def execFtrunc (f : RForm) (s : State) : Host.Outcome State Fault Refusal :=
  aluR (.ftrunc f) f (fun _ a _ => fintW 1 a) s
/-- FCLASS (R120). -/
def execFclass (f : RForm) (s : State) : Host.Outcome State Fault Refusal :=
  intR (.fclass f) f (fun a _ => classMask a) s
/-- FCMPEQ (R123). -/
def execFcmpeq (f : RForm) (s : State) : Host.Outcome State Fault Refusal :=
  cmpR (.fcmpeq f) f fEq s
/-- FCMPNE (R123). -/
def execFcmpne (f : RForm) (s : State) : Host.Outcome State Fault Refusal :=
  cmpR (.fcmpne f) f fNe s
/-- FCMPLT (R123). -/
def execFcmplt (f : RForm) (s : State) : Host.Outcome State Fault Refusal :=
  cmpR (.fcmplt f) f fLt s
/-- FCMPLE (R123). -/
def execFcmple (f : RForm) (s : State) : Host.Outcome State Fault Refusal :=
  cmpR (.fcmple f) f fLe s
/-- FCMPUN (R123). -/
def execFcmpun (f : RForm) (s : State) : Host.Outcome State Fault Refusal :=
  cmpR (.fcmpun f) f fUn s
/-- HADD2 (R124). -/
def execHadd2 (f : RForm) (s : State) : Host.Outcome State Fault Refusal :=
  aluR (.hadd2 f) f (packed (fun _ a b => fpAdd (pairFmt f) a b)) s
/-- HMUL2 (R124). -/
def execHmul2 (f : RForm) (s : State) : Host.Outcome State Fault Refusal :=
  aluR (.hmul2 f) f (packed (fun _ a b => fpMul (pairFmt f) a b)) s
/-- HMAC2, with one rounding for each element (R124). -/
def execHmac2 (f : RForm) (s : State) : Host.Outcome State Fault Refusal :=
  aluR (.hmac2 f) f (packed (fun d a b => fpFma (pairFmt f) a b d)) s

end Sys2Proof.Machine
end

