-- ==== Sys2Proof/Machine/Integer.lean ====
section
/-! DEFINITION. Integer, logic, address and predicate instructions (R92 to R114). -/

namespace Sys2Proof.Machine

open Sys2Proof

/-- ADD (R97). -/
def execAdd (f : RForm) (s : State) : Host.Outcome State Fault Refusal :=
  intR (.add f) f (· + ·) s
/-- SUB (R97). -/
def execSub (f : RForm) (s : State) : Host.Outcome State Fault Refusal :=
  intR (.sub f) f (· - ·) s
/-- MUL (R97). -/
def execMul (f : RForm) (s : State) : Host.Outcome State Fault Refusal :=
  intR (.mul f) f (· * ·) s
/-- MULHI (R97). -/
def execMulhi (f : RForm) (s : State) : Host.Outcome State Fault Refusal :=
  intR (.mulhi f) f mulHi s
/-- MULHIU (R97). -/
def execMulhiu (f : RForm) (s : State) : Host.Outcome State Fault Refusal :=
  intR (.mulhiu f) f mulHiU s
/-- AND (R97). -/
def execAnd (f : RForm) (s : State) : Host.Outcome State Fault Refusal :=
  intR (.and f) f (· &&& ·) s
/-- OR (R97). -/
def execOr (f : RForm) (s : State) : Host.Outcome State Fault Refusal :=
  intR (.or f) f (· ||| ·) s
/-- XOR (R97). -/
def execXor (f : RForm) (s : State) : Host.Outcome State Fault Refusal :=
  intR (.xor f) f (· ^^^ ·) s
/-- ANDN (R97). -/
def execAndn (f : RForm) (s : State) : Host.Outcome State Fault Refusal :=
  intR (.andn f) f (fun a b => a &&& ~~~ b) s
/-- ORN (R97). -/
def execOrn (f : RForm) (s : State) : Host.Outcome State Fault Refusal :=
  intR (.orn f) f (fun a b => a ||| ~~~ b) s
/-- SHL (R97, R98). -/
def execShl (f : RForm) (s : State) : Host.Outcome State Fault Refusal :=
  intR (.shl f) f shlW s
/-- SHRL (R97, R98). -/
def execShrl (f : RForm) (s : State) : Host.Outcome State Fault Refusal :=
  intR (.shrl f) f shrlW s
/-- SHRA (R97, R98). -/
def execShra (f : RForm) (s : State) : Host.Outcome State Fault Refusal :=
  intR (.shra f) f shraW s
/-- ROTL (R97, R98). -/
def execRotl (f : RForm) (s : State) : Host.Outcome State Fault Refusal :=
  intR (.rotl f) f rotlW s
/-- ROTR (R97, R98). -/
def execRotr (f : RForm) (s : State) : Host.Outcome State Fault Refusal :=
  intR (.rotr f) f rotrW s
/-- MIN (R97). -/
def execMin (f : RForm) (s : State) : Host.Outcome State Fault Refusal :=
  intR (.min f) f minS s
/-- MAX (R97). -/
def execMax (f : RForm) (s : State) : Host.Outcome State Fault Refusal :=
  intR (.max f) f maxS s
/-- MINU (R97). -/
def execMinu (f : RForm) (s : State) : Host.Outcome State Fault Refusal :=
  intR (.minu f) f minU s
/-- MAXU (R97). -/
def execMaxu (f : RForm) (s : State) : Host.Outcome State Fault Refusal :=
  intR (.maxu f) f maxU s
/-- ADDSAT (R97). -/
def execAddsat (f : RForm) (s : State) : Host.Outcome State Fault Refusal :=
  intR (.addsat f) f (fun a b => satW (a.toInt + b.toInt)) s
/-- SUBSAT (R97). -/
def execSubsat (f : RForm) (s : State) : Host.Outcome State Fault Refusal :=
  intR (.subsat f) f (fun a b => satW (a.toInt - b.toInt)) s
/-- ABS (R99). -/
def execAbs (f : RForm) (s : State) : Host.Outcome State Fault Refusal :=
  intR (.abs f) f (fun a _ => absW a) s
/-- POPC (R99). -/
def execPopc (f : RForm) (s : State) : Host.Outcome State Fault Refusal :=
  intR (.popc f) f (fun a _ => popcW a) s
/-- CLZ (R99). -/
def execClz (f : RForm) (s : State) : Host.Outcome State Fault Refusal :=
  intR (.clz f) f (fun a _ => clzW a) s
/-- CTZ (R99). -/
def execCtz (f : RForm) (s : State) : Host.Outcome State Fault Refusal :=
  intR (.ctz f) f (fun a _ => ctzW a) s
/-- BREV (R99). -/
def execBrev (f : RForm) (s : State) : Host.Outcome State Fault Refusal :=
  intR (.brev f) f (fun a _ => brevW a) s
/-- BFX (R100). -/
def execBfx (f : RForm) (s : State) : Host.Outcome State Fault Refusal :=
  intR (.bfx f) f bfxW s
/-- BFI, which reads its destination (R100). -/
def execBfi (f : RForm) (s : State) : Host.Outcome State Fault Refusal :=
  aluR (.bfi f) f (fun d a b => (bfiW d a b, FpFlags.none)) s
/-- PERMB, which reads its destination (R101). -/
def execPermb (f : RForm) (s : State) : Host.Outcome State Fault Refusal :=
  aluR (.permb f) f (fun d a b => (permbW d a b, FpFlags.none)) s
/-- LEA (R103). -/
def execLea (f : RForm) (s : State) : Host.Outcome State Fault Refusal :=
  pairR (.lea f) f leaD s
/-- ADD64 (R103). -/
def execAdd64 (f : RForm) (s : State) : Host.Outcome State Fault Refusal :=
  pairR (.add64 f) f (fun a b => (a + b) % 2 ^ 64) s
/-- SUB64 (R103). -/
def execSub64 (f : RForm) (s : State) : Host.Outcome State Fault Refusal :=
  pairR (.sub64 f) f (fun a b => (a + (2 ^ 64 - b)) % 2 ^ 64) s
/-- RADD: ALT = 1 subtracts (R112). -/
def execRadd (f : RForm) (s : State) : Host.Outcome State Fault Refusal :=
  pairR (.radd f) f (if f.m = 1 then resSub else resAdd) s
/-- SEL: vd := b where the predicate named by a7, negated under ALT, holds (R105). -/
def execSel (f : RForm) (s : State) : Host.Outcome State Fault Refusal :=
  runAll (.sel f) (fun s rs =>
    (rs.foldl (fun s r => if (s.lane r).pred f.a.toNat != (f.m == 1) then s.setReg r f.d.toNat (s.rB r f) else s) s).advanceAll rs) s
/-- MOV in its four forms; into an s-register from v the last lane supplies the value (R104, R16). -/
def execMov (f : RForm) (s : State) : Host.Outcome State Fault Refusal :=
  runAll (.mov f) (fun s rs =>
    ((if f.m = 1 ∨ f.m = 3 then rs.getLast?.toList else rs).foldl (fun s r =>
      s.setReg r ((if f.m = 1 ∨ f.m = 3 then 128 else 0) + f.d.toNat) (s.rB r f)) s).advanceAll rs) s
/-- CMPEQ (R106). -/
def execCmpeq (f : RForm) (s : State) : Host.Outcome State Fault Refusal :=
  cmpR (.cmpeq f) f eqW s
/-- CMPNE (R106). -/
def execCmpne (f : RForm) (s : State) : Host.Outcome State Fault Refusal :=
  cmpR (.cmpne f) f neW s
/-- CMPLT (R106). -/
def execCmplt (f : RForm) (s : State) : Host.Outcome State Fault Refusal :=
  cmpR (.cmplt f) f ltS s
/-- CMPLE (R106). -/
def execCmple (f : RForm) (s : State) : Host.Outcome State Fault Refusal :=
  cmpR (.cmple f) f leS s
/-- CMPLTU (R106). -/
def execCmpltu (f : RForm) (s : State) : Host.Outcome State Fault Refusal :=
  cmpR (.cmpltu f) f ltU s
/-- CMPLEU (R106). -/
def execCmpleu (f : RForm) (s : State) : Host.Outcome State Fault Refusal :=
  cmpR (.cmpleu f) f leU s
/-- PAND (R107). -/
def execPand (f : RForm) (s : State) : Host.Outcome State Fault Refusal :=
  predR (.pand f) f (· && ·) s
/-- POR (R107). -/
def execPor (f : RForm) (s : State) : Host.Outcome State Fault Refusal :=
  predR (.por f) f (· || ·) s
/-- PXOR (R107). -/
def execPxor (f : RForm) (s : State) : Host.Outcome State Fault Refusal :=
  predR (.pxor f) f (· != ·) s
/-- PNOT (R107). -/
def execPnot (f : RForm) (s : State) : Host.Outcome State Fault Refusal :=
  predR (.pnot f) f (fun a _ => !a) s
/-- P2V: the predicates as a byte (R108). -/
def execP2v (f : RForm) (s : State) : Host.Outcome State Fault Refusal :=
  runAll (.p2v f) (fun s rs => (rs.foldl (fun s r => s.setReg r f.d.toNat (s.lane r).predByte) s).advanceAll rs) s
/-- V2P: p1 to p7 from a register (R108). -/
def execV2p (f : RForm) (s : State) : Host.Outcome State Fault Refusal :=
  runAll (.v2p f) (fun s rs => (rs.foldl (fun s r => s.setPreds r (predsOf (s.reg r f.a.toNat))) s).advanceAll rs) s
/-- SRD: reads a special register, into an s-register from the last lane (R109, R95). -/
def execSrd (f : RForm) (s : State) : Host.Outcome State Fault Refusal :=
  runAll (.srd f) (fun s rs =>
    ((rLanes f rs).foldl (fun s r =>
      s.setRegs r (runWrites (rOff f + f.d.toNat) (s.special r f.a.toNat) (srWidth f.a.toNat))) s).advanceAll rs) s
/-- SWR: writes a special register from the last lane that is no helper (R110), in the order of R28 among groups; in deterministic mode a team of more than one group
may not set %dphase (R134). -/
def execSwr (f : RForm) (s : State) : Host.Outcome State Fault Refusal :=
  runAll (.swr f) (fun s rs =>
    let g := s.gridOf s.cur.team
    if g.det && f.d.toNat == 12 && decide (1 < g.ngroups) then s.raiseAll rs 0x19
    else
      (match (s.workers rs).getLast? with
       | some r => s.swr s.cur.team r.g f.d.toNat (s.regRun r (rOff f + f.a.toNat) (srWidth f.d.toNat))
       | none => s).advanceAll rs) s
/-- ADDI (R102). -/
def execAddi (f : IForm) (s : State) : Host.Outcome State Fault Refusal :=
  intI (.addi f) f (iSimm f) (· + ·) s
/-- MULI (R102). -/
def execMuli (f : IForm) (s : State) : Host.Outcome State Fault Refusal :=
  intI (.muli f) f (iSimm f) (· * ·) s
/-- ANDI (R102). -/
def execAndi (f : IForm) (s : State) : Host.Outcome State Fault Refusal :=
  intI (.andi f) f (iSimm f) (· &&& ·) s
/-- ORI (R102). -/
def execOri (f : IForm) (s : State) : Host.Outcome State Fault Refusal :=
  intI (.ori f) f (iSimm f) (· ||| ·) s
/-- XORI (R102). -/
def execXori (f : IForm) (s : State) : Host.Outcome State Fault Refusal :=
  intI (.xori f) f (iSimm f) (· ^^^ ·) s
/-- MINI (R102). -/
def execMini (f : IForm) (s : State) : Host.Outcome State Fault Refusal :=
  intI (.mini f) f (iSimm f) minS s
/-- MAXI (R102). -/
def execMaxi (f : IForm) (s : State) : Host.Outcome State Fault Refusal :=
  intI (.maxi f) f (iSimm f) maxS s
/-- SHLI (R102). -/
def execShli (f : IForm) (s : State) : Host.Outcome State Fault Refusal :=
  intI (.shli f) f (iCount f) shlW s
/-- SHRLI (R102). -/
def execShrli (f : IForm) (s : State) : Host.Outcome State Fault Refusal :=
  intI (.shrli f) f (iCount f) shrlW s
/-- SHRAI (R102). -/
def execShrai (f : IForm) (s : State) : Host.Outcome State Fault Refusal :=
  intI (.shrai f) f (iCount f) shraW s
/-- ROTLI (R102). -/
def execRotli (f : IForm) (s : State) : Host.Outcome State Fault Refusal :=
  intI (.rotli f) f (iCount f) rotlW s
/-- CMPEQI (R102, R106). -/
def execCmpeqi (f : IForm) (s : State) : Host.Outcome State Fault Refusal :=
  cmpI (.cmpeqi f) f (iSimm f) eqW s
/-- CMPNEI (R102, R106). -/
def execCmpnei (f : IForm) (s : State) : Host.Outcome State Fault Refusal :=
  cmpI (.cmpnei f) f (iSimm f) neW s
/-- CMPLTI (R102, R106). -/
def execCmplti (f : IForm) (s : State) : Host.Outcome State Fault Refusal :=
  cmpI (.cmplti f) f (iSimm f) ltS s
/-- CMPLEI (R102, R106). -/
def execCmplei (f : IForm) (s : State) : Host.Outcome State Fault Refusal :=
  cmpI (.cmplei f) f (iSimm f) leS s
/-- CMPLTUI: imm9 zero-extended (R102, R106). -/
def execCmpltui (f : IForm) (s : State) : Host.Outcome State Fault Refusal :=
  cmpI (.cmpltui f) f (f.imm.zeroExtend 32) ltU s
/-- DP4A: under ALT every byte of b is imm7 (R111). -/
def execDp4a (f : RForm) (s : State) : Host.Outcome State Fault Refusal :=
  aluR (.dp4a f) f (fun d a b => (dp4a d a (if f.m = 1 then fun _ => f.b.toNat else byteS b), FpFlags.none)) s

end Sys2Proof.Machine
end

