-- ==== Sys2Proof/Machine/Sched.lean ====
section
/-! DEFINITION. Binding and admission of teams (R166, R180, R386 to R389), pre-emption (R394 to R399), retirement (R174 to R177), context
stops (R307, R308) and the end of a grid (R176, R384). -/

namespace Sys2Proof.Machine

open Sys2Proof

/-! ### The save region (R386, R397) -/

/-- Rounds up to a multiple of 256. -/
def up256 (n : Nat) : Nat := (n + 255) / 256 * 256
/-- Lanes of a team, helpers among them (R21). -/
def Grid.allLanes (g : Grid) : Nat := (g.lanes + 3) / 4 * 4
/-- Bytes reserved for a team's image, with every tile entry held (R386, R397). -/
def Grid.imageSize (g : Grid) : Nat :=
  256 + up256 (512 * g.ngroups) + up256 ((64 + 4 * g.nreg) * g.allLanes) + 2048 + 16384 + 512 + up256 128 + g.localSize
/-- Bytes reserved for a gang's image: the state of R320 (R397; log entry 12). -/
def gangImageSize : Nat := 524288 + 524288 + up256 (1024 * 8) + 2 * (32768 + 2048 + 64) + 256 + up256 (16 * 64)

/-! ### Gangs and unbound teams -/

/-- Key of a gang. -/
def gangKey (grid gang : Nat) : Nat := grid * 2 ^ 32 + gang
/-- The teams of a team's gang that the state holds. -/
def State.gangTeams (s : State) (t : Nat) : List Nat :=
  (s.teams.filter (fun e => e.2.grid == (s.team t).grid && decide (s.gangOf e.1 = s.gangOf t))).map Prod.fst
/-- Teams that wait to be bound again, of a grid and a gang. -/
def State.waitingTeams (s : State) (g gang : Nat) : List (Nat × Team) :=
  s.images.filter (fun e => e.2.grid == g && e.2.teamid / (s.grid g).gangSize == gang)
/-- The teams of a gang that are bound or running. -/
def State.gangMembers (s : State) (g gang : Nat) : List (Nat × Team) :=
  s.teams.filter (fun e => e.2.grid == g && e.2.teamid / (s.grid g).gangSize == gang)
/-- A member of the gang is still being saved, or retires: its teams are bound again once it has gone. -/
def State.gangLeaving (s : State) (g gang : Nat) : Bool :=
  (s.gangMembers g gang).any (fun e => e.2.phase == .saving || e.2.phase == .stage1 || e.2.phase == .stage2)
/-- The gang of a grid that is bound next: that of its lowest unbound %teamid (R387). -/
def State.nextGang (s : State) (g : Nat) : Option Nat :=
  let x := s.grid g
  let old := ((s.images.filter (fun e => e.2.grid == g)).map (fun e => e.2.teamid)).filter (fun t => !s.gangLeaving g (t / x.gangSize))
  let new := if x.nextTeam < x.teamCount then [x.nextTeam] else []
  ((old ++ new).min?).map (fun t => t / x.gangSize)
/-- A grid starves where it has had no team bound for STARVE and has one to bind (R399; log entry 74). -/
def State.starved (s : State) (g : Nat) : Bool := decide ((s.grid g).lastBind + usNs (s.param 3) ≤ s.ns) && (s.nextGang g).isSome
/-- Effective priority of a grid (R399). -/
def State.effectivePrio (s : State) (g : Nat) : Nat := if s.starved g then 3 else (s.grid g).prio
/-- Save-region bytes for some teams of a gang that hold no reservation, and for the gang's image where no member holds one (R386). -/
def State.imageSpace (s : State) (g gang n : Nat) : Nat :=
  let x := s.grid g
  if s.saveSize = 0 ∨ n = 0 then 0
  else n * x.imageSize +
    (if x.matrix && !(s.waitingTeams g gang ++ s.gangMembers g gang).any (fun e => e.2.backed) then gangImageSize else 0)
/-- Save-region bytes the next gang of a grid needs: none for teams that hold their reservation (R386). -/
def State.bindSpace (s : State) (g gang : Nat) : Nat :=
  let x := s.grid g
  let old := s.waitingTeams g gang
  s.imageSpace g gang (if old.isEmpty then min x.gangSize (x.teamCount - gang * x.gangSize) else (old.filter (fun e => !e.2.backed)).length)
/-- Whether Trara could bind the next gang of a grid on a die, as far as the save region and the grid allow. -/
def State.canBind (s : State) (g die : Nat) : Bool :=
  match Tab.find s.grids g with
  | none => false
  | some x =>
    x.stop.isNone && x.dies.contains die &&
    (match s.nextGang g with
     | none => false
     | some k => s.bindSpace g k == 0 || decide (s.saveUsed + s.bindSpace g k ≤ s.saveSize))
/-- Trara binds from the grid of highest effective priority, the earliest accepted first (R399). -/
def State.bindsFirst (s : State) (g die : Nat) : Bool :=
  s.grids.all (fun e => e.1 == g || !s.canBind e.1 die ||
    decide (s.effectivePrio e.1 < s.effectivePrio g) ||
    (s.effectivePrio e.1 == s.effectivePrio g && (decide ((s.grid g).acceptedAt < e.2.acceptedAt) ||
      (e.2.acceptedAt == (s.grid g).acceptedAt && decide (g < e.1)))))
/-- The lowest free team slot of a core (R386). -/
def State.freeSlot (s : State) (die core : Nat) : Option Nat :=
  (List.range 16).find? (fun k => !(s.teams.any (fun e => e.2.die == die && e.2.core == core && e.2.slot == k)))
/-- The core on which a member of a gang is bound, by the core named for the gang (R387, R389). -/
def bindCore (g : Grid) (core teamid : Nat) : Nat :=
  if g.det then core / 4 * 4 + teamid % g.lcores % 4
  else if g.gangSize = 1 then core
  else core / 4 * 4 + (core % 4 + teamid % g.gangSize) % 4
/-- In deterministic mode every logical cluster has one physical cluster of its own (R389). -/
def State.detPlaces (s : State) (g die core teamid : Nat) : Bool :=
  let x := s.grid g
  !x.det || s.teams.all (fun e => e.2.grid != g ||
    decide ((e.2.teamid % x.lcores / 4 = teamid % x.lcores / 4) = (e.2.die = die ∧ e.2.core / 4 = core / 4)))
/-- Replaces a team's key wherever other state names the team. -/
def State.rekey (s : State) (old new : Nat) : State :=
  let one (t : Nat) : Nat := if t = old then new else t
  { s with
    upd := s.upd.map (fun e => (e.1, { e.2 with team := one e.2.team })),
    sent := s.sent.map (fun e => (e.1, { e.2 with team := one e.2.team })),
    queues := s.queues.map (fun e => (e.1, { e.2 with msgs := e.2.msgs.map (fun m => { m with team := one m.team }) })),
    tileImages := s.tileImages.map (fun e => (one e.1, e.2)) }
/-- Binds one team (R386, R388). A new record of a team that holds no image yet has one reserved, where a save region is set. The members
of a gang carry the RELEASE of its lowest %teamid (R387; log entry 68). -/
def State.bindTeam (s : State) (g die core teamid slot : Nat) : State :=
  let x := s.grid g
  let n := s.nextKey
  let s := { s with nextKey := n + 1 }
  match s.images.find? (fun e => e.2.grid == g && e.2.teamid == teamid) with
  | some (old, t) =>
    let t : Team := { t with die := die, core := core, slot := slot, phase := .bound, release := if t.resume then 0 else t.release,
                             backed := t.backed || s.saveSize != 0 }
    ({ s with images := Tab.erase s.images old, teams := Tab.set s.teams n t } : State).rekey old n
  | none =>
    let t : Team :=
      { Team.zero with grid := g, teamid := teamid, die := die, core := core, slot := slot, phase := .bound,
                       release := x.t0 + x.stagger * min (teamid / x.gangSize * x.gangSize) 65535, backed := s.saveSize != 0 }
    { s with teams := Tab.set s.teams n t }
/-- BIND_RECORD: Trara binds the next gang of a grid on a die, at a core of its choice (R386, R387). -/
def execBindRecord (g die core : Nat) (s : State) : Host.Outcome State Fault Refusal :=
  .next (if !s.ready || 208 ≤ core || 4 ≤ die || !s.canBind g die || !s.bindsFirst g die then s else
    match s.nextGang g with
    | none => s
    | some gang =>
      let x := s.grid g
      let cl := die * 52 + core / 4
      let old := (s.waitingTeams g gang).map (fun e => e.2.teamid)
      let ids := if old.isEmpty then (List.range (min x.gangSize (x.teamCount - gang * x.gangSize))).map (gang * x.gangSize + ·) else old
      let spots := ids.map (fun t => (t, bindCore x core t, s.freeSlot die (bindCore x core t)))
      let here := s.gangMembers g gang
      if spots.any (fun p => p.2.2.isNone) || ids.any (fun t => !s.detPlaces g die (bindCore x core t) t)
          || here.any (fun e => e.2.die != die || e.2.core != bindCore x core e.2.teamid)
          || (x.matrix && here.isEmpty && (s.last cl).holder.isSome) then s
      else
        let need := s.bindSpace g gang
        let s := if !x.matrix || !here.isEmpty then s else
          let l := Tab.getD s.gangImages (gangKey g gang) Last.zero
          ({ s with gangImages := Tab.erase s.gangImages (gangKey g gang) } : State).setLast cl { l with holder := some (g, gang) }
        let s := spots.foldl (fun s p => s.bindTeam g die p.2.1 p.1 (p.2.2.getD 0)) s
        let s := { s with saveUsed := s.saveUsed + need }
        s.setGrid g { x with lastBind := s.ns, nextTeam := if old.isEmpty then min x.teamCount ((gang + 1) * x.gangSize) else x.nextTeam })

/-! ### Admission (R166, R180) -/

/-- Teams of a core that hold its resources. -/
def State.coreTeams (s : State) (core : Nat) : List (Nat × Team) := s.teams.filter (fun e => e.2.gcore == core && e.2.resident)
/-- Occupied group contexts of a partition. -/
def State.heldContexts (s : State) (core p : Nat) : List Nat :=
  (s.coreTeams core).flatMap (fun e => e.2.groups.filterMap (fun g => if !g.2.retired ∧ g.2.partition = p then some g.2.context else none))
/-- Places the groups of a team from a base partition, each in the lowest free context (R166). -/
def placeGroups (held : Nat → List Nat) (base : Nat) : List Nat → List (Nat × Nat × Nat) → Option (List (Nat × Nat × Nat))
  | [], acc => some acc
  | g :: gs, acc =>
    let p := (base + g) % 4
    let used := held p ++ (acc.filter (fun e => e.2.1 == p)).map (fun e => e.2.2)
    match (List.range 12).find? (fun c => !used.contains c) with
    | some c => placeGroups held base gs (acc ++ [(g, p, c)])
    | none => none
/-- The partition with the most free contexts, the lowest on a tie (R166). -/
def basePartition (held : Nat → List Nat) : Nat := [1, 2, 3].foldl (fun b p => if (held p).length < (held b).length then p else b) 0
/-- The lowest offset of a core's local memory at which a region fits (R180). -/
def State.placeRegion (s : State) (core size : Nat) : Option Nat :=
  let rs := (s.coreTeams core).map (fun e => (e.2.base, (s.grid e.2.grid).localSize))
  let fits (b : Nat) : Bool := decide (b + size ≤ 393216) && rs.all (fun r => decide (b + size ≤ r.1) || decide (r.1 + r.2 ≤ b) || size == 0)
  ((0 :: rs.map (fun r => r.1 + r.2)).filter fits).min?
/-- The next allocation tag of a core, which skips 0 and the tags held there (R180). -/
def State.nextTag (s : State) (core : Nat) : Nat :=
  let held := (s.coreTeams core).map (fun e => e.2.tag)
  let c := Tab.getD s.tagCounter core 0
  (((List.range 18).map (fun i => (c + 1 + i) % 2 ^ 16)).find? (fun n => n != 0 && !held.contains n)).getD 1
/-- A group at group start (R13, R14, R21): its lanes stand at the entry, helper lanes among them. -/
def freshGroup (x : Grid) (g partition context entry cycle : Nat) (sig : Sig) : Group :=
  let n := min 32 (x.lanes - 32 * g)
  let all := min 32 ((n + 3) / 4 * 4)
  let word (v k : Nat) : Word := BitVec.ofNat 32 (v / 2 ^ (32 * k))
  { Group.zero with
    s := [(0, word x.record 0), (1, word x.record 1), (2, word x.args 0), (3, word x.args 1)],
    exited := BitVec.ofNat 32 (2 ^ 32 - 2 ^ all),
    lanes := (List.range all).map (fun l => (l, { Lane.zero with pc := BitVec.ofNat 64 entry, helper := decide (n ≤ l), since := cycle + 1, sig := sig })),
    partition := partition, context := context }
/-- The unreleased signatures of a team's lanes (R374, R397). -/
def Team.unreleased (t : Team) : Sig := t.groups.foldl (fun a e => e.2.lanes.foldl (fun a l => a.or l.2.sig) a) t.carry
/-- Starts a team (R13, R14, R180). A team restarted by a flush begins at IDEM_ENTRY in its idempotent region (R315). -/
def startTeam (x : Grid) (t : Team) (places : List (Nat × Nat × Nat)) (base tag cycle ns : Nat) : Team :=
  let entry := if t.inRegion then t.idemEntry.toNat else x.entry
  { Team.zero with
    grid := t.grid, teamid := t.teamid, die := t.die, core := t.core, slot := t.slot, phase := .running, release := t.release, backed := t.backed,
    groups := places.map (fun p => (p.1, freshGroup x p.1 p.2.1 p.2.2 entry cycle t.carry)), base := base, tag := tag, gate := true,
    inRegion := t.inRegion, idemEntry := t.idemEntry, admitted := ns, terr := t.terr }
/-- Resumes a saved team (R396). The next release of each of its lanes covers the saved signatures (R374). -/
def resumeTeam (t : Team) (places : List (Nat × Nat × Nat)) (base tag cycle ns : Nat) : Team :=
  { t with
    phase := .running, base := base, tag := tag, gate := true, admitted := ns, issueLog := [], resume := false, action := 0, redecide := false,
    groups := t.groups.map (fun e =>
      let x := e.2
      let p := (places.find? (fun q => q.1 == e.1)).map Prod.snd
      (e.1, { x with partition := (p.getD (x.partition, x.context)).1, context := (p.getD (x.partition, x.context)).2,
                     lanes := x.lanes.map (fun l => (l.1, { l.2 with since := cycle + 1, sig := t.unreleased })) })) }
/-- Whether a bound team's time for admission has come on its core: no earlier record of the core waits, and no drain of its grid holds the
core (R386, R388, R396). -/
def State.admitDue (s : State) (t : Nat) : Bool :=
  let x := s.team t
  x.phase == .bound && decide (x.release ≤ s.now / 100) && (s.grid x.grid).stop.isNone
    && s.teams.all (fun e => !(e.2.gcore == x.gcore && e.2.phase == Phase.bound && decide (e.1 < t)))
    && s.teams.all (fun e => !(e.2.gcore == x.gcore && e.2.grid == x.grid && e.2.action == 1))
/-- The saved tile entries with which a team comes back. -/
def State.savedTiles (s : State) (t : Nat) : List (Nat × Tile) := if (s.team t).resume then Tab.getD s.tileImages t [] else []
/-- The contexts and the region a bound team finds on its core, where its resources are free (R166, R180, R396). -/
def State.admitRoom (s : State) (t : Nat) : Option (List (Nat × Nat × Nat) × Nat) :=
  let x := s.team t
  let g := s.grid x.grid
  let held := s.heldContexts x.gcore
  let ids := if x.resume then (x.groups.filter (fun e => !e.2.retired)).map Prod.fst else List.range g.ngroups
  match placeGroups held (basePartition held) ids [], s.placeRegion x.gcore g.localSize with
  | some ps, some base => if (s.savedTiles t).any (fun e => (Tab.find s.tiles (tileKey x.gcore e.1)).isSome) then none else some (ps, base)
  | _, _ => none
/-- Whether the admission of a bound team is in turn: it is due, the die's rate permits, and no team with an earlier bind record that could be
admitted waits on its die (R386, R427). -/
def State.admitTurn (s : State) (t : Nat) : Bool :=
  let x := s.team t
  s.admitDue t && decide ((s.admits.filter (fun e => e.1 == x.die && decide (s.ns < e.2 + usNs 1))).length < s.param 5)
    && s.teams.all (fun e => !(decide (e.1 < t) && e.2.die == x.die && s.admitDue e.1 && (s.admitRoom e.1).isSome))
/-- TEAM_ADMIT: the core admits the bound team whose turn it is, once its resources are free (R166). A team that a flush has discarded starts
again on a core without L1 copies, as a saved one resumes (R374). -/
def execTeamAdmit (t : Nat) (s : State) : Host.Outcome State Fault Refusal :=
  .next (if !s.admitTurn t then s else
    let x := s.team t
    let g := s.grid x.grid
    let core := x.gcore
    let tiles := s.savedTiles t
    match s.admitRoom t with
    | some (ps, base) =>
      let tag := s.nextTag core
      let s := { s with tagCounter := Tab.set s.tagCounter core tag,
                        admits := s.admits.filter (fun (e : Nat × Nat) => decide (s.ns < e.2 + usNs 1)) ++ [(x.die, s.ns)] }
      let s := if g.first then s else (s.setGrid x.grid { g with first := true }).statusPut x.grid 0x10 (leBytes 8 (s.now / 100))
      if x.resume then
        let s := s.setTeam t (resumeTeam x ps base tag s.cycle s.ns)
        let s := tiles.foldl (fun s e => s.setTile (tileKey core e.1) { e.2 with team := t, slot := x.slot }) s
        ({ s with tileImages := Tab.erase s.tileImages t } : State).dropL1 core .all
      else
        let s := s.setTeam t (startTeam g x ps base tag s.cycle s.ns)
        if x.inRegion then s.dropL1 core .all else s
    | none => s)

/-! ### The end of an action, and LASTPRE (R382, R383) -/

/-- Whether a team is still under an action of a pre-emption request. -/
def State.actionsLeft (s : State) (n : Nat) : Bool := s.teams.any (fun e => e.2.request == n && e.2.action != 0)
/-- Writes LASTPRE for each request of a grid all of whose teams have finished their actions, in the order of the requests (R383). -/
def State.endRequest (s : State) (g : Nat) : State :=
  ((s.grid g).requests.filter (fun e => !s.actionsLeft e.1)).foldl (fun s e =>
    let x := s.grid g
    (s.setGrid g { x with requests := Tab.erase x.requests e.1, lastPre := e.2 }).statusPut g 0x24 (leBytes 4 e.2)) s
/-- Sets bits of LASTPRE for the request whose action a team is under. -/
def State.preBit (s : State) (t n : Nat) : State :=
  let y := s.team t
  let x := s.grid y.grid
  match Tab.find x.requests y.request with
  | some b => s.setGrid y.grid { x with requests := Tab.set x.requests y.request (Nat.lor b n) }
  | none => s

/-! ### Retirement (R174, R175) -/

/-- Gives back the reservation of a team, and of its gang with its last member (R386). -/
def State.freeImage (s : State) (g : Nat) (backed lastOfGang : Bool) : State :=
  if !backed then s else
  let x := s.grid g
  { s with saveUsed := s.saveUsed - (x.imageSize + (if lastOfGang && x.matrix then gangImageSize else 0)) }
/-- Whether a group may retire (R174). -/
def State.groupDone (s : State) (t g : Nat) : Bool :=
  let x := (s.team t).group g
  !x.retired && x.lanes.all (fun e => x.exited.getLsbD e.1)
    && x.lanes.all (fun e => e.2.away.isNone && !e.2.parked && !e.2.inHandler && e.2.sb.all (fun k => k.2 == 0))
    && !(s.ops.any (fun e => e.2.lane.team == t && e.2.lane.g == g && !(e.2.writes.isEmpty && e.2.preds.isEmpty)))
/-- GROUP_RETIRE; with its last group the team enters stage 1 of retirement (R174, R175, R200). -/
def execGroupRetire (t g : Nat) (s : State) : Host.Outcome State Fault Refusal :=
  .next (if (s.team t).phase ≠ .running ∨ ((s.team t).groups.all (fun e => e.1 != g)) ∨ !s.groupDone t g then s else
    let s := (s.modTeam t (fun x => x.setGroup g { x.group g with retired := true })).settle t g
    if (s.team t).groups.all (fun e => e.2.retired) then (s.modTeam t (fun x => { x with phase := .stage1 })).closeRing t else s)
/-- TEAM_RETIRE_STAGE2: every copy has been acknowledged; the DIRTY sectors are written back and the mappings removed (R175, R186). -/
def execTeamRetireStage2 (t : Nat) (s : State) : Host.Outcome State Fault Refusal :=
  .next (if (s.team t).phase ≠ .stage1 ∨ !s.quiet t then s else
    let f := s.flushAll t 0 (s.regionSize t)
    let s := match f.2 with | some c => f.1.countFault t c | none => f.1
    s.modTeam t (fun x => { x with stash := [], phase := .stage2 }))
/-- The walks of a team end. -/
def State.endWalks (s : State) (t : Nat) : State :=
  let x := s.team t
  match Tab.find s.lasts x.cluster with
  | some l => s.setLast x.cluster { l with walks := l.walks.filter (fun e => !(e.2.grid == x.grid && e.2.teamid == x.teamid)) }
  | none => s
/-- The tile-table entries of a team are freed. -/
def State.freeTiles (s : State) (t : Nat) : State := { s with tiles := s.tiles.filter (fun e => e.2.team != t) }
/-- Releases the Last that a gang holds. -/
def State.releaseLast (s : State) (t : Nat) : State := if s.holdsLast t then { s with lasts := Tab.erase s.lasts (s.team t).cluster } else s
/-- Keeps the state of the Last that a gang holds in the gang's image, and releases the Last (R396). -/
def State.keepLast (s : State) (t : Nat) : State :=
  if s.holdsLast t then
    { s with gangImages := Tab.set s.gangImages (gangKey (s.team t).grid (s.gangOf t)) { s.last (s.team t).cluster with holder := none },
             lasts := Tab.erase s.lasts (s.team t).cluster }
  else s
/-- TEAM_RETIRE_STAGE3: the write-back has been acknowledged; the team's entries, states, pins and walks are freed, and with stage 4 its
memory, its slot and, with the last member of a holding gang, the Last (R175). -/
def execTeamRetireStage3 (t : Nat) (s : State) : Host.Outcome State Fault Refusal :=
  .next (if (s.team t).phase ≠ .stage2 then s else
    let x := s.team t
    let g := x.grid
    let s := ((s.freeTiles t).unpinAll t).endWalks t
    let waits := !(s.waitingTeams g (s.gangOf t)).isEmpty
    let others := (s.gangTeams t).any (· != t) || waits
    let s := if (s.gangTeams t).any (· != t) then s else if waits then s.keepLast t else s.releaseLast t
    -- a peer that waits on an object of the region finds the rank absent (R183)
    let ws := (s.waiters.filter (fun e => e.2.localTo == t + 1)).map (fun e => e.2.lane)
    let s := ws.foldl (fun s r => s.faultHeld r 9 (match (s.lane r).cond with | .held h => h.ea | _ => 0)) (s.dropWaiters (fun w => w.localTo == t + 1))
    let s := (s.freeImage g x.backed (!others)).count 0 x.gcore 12
    let y := s.grid g
    let s := s.setGrid g { y with liveTeams := y.liveTeams - 1 }
    let s := if x.action = 4 ∧ y.liveTeams = 1 then s.preBit t 16 else s
    ({ s with teams := Tab.erase s.teams t } : State).endRequest g)
/-- GRID_COMPLETE: every team has retired; completion is signalled once (R176, R384), and the marks and translations of the grid go
(R242). -/
def execGridComplete (g : Nat) (s : State) : Host.Outcome State Fault Refusal :=
  .next (match Tab.find s.grids g with
    | none => s
    | some x =>
      if x.liveTeams != 0 || s.teams.any (fun e => e.2.grid == g) || (match x.stop with | some st => !st.written | none => false) then s else
      let s := s.statusPut g 0x18 (leBytes 8 (s.now / 100))
      let s := s.donePut (s.place g x.status 1) (g * 2 ^ 32 + (if x.stop.isSome then 2 else 1))
      let s := s.raiseIrq x.flags g
      { s with grids := Tab.erase s.grids g, marks := s.marks.filter (fun e => e.2 != g), tlb := s.tlb.filter (fun e => e.grid != g),
               icache := s.icache.filter (fun e => e.grid != g), qcache := s.qcache.filter (fun e => e.2.1 != g) })

/-! ### Context stops (R307, R308) -/

/-- The stop record (R308). -/
def stopRecord (g : Nat) (st : StopInfo) : List Byte :=
  leBytes 4 st.cause ++ leBytes 4 st.where_ ++ leBytes 4 st.teamid ++ leBytes 4 g ++ leBytes 8 st.pc ++ leBytes 8 st.addr ++ leBytes 8 st.time
    ++ leBytes 4 st.place ++ leBytes 4 st.count ++ zeros 16
/-- A stop by BRK, from which the context may resume (R307, R312). -/
def StopInfo.isBreak (st : StopInfo) : Bool := st.cause % 256 == 0x1C
/-- Tears a stopped context down: its teams pass through retirement (R307). -/
def State.tearDown (s : State) (g : Nat) : State :=
  let x := s.grid g
  let ts := s.teams.filter (fun e => e.2.grid == g)
  let bound := ts.filter (fun (e : Nat × Team) => e.2.phase == Phase.bound)
  let gone := bound ++ s.images.filter (fun e => e.2.grid == g)
  let live := ts.filter (fun (e : Nat × Team) => e.2.phase != Phase.bound)
  let gang (e : Nat × Team) : Nat := e.2.teamid / x.gangSize
  let left (k : Nat) : Bool := live.all (fun e => gang e != k)
  let s := gone.foldl (fun s e => s.givePins e.2.pins) s
  -- the last waiting member of a gang gives back the gang's image and its Last
  let s := (gone.zipIdx).foldl (fun s e => s.freeImage g e.1.2.backed (left (gang e.1) && (gone.drop (e.2 + 1)).all (fun f => gang f != gang e.1))) s
  let s := { s with lasts := s.lasts.filter (fun e => match e.2.holder with | some (h, k) => !(h == g && left k) | none => true) }
  let s := { s with teams := s.teams.filter (fun e => !(e.2.grid == g && e.2.phase == Phase.bound)),
                    images := s.images.filter (fun e => e.2.grid != g), gangImages := s.gangImages.filter (fun e => e.1 / 2 ^ 32 != g) }
  let s := live.foldl (fun s e => if e.2.phase == Phase.stopping then (s.modTeam e.1 (fun y => { y with phase := .stage1 })).closeRing e.1 else s) s
  s.setGrid g { x with nextTeam := x.teamCount, liveTeams := live.length }
/-- CONTEXT_STOP: from the cycle after the event the teams of a stopped context stop issuing and their held lanes are withdrawn; a SAVE or
FLUSH under way is carried through (R394); once their work is quiet the stop record
is written and the host notified, and unless the cause is BREAKPOINT the context is torn down (R307). -/
def execContextStop (g : Nat) (s : State) : Host.Outcome State Fault Refusal :=
  .next (match (s.grid g).stop with
    | none => s
    | some st =>
      if st.written || decide (s.cycle ≤ st.cycle) then s else
      let mine := (s.teams.filter (fun e => e.2.grid == g)).map (fun e => (e.1, e.2.phase))
      let going := mine.filter (fun e => e.2 == .running)
      if !going.isEmpty then going.foldl (fun s e => s.stopTeam e.1 .stopping false) s
      else if mine.any (fun e => e.2 == .saving || e.2 == .flushing || (e.2 == .stopping && !s.quiet e.1)) then s
      else
        let x := s.grid g
        let s := s.setGrid g { x with stop := some { st with written := true } }
        let s := (s.statusPut g 0x40 (stopRecord g st))
        let s := { s with outgoing := s.outgoing ++ [.stopNotice g] }
        if st.isBreak then s else s.tearDown g)

/-! ### Pre-emption (R394 to R398) -/

/-- Whether DRAIN's estimate holds of a team (R395). -/
def State.drainSoon (s : State) (t : Nat) : Bool :=
  let x := s.team t
  let e := (s.grid x.grid).expect
  let left := e - x.issued
  let el := min (usNs 10) (s.ns - x.admitted)
  let n := (x.issueLog.filter (fun c => decide (s.ns < c + usNs 10))).length
  let d := s.param 0
  -- RATE is n issues in el ns, and at least 1 per µs
  e != 0 && (decide (left ≤ d) || (n != 0 && decide (left * el ≤ d * n * 1000)))
/-- Whether FLUSH's conditions hold of a team; a host request does not look at SINCE (R395). -/
def State.mayFlush (s : State) (t : Nat) (named : Bool) : Bool :=
  let x := s.team t
  (s.grid x.grid).idem && x.inRegion && (named || decide (x.issued - x.issuedAtIdem ≤ s.param 1))
/-- A team whose lanes have all exited but for lanes in a trap handler: a pre-emption saves it (R398). -/
def State.onlyHandlers (s : State) (t : Nat) : Bool :=
  let rs := (s.teamLanes t).filter (fun r => !s.exited r)
  !rs.isEmpty && rs.all (fun r => (s.lane r).inHandler)
/-- What Trara's rule gives for one team: 1 DRAIN, 2 SAVE, 3 FLUSH (R395, R398). `again` leaves out the DRAIN branch. -/
def State.ownAction (s : State) (t : Nat) (again : Bool) : Nat :=
  if s.onlyHandlers t then 2 else if !again && s.drainSoon t then 1 else if s.mayFlush t false then 3 else 2
/-- The action for the teams of a gang, and whether a DRAIN is decided again: what every member would take, else SAVE, and where a member is
unbacked, FLUSH if its conditions hold for every member, or a DRAIN for good (R395). -/
def State.chooseAction (s : State) (ts : List Nat) (named : Nat) (again : Bool) : Nat × Bool :=
  let backed := ts.all (fun t => (s.team t).backed)
  let own : Nat × Bool :=
    if ts.all (fun t => s.ownAction t again == 1) then (1, true)
    else if ts.all (fun t => s.ownAction t again == 3) then (3, false)
    else if backed then (2, false)
    else if ts.all (fun t => s.mayFlush t false) then (3, false)
    else (1, false)
  if named = 1 then (1, false)
  else if named = 3 ∧ ts.all (fun t => s.mayFlush t true) then (3, false)
  else if named = 2 ∧ backed then (2, false)
  else own
/-- A team all of whose lanes have exited, which has yet to retire (R398). -/
def State.allExited (s : State) (t : Nat) : Bool :=
  (s.teamLanes t).all (fun r => s.exited r)
/-- Applies an action to a team, under a request (R396). -/
def State.applyAction (s : State) (t n : Nat) (a : Nat × Bool) : State :=
  let s := s.modTeam t (fun x => { x with action := a.1, actionAt := s.ns, redecide := a.2, request := n })
  if a.1 = 1 then s.preBit t 2
  else if a.1 = 2 then ((s.stopTeam t .saving false).modTeam t (fun x => { x with gate := false })).preBit t 4
  else ((s.stopTeam t .flushing true).modTeam t (fun x => { x with gate := false })).preBit t 8
/-- Pre-empts the resident teams among `ts`, which are of one gang, under request `n`, a stopped context's among them (R394): an exit that has
won takes no action (R398). -/
def State.preemptGang (s : State) (ts : List Nat) (n named : Nat) (again : Bool) : State :=
  let run := ts.filter (fun t => (s.team t).phase == .running || (s.team t).phase == .stopping)
  let won := run.filter (fun t => s.allExited t)
  let go := run.filter (fun t => !s.allExited t)
  let s := won.foldl (fun s t => (s.modTeam t (fun x => { x with action := 4, request := n })).preBit t 1) s
  if go.isEmpty then s else
  let a := s.chooseAction go named again
  go.foldl (fun s t => s.applyAction t n a) s
/-- Unbinds the teams of a grid that are bound and not yet admitted (R394). -/
def State.unbind (s : State) (ts : List Nat) : State :=
  ts.foldl (fun s t => if (s.team t).phase ≠ .bound then s else
    { s with images := Tab.set s.images t (s.team t), teams := Tab.erase s.teams t }) s
/-- Unbound members of a gang with MATRIX leave the Last as it stands for their next binding. -/
def State.unbindGang (s : State) (ts : List Nat) : State :=
  let s1 := s.unbind ts
  match ts with
  | [] => s1
  | t :: _ =>
    if s.holdsLast t && (s1.teams.all (fun e => !(e.2.grid == (s.team t).grid && decide (s1.gangOf e.1 = s.gangOf t)))) then
      let k := s.keepLast t
      { s1 with gangImages := k.gangImages, lasts := k.lasts }
    else s1
/-- One pre-emption request that reaches the teams `ts` of a grid (R382, R383, R394): gang by gang. It is counted once, and a team that a
new request takes from its DRAIN has ended that action; a DRAIN that is not decided again stays (R395). -/
def State.preemptRequest (s : State) (g : Nat) (ts : List Nat) (named : Nat) : State :=
  let x := s.grid g
  let n := s.nextKey
  let pre := (x.preempts + 1) % 2 ^ 32
  let s := (({ s with nextKey := n + 1 } : State).setGrid g { x with preempts := pre, requests := Tab.set x.requests n 0 }).statusPut g 0x20 (leBytes 4 pre)
  let gangs := distinct (ts.map (fun t => s.gangOf t))
  let s := gangs.foldl (fun s k =>
    let mine := ts.filter (fun t => s.gangOf t == k && (Tab.find s.teams t).isSome)
    let s := s.preemptGang (mine.filter (fun t => (s.team t).action == 0 || ((s.team t).action == 1 && (s.team t).redecide))) n named false
    s.unbindGang (mine.filter (fun t => (s.team t).phase == .bound))) s
  s.endRequest g
/-- Whether Trara's policy lets a team be pre-empted: it has run for QUANTUM, and a grid of higher effective priority waits, or a starving one
of the same (R399). -/
def State.policyAllows (s : State) (t : Nat) : Bool :=
  let x := s.team t
  x.phase != .bound && decide (x.admitted + usNs (s.param 2) ≤ s.ns) &&
  s.grids.any (fun e => e.1 != x.grid && s.canBind e.1 x.die &&
    (decide (s.effectivePrio x.grid < s.effectivePrio e.1) || (s.starved e.1 && decide (s.effectivePrio x.grid = s.effectivePrio e.1))))
/-- PREEMPTION: one request reaches some teams, each with its gang; by Trara's policy for the action 0, which unbinds what is
bound of a gang with it, otherwise as the host names it (R394, R395). Each grid that has teams among them is reached by it once (R382). -/
def execPreemption (teams : List Nat) (action : Nat) (s : State) : Host.Outcome State Fault Refusal :=
  .next (let ts := distinct ((teams.filter (fun t => (Tab.find s.teams t).isSome)).flatMap s.gangTeams)
    if 3 < action ∨ (action = 0 ∧ !(teams.all s.policyAllows && ts.all (fun t => (s.team t).phase == .bound || s.policyAllows t))) then s
    else (distinct (ts.map (fun t => (s.team t).grid))).foldl (fun s' g => s'.preemptRequest g (ts.filter (fun t => (s.team t).grid == g)) action) s)
/-- DRAIN_REDECISION: a team still resident 2 × D_DRAIN after a DRAIN began is decided again without the DRAIN branch (R395). -/
def execDrainRedecision (t : Nat) (s : State) : Host.Outcome State Fault Refusal :=
  .next (let x := s.team t
    if x.action ≠ 1 ∨ !x.redecide ∨ x.phase ≠ .running ∨ s.ns < x.actionAt + usNs (2 * s.param 0) then s
    else s.preemptGang ((s.gangTeams t).filter (fun u => (s.team u).action == 1)) x.request 0 true)
/-- The tile entries a team holds, by index (R397). -/
def State.tilesOf (s : State) (t : Nat) : List (Nat × Tile) := (s.tiles.filter (fun e => e.2.team == t)).map (fun e => (e.1 % 64, e.2))
/-- SAVE_COMPLETE: the team is quiet; its image is complete and its resources are freed (R31, R396, R397). -/
def execSaveComplete (t : Nat) (s : State) : Host.Outcome State Fault Refusal :=
  .next (if (s.team t).phase ≠ .saving ∨ !s.quiet t then s else
    let f := s.flushAll t 0 (s.regionSize t)
    let s := match f.2 with | some c => f.1.countFault t c | none => f.1
    let x := s.team t
    let g := x.grid
    let image : Team := { x with phase := .saved, resume := true, action := 0, redecide := false, stash := x.stash.map (fun m => { m with sectors := [] }) }
    let tiles := s.tilesOf t
    let others := (s.gangTeams t).any (· != t)
    let s := if others then s else s.keepLast t
    let s := s.freeTiles t
    ({ s with images := Tab.set s.images t image, tileImages := Tab.set s.tileImages t tiles, teams := Tab.erase s.teams t } : State).endRequest g)
/-- Discards a flushed team and binds it anew at once, to start at IDEM_ENTRY (R315, R396). Where no image can be reserved for the new record,
`back` is false and the team stays unbound (R386). -/
def State.restart (s : State) (t : Nat) (back : Bool) : State :=
  let x := s.team t
  let n := s.nextKey
  let s := (s.freeTiles t).unpinAll t
  let y : Team :=
    { Team.zero with grid := x.grid, teamid := x.teamid, die := x.die, core := x.core, slot := x.slot, phase := .bound,
                     backed := x.backed || (back && s.saveSize != 0), inRegion := true, idemEntry := x.idemEntry, terr := x.terr,
                     carry := x.unreleased }
  let s : State := { s with nextKey := n + 1, teams := Tab.erase s.teams t }
  (if back then { s with teams := Tab.set s.teams n y } else { s with images := Tab.set s.images n y } : State).rekey t n
/-- FLUSH_AND_RESTART: the gang is quiet, and the requests its members have had accepted have executed (R319); its teams are discarded and
restarted, and a Last they hold takes reset values (R315, R396). -/
def execFlushAndRestart (t : Nat) (s : State) : Host.Outcome State Fault Refusal :=
  .next (let ts := (s.gangTeams t).filter (fun u => (s.team u).phase == .flushing)
    let x := s.team t
    if x.phase ≠ .flushing ∨ ts.any (fun u => !s.quiet u) ∨ (s.holdsLast t ∧ !(s.last x.cluster).table.isEmpty) then s else
    let gang := s.gangOf t
    let need := s.imageSpace x.grid gang (ts.filter (fun u => !(s.team u).backed)).length
    let back := need == 0 || decide (s.saveUsed + need ≤ s.saveSize)
    let s := if !s.holdsLast t then s
      else if back then s.setLast x.cluster { Last.zero with holder := (s.last x.cluster).holder }
      else { s with lasts := Tab.erase s.lasts x.cluster }
    let s := if back then { s with saveUsed := s.saveUsed + need } else s
    (ts.foldl (fun s u => s.restart u back) s).endRequest x.grid)

end Sys2Proof.Machine
end

