-- ==== Sys2Proof/Machine/Link.lean ====
section
/-! DEFINITION. Links, the time base, the peer table, requests arriving from other devices, sealed flits and circuit slots (R435 to R455,
R482). -/

namespace Sys2Proof.Machine

open Sys2Proof

/-! ### Links and the time base (R435, R437) -/

/-- Whether an offer is within the supported parts of a port's standard: UALink 200G, with the lanes that Trara has given each port of the
group and none of the standard's security; or 800 GbE with the RUD service, no security, no offload, and the clock as listed (R435). -/
def offerOk (port config : Nat) (o : LinkOffer) : Bool :=
  if port < 24 then !o.ethernet && o.rate == 200 && o.lanes == config && decide ((o.part + 1) * config ≤ 4) && !o.security
  else o.ethernet && o.rate == 800 && o.service == 0 && o.part == 0 && !o.security && !o.offload && !o.otherClock
/-- LINK_TRAINING, from READY on (R423, R435): a peer that offers anything else is refused, and the port is down. Packets that have waited for a port go on
(R447). -/
def execLinkTraining (port : Nat) (offer : LinkOffer) (s : State) : Host.Outcome State Fault Refusal :=
  .next (if 32 ≤ port ∨ 4 ≤ offer.part ∨ s.boot ≠ .ready then s else
    let x := Tab.getD s.ports port Port.zero
    ({ s with ports := Tab.set s.ports port { x with links := Tab.set x.links offer.part (offerOk port x.config offer), busy := s.now } } : State).resendMoved)
/-- PTP_MESSAGE: the offset to the grandmaster, in hundredths of a nanosecond, is steered in by frequency, never by a step; outside ±50 ns
the time base is UNLOCKED (R437). -/
def execPtpMessage (offset : Int) (s : State) : Host.Outcome State Fault Refusal :=
  .next { s with steer := offset, unlocked := decide (5000 < offset.natAbs) }
/-- UNLOCKED: discipline is lost and the time base runs free (R437). -/
def execUnlocked (s : State) : Host.Outcome State Fault Refusal := .next { s with steer := 0, unlocked := true }

/-! ### Settling sent requests (R440, R442, R447) -/

/-- Whether an operation brings data back: to registers, or to a tile through a landing. -/
def State.bringsData (s : State) (k : Nat) (o : Op) : Bool := o.fill.isSome || s.landings.any (fun e => e.2.op == some k)
/-- Completes an operation whose lane has gone on and whose request was dropped. -/
def State.dropPlain (s : State) (k : Nat) (o : Op) (strict : Bool) (g addr : Nat) : State :=
  let data := s.bringsData k o
  if strict && data then s.spoilOp k o 8 addr
  else (s.fabricPlain k { o with info := { o.info with insn := 0 } } 0 [] addr 8).stopLost (if data then 0 else g) addr
/-- The operations of the lanes that share a dropped request (R204). -/
def State.dropShared (s : State) (k : Nat) (o : Op) (strict : Bool) (g addr : Nat) : State :=
  (s.ops.filter (fun e => e.1 != k && e.2.wait == o.wait)).foldl (fun s e =>
    match Tab.find s.ops e.1 with
    | some q => s.dropPlain e.1 q strict g addr
    | none => s) (s.dropPlain k o strict g addr)
/-- Completes an operation whose request was dropped, with zeros; a store has no effect (R442). Under STRICT the lane that would receive
zeros parks, and a request that brings nothing back stops the grid (R432). -/
def State.dropForOp (s : State) (k : Nat) (o : Op) (strict : Bool) (g addr : Nat) : State :=
  if o.info.code = takeBackCode then ({ s with ops := Tab.erase s.ops k } : State).askBack o.info.detail o.info.addr
  else if o.info.code = 0xFF then
    let s := { s with ops := Tab.erase s.ops k }
    match s.chains.find? (fun e => e.2.team == o.lane.team) with
    | none => s
    | some (n, c) =>
      if strict then s.chainFault n 8
      else
        let s := ({ s with chains := Tab.erase s.chains n } : State).dropWaiters
          (fun w => w.kind == .chain && c.lanes.any (fun e => e.1 == w.lane))
        c.lanes.foldl (fun s e => match (s.lane e.1).cond with
          | .held h => s.release e.1 (runWrites h.x.d.toNat 0 (c.width / 32)) []
          | _ => s) s
  else
    match (s.lane o.lane).cond with
    | .held h =>
      if h.awaits o then
        let s := { s with ops := Tab.erase s.ops k }
        if strict then s.faultHeld o.lane 8 addr else s.release o.lane (runWrites h.x.d.toNat 0 1) []
      else s.dropShared k o strict g addr
    | _ => s.dropShared k o strict g addr
/-- Whether a packet is the load of helper lanes alone, which sets no sticky bit (R22). -/
def State.helperLoad (s : State) (q : Sent) : Bool :=
  match q.op.bind (Tab.find s.ops) with
  | some o => s.ops.all (fun e => e.2.wait != o.wait || (e.2.isLoad && s.isHelper e.2.lane))
  | none => false
/-- Drops a sent packet: LINK_DROP, PKTDROP of its team, and the outcome of R442. -/
def State.dropPacket (s : State) (n : Nat) (q : Sent) : State :=
  let s1 := (s.settleSent n).count 4 0 7
  let s := if s.helperLoad q then s1 else s1.setTerr q.team 2
  let g := (s.team q.team).grid
  let addr := 2 ^ 56 + q.peer * 2 ^ 46 + q.offset
  match q.op with
  | some k =>
    (match Tab.find s.ops k with
     | some o => s.dropForOp k o (s.grid g).strict g addr
     | none => s)
  | none => (s.fillLandings q.lands (zeros 4)).stopLost g (if q.cls = 0 then addr else 0)
/-- PACKET_DROP: a packet's delivery bound passes (R446, R447). A request that waits at its target has been delivered. -/
def execPacketDrop (n : Nat) (s : State) : Host.Outcome State Fault Refusal :=
  .next (match Tab.find s.sent n with
    | some q => if s.overdue q then (s.dropPacket n q).resendMoved else s
    | none => s)
/-- MOVED: the packet is resent once, after the commit of a replacement that is staged and after the earlier packets to its peer, and a
scheduled one in a slot (R487); a second MOVED drops it (R440, R442). An answer that comes after the packet's bound changes nothing (R447). -/
def execMoved (n : Nat) (s : State) : Host.Outcome State Fault Refusal :=
  .next (match Tab.find s.sent n with
    | none => s
    | some q =>
      if q.waits ∨ s.overdue q then s
      else if q.resent then (s.dropPacket n q).resendMoved
      else ({ s with sent := Tab.set s.sent n { q with waits := true, resent := q.queue.isSome } } : State).resendMoved)

/-! ### The peer table (R438, R440) -/

/-- An entry as written: reserved fields, STG and GEN clear. -/
def peerWritten (e : Nat) : Nat := bits e 111 64 * 2 ^ 64 + bits e 63 61 * 2 ^ 61 + bits e 23 0
/-- The entry Trara reads: STG and GEN with the writable fields (R438). -/
def State.peerRead (s : State) (p : Nat) : Nat :=
  s.peerEntry p + (if (Tab.find s.staged p).isSome then 2 ^ 60 else 0) + s.gen p * 2 ^ 24
/-- PEER_TABLE_STAGE: a replacement entry is written and STG set (R440). -/
def execPeerTableStage (id entry : Nat) (s : State) : Host.Outcome State Fault Refusal :=
  .next (if 1024 ≤ id then s else { s with staged := Tab.set s.staged id (peerWritten entry) })
/-- PEER_TABLE_COMMIT: the staged entries replace the current ones together, and GEN rises where an entry changes; packets answered MOVED are
resent in their order once the earlier packets to their peer are settled (R440). -/
def execPeerTableCommit (s : State) : Host.Outcome State Fault Refusal :=
  .next (
    let changed : List Nat := (s.staged.filter (fun (e : Nat × Nat) => s.peerEntry e.1 != e.2)).map Prod.fst
    let peers : Tab Nat := s.staged.foldl (fun t (e : Nat × Nat) => Tab.set t e.1 e.2) s.peers
    let gens : Tab Nat := changed.foldl (fun t p => Tab.set t p ((s.gen p + 1) % 256)) s.peerGen
    ({ s with peers := peers, peerGen := gens, staged := [] } : State).resendMoved)

/-! ### Requests arriving at this device (R439, R441, R443 to R445) -/

/-- Ownership of a logical id: 0 NONE, 1 INCOMING, 2 OWNED (R441). -/
def State.ownership (s : State) (id : Nat) : Nat := Tab.getD s.owner id 0
/-- Bytes two stores have in common. -/
def storesMeet (p q : Packet) : Bool := decide (p.offset < q.offset + q.data.length) && decide (q.offset < p.offset + p.data.length)
/-- Whether a request of the same stream has been performed here. -/
def State.hasPerformed (s : State) (p : Packet) (seq : Nat) : Bool := (s.inboundOf p).performed.any (fun e => e.1 == seq)
/-- Whether a store waits for an earlier one of its stream to the same bytes, until that has been performed or its bound has passed (R444), or
a release write for its epoch (R445). -/
def State.mustHold (s : State) (p : Packet) : Bool :=
  let x := s.inboundOf p
  p.after.any (fun e => !s.hasPerformed p e.1 && decide (s.now < e.2 + s.classBound p.cls))
    || (packetWrites p && s.arrivals.any (fun a => sameStream a.p p && packetWrites a.p && a.p.seq != p.seq
          && decide (seqAfter p.seq a.p.seq < 2 ^ 31) && storesMeet a.p p))
    || (match p.count with
        | some c => decide (Tab.getD x.stores p.epoch 0 < c) || x.visible % 2 ^ 16 != p.epoch % 2 ^ 16
        | none => false)
/-- What serving a request comes to: a reply, or a wait on its object. -/
inductive Served where
  | reply (s : State) (data : List Byte)
  | wait (kind : HoldKind) (pa : Nat)
  deriving DecidableEq, Repr
/-- A refusal by the target's translation (R436, R439). -/
def Served.refused (s : State) : Served := .reply s [1]
/-- A reply that the request is done. -/
def Served.ok (s : State) (data : List Byte) : Served := .reply s (0 :: data)
/-- The same, with INV for the issuing team (R234). -/
def Served.done (s : State) (inv : Bool) (data : List Byte) : Served := .reply s ((if inv then 3 else 0) :: data)
/-- The signature fields a write leaves: "invalidate all" with a release part, else none (R367, R373). -/
def State.arrivedWrite (s : State) (pa n : Nat) (release : Bool) : State :=
  let s := s.dropAll (sectorOf pa) 64
  if release then s.putField pa n .all else s.emptyField pa n
/-- A read-modify-write at the home for another device; one that raises INV says so in its reply (R234). A failing CAS writes what stood there
(R235, R241). -/
def State.serveRmw (s : State) (p : Packet) (n : Nat) (f : Nat → Nat × Bool) : Served :=
  if p.offset % n ≠ 0 then .refused s else
  match s.place s.fabricGrid p.offset 1 with
  | .mem pa _ =>
    if isHost pa then .refused s else
    let h := s.homeRead pa n
    let s := if h.2.1 then h.2.2.count 4 0 3 else h.2.2
    let old := leNat h.1
    let v := f old
    let s := ((s.homeWrite pa (leBytes n v.1)).dropAll (sectorOf pa) 64).orField pa (if p.count.isSome then .all else .lines [])
    .done s v.2 (leBytes n old)
  | .bad _ ue => .refused (s.countUe ue)
  | .fabric => .refused s
/-- An operation on an object at its home for another device (R244, R248 to R254). -/
def State.serveObject (s : State) (p : Packet) (op7 : Nat) (args : List Nat) : Served :=
  if p.offset % 16 ≠ 0 then .refused s else
  match s.place s.fabricGrid p.offset 1 with
  | .mem pa _ =>
    if isHost pa then .refused s else
    let h := s.homeRead pa 16
    let s := if h.2.1 then h.2.2.count 4 0 3 else h.2.2
    let n := leNat h.1
    let o := ObjAt.mem pa
    let broken : Served := .reply (s.breakObject o) [2]
    let changed (m : Nat) : State := (s.orField pa .all).putBarrier o m
    (match op7, args with
     | 0x23, [k, op, w, total] =>
       (match chainWhen (chainTurnOf n) k with
        | 0 =>
          let v := chainNew op w (chainValue n w) (chainTurnOf n) total
          let s := (s.objWrite o 0 (leBytes (w / 8) v.1)).objWrite o 8 (leBytes 4 v.2.1)
          .done (s.orField pa .all) v.2.2 (leBytes 8 (chainValue n w))
        | 1 => .reply s [2]
        | _ => .wait .chain pa)
     | 0x24, [count] => .ok ((s.homeWrite pa (leBytes 16 (barInit count))).arrivedWrite pa 16 false) []
     | 0x25, [] => (match barArrive n with | none => broken | some m => .ok (changed m) (leBytes 2 (barPhase n)))
     | 0x26, [t] => if !barOk n then broken else if barPassed n t then .ok s (leBytes 2 (barPhase n)) else .wait .bwait pa
     | 0x28, [t] => if !barOk n then broken else .ok s [if bit (barPhase n) 0 == bit t 0 then 1 else 0]
     | 0x29, [count] => (match barWithdraw n count with | none => broken | some m => .ok (changed m) [])
     | _, _ => .refused s)
  | .bad _ ue => .refused (s.countUe ue)
  | .fabric => .refused s
/-- Performs a request at its home, in the context bound to the fabric window (R436, R439). A code that R80 reserves is answered with an
error. -/
def State.serve1 (s : State) (p : Packet) : Served :=
  match p.kind with
  | .read len =>
    if len = 0 ∨ 64 < len ∨ p.offset % len ≠ 0 then .refused s else
    (match s.place s.fabricGrid p.offset 0 with
     | .mem pa _ => let h := s.homeRead pa len; .ok (if h.2.1 then h.2.2.count 4 0 3 else h.2.2) h.1
     | .bad _ ue => .refused (s.countUe ue)
     | .fabric => .refused s)
  | .write =>
    (match s.storePlaces s.fabricGrid p.offset p.data with
     | some ws => .ok (ws.foldl (fun s w => (s.homeWrite w.1 w.2).arrivedWrite w.1 w.2.length p.count.isSome) s) []
     | none => .refused (s.countWalk s.fabricGrid p.offset p.data.length))
  | .atomic op w b => if (w = 32 ∨ w = 64) ∧ atomicOpFits op (if w = 64 then 1 else 0) then s.serveRmw p (w / 8) (fun old => atomicOp op w old b) else .refused s
  | .cas w e v => if w = 32 ∨ w = 64 then s.serveRmw p (w / 8) (fun old => (if old = e then v else old, false)) else .refused s
  | .object op7 args => s.serveObject p op7 args
/-- Takes back a request of the same stream that waits here (R257): whether it was still waiting. The arrival of a BARW goes with it while its
phase stands. -/
def State.giveBack (s : State) (p : Packet) (seq phase : Nat) : State :=
  let s := s.unhold p
  match s.arrivals.find? (fun a => sameStream a.p p && a.p.seq == seq) with
  | none => s.answer p [0, 0]
  | some a =>
    let s := ((s.unhold a.p).dropWaiters (fun v => v.lane == (remoteWaiter a.p .bwait 0).lane)).record a.p []
    let s := match s.place s.fabricGrid a.p.offset 1 with
      | .mem pa _ =>
        let h := s.homeRead pa 16
        if barPhase (leNat h.1) = phase then h.2.2.objWrite (.mem pa) 0 (leBytes 16 (barUnarrive (leNat h.1))) else s
      | _ => s
    s.answer p [0, 1]
/-- Whether a request of the same stream has arrived here. -/
def State.hasArrived (s : State) (p : Packet) (seq : Nat) : Bool :=
  s.hasPerformed p seq || s.arrivals.any (fun a => sameStream a.p p && a.p.seq == seq)
/-- Tries one held request, where it is still held: it is dropped once its bound has passed, waits, or is performed (R441, R444 to R446). One
that came while its id was INCOMING waits until the id is OWNED. A request that waits on an object waits without limit (R245, R251), and
its sender is told so; one that has lost its place in the line met a broken object. One that takes back another waits for that to
arrive. -/
def State.tryHeld (s : State) (b : Arrival) : State :=
  match s.arrivals.find? (fun a => sameStream a.p b.p && a.p.seq == b.p.seq) with
  | none => s
  | some a =>
    let p := a.p
    let me := (remoteWaiter p .bwait 0).lane
    if a.waits && !s.waiters.any (fun e => e.2.lane == me) then (s.unhold p).answer p [2]
    else if !a.waits && s.pastBound p then (s.unhold p).dropWaiters (fun v => v.lane == me)
    else if !a.waits && (!a.owned || s.mustHold p) then s
    else match p.kind with
    | .object 0x27 [seq, phase] => if s.hasArrived p seq then s.giveBack p seq phase else s
    | _ =>
      match s.serve1 p with
      | .reply s' data => ((s'.unhold p).dropWaiters (fun v => v.lane == me)).answer p data
      | .wait k pa =>
          if a.waits then s
          else (({ s with arrivals := s.arrivals.map (fun c => if sameStream c.p p && c.p.seq == p.seq then { c with waits := true } else c) } : State).addWaiter
            (remoteWaiter p k pa)).replyTo p.src p.seq [4]
/-- Tries every held request in order of arrival, as long as one can be performed. -/
def State.pumpHeld (s : State) : Nat → State
  | 0 => s
  | n + 1 =>
    let s' := s.arrivals.foldl (fun s a => s.tryHeld a) s
    if s'.arrivals.length = s.arrivals.length then s' else State.pumpHeld s' n
/-- Tries the held requests. -/
def State.serveHeld (s : State) : State := s.pumpHeld (s.arrivals.length + 1)
/-- FABRIC_REQUEST: a request that has been performed is answered from the record, one for an id not owned is answered MOVED, and any other
joins those held, which are tried in order of arrival (R441, R443). A request that is held already is tried again, and one whose bound has
passed is not delivered (R447). -/
def execFabricRequest (p : Packet) (s : State) : Host.Outcome State Fault Refusal :=
  .next (
    if s.arrivals.any (fun a => sameStream a.p p && a.p.seq == p.seq) then s.serveHeld
    else if s.pastBound p then s
    else match (s.inboundOf p).performed.find? (fun e => e.1 == p.seq && decide (s.now < e.2.1 + s.classBound p.cls)) with
    | some e => s.replyTo p.src p.seq e.2.2
    | none =>
      if s.ownership p.logical = 0 then s.answerTo p.src 3 (.moved p.src p.seq) []
      else ({ s with arrivals := s.arrivals ++ [{ p := p, owned := s.ownership p.logical == 2, waits := false }] } : State).serveHeld)
/-- OWNERSHIP_SET: requests held for an id that becomes OWNED are served in order of arrival, and those already accepted complete here whatever
it becomes (R441). -/
def execOwnershipSet (id state : Nat) (s : State) : Host.Outcome State Fault Refusal :=
  .next (if 1024 ≤ id ∨ 2 < state then s else
    ({ s with owner := Tab.set s.owner id state,
              arrivals := s.arrivals.map (fun a => if a.p.logical = id ∧ state = 2 then { a with owned := true } else a) } : State).serveHeld)

/-! ### Sealed flits (R449 to R452) -/

/-- Key of a failed flit. -/
def flitKey (peer slot ctr : Nat) : Nat := (peer * 2 + slot) * 2 ^ 33 + ctr
/-- FLIT_RECEIVE (R449 to R452). A flit that has failed four times has been dropped: nothing of it is passed on or asked for any more. The last
flit of a used-up key stands for the marker that no counter value is left for. -/
def execFlitReceive (f : Flit) (s : State) : Host.Outcome State Fault Refusal :=
  .next (if !f.crcOk then s.count 4 0 6 else
    let l := Tab.getD s.rxLinks f.peer SealLink.zero
    let k := bits f.hdr 62 62
    let ctr := bits f.hdr 31 0
    let x := l.slot k
    let key := flitKey f.peer k ctr
    if 4 ≤ Tab.getD s.sealFails key 0 then s else
    match (if x.inUse then Config.gcmOpen x.key (flitIv x.salt ctr) (flitAad f.hdr f.peer s.dev) f.body f.tag else none) with
    | none =>
      let n := Tab.getD s.sealFails key 0 + 1
      let s := { s with sealFails := Tab.set s.sealFails key n }
      (if n = 4 then s.count 4 0 9 else s).answerTo f.peer 3 (.rerequest f.peer k ctr) []
    | some pt =>
      if x.seen.contains ctr then s
      else
        let last := bit f.hdr 63 || decide (ctr + 1 = 2 ^ 32)
        let x := { x with seen := ctr :: x.seen, marker := if last then some ctr else x.marker }
        let l := { l with slots := Tab.set l.slots k x, current := if last then 1 - k else l.current }
        let s := { s with rxLinks := Tab.set s.rxLinks f.peer l }
        if bit f.hdr 63 then s else { s with flits := s.flits ++ [(f.peer, pt)] })
/-- FLIT_REREQUEST: the same sealed bytes are sent again, at most three times; then the flit is dropped with the packet it carried (R452). -/
def execFlitRerequest (peer slot ctr : Nat) (s : State) : Host.Outcome State Fault Refusal :=
  .next (
    let l := Tab.getD s.txLinks peer SealLink.zero
    match l.store.find? (fun f => f.slot == slot && f.ctr == ctr) with
    | none => s
    | some f =>
      let rest := l.store.filter (fun e => !(e.slot == slot && e.ctr == ctr))
      if 3 ≤ f.resends then
        let s := ({ s with txLinks := Tab.set s.txLinks peer { l with store := rest } } : State).count 4 0 9
        (match Tab.find s.sent f.packet with | some q => s.dropPacket f.packet q | none => s)
      else
        ({ s with txLinks := Tab.set s.txLinks peer { l with store := rest ++ [{ f with resends := f.resends + 1 }] } } : State).emit
          (.flit peer slot ctr f.bytes))
/-- SWITCH_OVER: at Trara's request the marker is sent under CURRENT and the slots swap, provided NEXT holds a key (R451). -/
def execSwitchOver (peer : Nat) (s : State) : Host.Outcome State Fault Refusal := .next (s.sendMarker peer)
/-- OLD_KEY_DISCARD: the old key is discarded once every flit before its marker is settled (R451). -/
def execOldKeyDiscard (peer : Nat) (tx : Bool) (s : State) : Host.Outcome State Fault Refusal :=
  .next (
    let ls := if tx then s.txLinks else s.rxLinks
    let l := Tab.getD ls peer SealLink.zero
    let old := 1 - l.current
    let x := l.slot old
    match x.marker with
    | none => s
    | some m =>
      let settled : Bool :=
        if tx then l.store.all (fun f => f.slot != old || f.packet == 0)
        else
          let lost := (s.sealFails.filter (fun e => decide (flitKey peer old 0 ≤ e.1) && decide (e.1 ≤ flitKey peer old m) && decide (4 ≤ e.2)
            && !x.seen.contains (e.1 - flitKey peer old 0))).length
          decide (m + 1 ≤ (x.seen.filter (fun c => decide (c ≤ m))).length + lost)
      if !settled then s
      else
        let l := { l with slots := Tab.erase l.slots old, store := l.store.filter (fun f => f.slot != old) }
        let s := s.emit (.linkNotice peer)
        if tx then { s with txLinks := Tab.set ls peer l }
        else { s with rxLinks := Tab.set ls peer l,
                      sealFails := s.sealFails.filter (fun e => !(decide (flitKey peer old 0 ≤ e.1) && decide (e.1 < flitKey peer old (2 ^ 33)))) })

/-! ### The circuit schedule (R453 to R455, R482) -/

/-- SLOT_TABLE_EPOCH: a new table takes effect at its own EPOCH (R453). -/
def execSlotTableEpoch (s : State) : Host.Outcome State Fault Refusal :=
  .next (if s.tablePending && decide (s.nextTable.epoch * 100 ≤ s.now) then
      { s with slotTable := s.nextTable, tablePending := false, slotNow := none, slotStart := 0 }
    else s)
/-- The entry of a rotation that a time falls into, from the start of the first of the entries left: its index and its start. -/
def slotFind : List Nat → Nat → Nat → Nat → Option (Nat × Nat)
  | [], _, _, _ => none
  | e :: es, k, start, t => if t < start + slotDur e then some (k, start) else slotFind es (k + 1) (start + slotDur e) t
/-- The entry that stands at a time, and its start (R453). -/
def SlotTable.at (t : SlotTable) (now : Nat) : Option (Nat × Nat) :=
  let first := t.epoch * 100
  let rot := (t.used.map slotDur).foldl (· + ·) 0
  if now < first ∨ rot = 0 then none else slotFind t.used 0 (first + (now - first) / rot * rot) now
/-- SLOT_BOUNDARY: the slot that stands now begins for the ports (R453). -/
def execSlotBoundary (s : State) : Host.Outcome State Fault Refusal :=
  .next (match s.slotTable.at s.now with
    | some (k, start) => { s with slotNow := some k, slotStart := start }
    | none => { s with slotNow := none, slotStart := 0 })
/-- The packets of a message: the offset and the bytes of each, up to 4,096 of them (R454). -/
def messageParts : Nat → Nat → List Byte → List (Nat × List Byte)
  | 0, _, _ => []
  | n + 1, off, bs => if bs.isEmpty then [] else (off, bs.take 4096) :: messageParts n (off + 4096) (bs.drop 4096)
/-- Puts one packet of a queue on its way, with its bound counting from the start of its transmission (R446, R454). -/
def State.sendPart (s : State) (qn peer : Nat) (m : Message) (at_ : Nat) (p : Nat × List Byte) : State :=
  let n := s.nextKey
  let s := s.sendClass peer 2 m.team .write (m.dst + p.1) p.2
  match Tab.find s.sent n with
  | some q => { s with sent := Tab.set s.sent n { q with queue := some qn, at_ := at_ } }
  | none => s
/-- Sends the packets of a message one after the other from a time on. -/
def State.sendParts (s : State) (qn peer : Nat) (m : Message) : Nat → List (Nat × List Byte) → State
  | _, [] => s
  | t, p :: ps => State.sendParts (s.sendPart qn peer m t p) qn peer m (t + messageTime p.2.length) ps
/-- A scheduled packet of a queue that is to be sent again, the earliest first (R487). -/
def State.lostPart (s : State) (qn : Nat) : Option (Nat × Sent) :=
  s.sent.find? (fun e => e.2.queue == some qn && e.2.waits && !s.overdue e.2)
/-- MESSAGE_SEND: a free port, in a slot that reaches a queue, first sends again a packet of it that was lost, discarded or refused, and else
starts the message at its head, if all of what it sends ends before the guard (R454, R455, R487). -/
def execMessageSend (port : Nat) (s : State) : Host.Outcome State Fault Refusal :=
  .next (match s.slotNow, Tab.find s.ports port with
    | some k, some x =>
      let e := Tab.getD s.slotTable.entries k 0
      if port < 24 ∨ 32 ≤ port ∨ !x.up ∨ s.now < x.busy ∨ s.now < s.slotStart ∨ !bit e 63 then s else
      (match slotReach e (port - 24) with
       | none => s
       | some qn =>
         let q := s.sendQueue qn
         let fits (n : Nat) : Bool := decide (s.now + messageTime n + slotGuard e ≤ s.slotStart + slotDur e)
         let occupied (n : Nat) : State := { s with ports := Tab.set s.ports port { x with busy := s.now + messageTime n } }
         match s.lostPart qn with
         | some (n, p) =>
           if !fits p.data.length ∨ s.unsettled p.peer then s
           else
             let s := occupied p.data.length
             { s with sent := Tab.set s.sent n { p with waits := false, gen := s.gen p.peer } }
         | none =>
           match q.peer, q.msgs with
           | some peer, m :: ms =>
             if !fits m.bytes.length ∨ s.fabricBusy peer then s
             else
               let m := { m with endpoint := bits (s.peerEntry peer) 111 64 }
               let s := occupied m.bytes.length
               ({ s with queues := Tab.set s.queues qn { q with msgs := ms } } : State).emit (.message m) |>.sendParts qn peer m s.now
                 (messageParts (m.bytes.length / 4096 + 1) 0 m.bytes)
           | _, _ => s)
    | _, _ => s)
/-- MESSAGE_DELIVERY: a message for this device's own endpoint arrives; its bytes are written through their homes, then NOTIFY rises by 1 with a
release at device scope (R371, R482, R487). Addresses are read as fabric-window offsets of this device (R439). -/
def execMessageDelivery (m : Message) (s : State) : Host.Outcome State Fault Refusal :=
  .next (if m.endpoint ≠ s.endpoint then s else
    match s.storePlaces s.fabricGrid (bits m.dst 45 0) m.bytes with
    | none => s.countWalk s.fabricGrid (bits m.dst 45 0) m.bytes.length
    | some ws =>
      let s := s.engineWrites ws
      if m.notify = 0 then s else
      match s.place s.fabricGrid (bits m.notify 45 0) 1 with
      | .mem pa _ =>
        if isHost pa then s else
        let h := s.homeRead pa 4
        if h.2.1 then h.2.2.count 4 0 3 else
        ((h.2.2.homeWrite pa (leBytes 4 ((leNat h.1 + 1) % 2 ^ 32))).dropAll (sectorOf pa) 64).orField pa
          (.lines (distinct (ws.map (fun w => lineOf w.1))))
      | _ => s)
/-- SEND_QUEUE_BIND: a queue is bound to one logical peer of TIER 1 (R454). -/
def execSendQueueBind (q peer : Nat) (s : State) : Host.Outcome State Fault Refusal :=
  .next (let e := s.peerEntry peer
    if 64 ≤ q ∨ 1024 ≤ peer ∨ !bit e 63 ∨ !bit e 62 then s
    else { s with queues := Tab.set s.queues q { s.sendQueue q with peer := some peer } })

end Sys2Proof.Machine
end

