-- ==== Sys2Proof/Machine/Mailbox.lean ====
section
/-! DEFINITION. The mailbox (R410 to R412, R420, R429, R434, R450, R475, R476) and writes to Trara's registers. -/

namespace Sys2Proof.Machine

open Sys2Proof

/-- Whether the host has submitted a request: the package is ready, the doorbell holds 1, word 0 holds the operation, and the words that R434
gives arguments hold them. -/
def State.asks (s : State) (op : Nat) (args : List Nat) : Bool :=
  s.ready && s.doorbell && Tab.getD s.request 0 0 == op && (args.zipIdx.all (fun a => Tab.getD s.request (a.2 + 1) 0 == a.1))
/-- Serves the request that the host has submitted (R434). -/
def served (s : State) (op : Nat) (args : List Nat) (f : State → State) : Host.Outcome State Fault Refusal :=
  .next (if s.asks op args then f s else s)

/-! ### Counters -/

/-- Units of a class, and the counter numbers it holds (R434). -/
def unitClass : Nat → Option (Nat × Nat)
  | 0 => some (832, 64) | 1 => some (256, 32) | 2 => some (208, 32) | 3 => some (4, 32) | 4 => some (1, 10) | 5 => some (16, 32) | 6 => some (1, 32)
  | _ => none
/-- Whether a unit exists. -/
def unitOk (cls idx : Nat) : Bool := match unitClass cls with | some u => decide (idx < u.1) | none => false
/-- Whether a counter depends on what the TLBs hold and on the walks under way, TLB_MISSES, WALKS and WALK_COALESCED of a die: while it runs its
value is free (R409, R422; log entry 80). -/
def tlbCounter (cls num : Nat) : Bool := cls == 3 && decide (num < 3)
/-- A counter's value: CYCLES counts every arithmetic cycle (R178). -/
def State.counterValue (s : State) (cls idx num part : Nat) : Nat :=
  let part := if cls = 0 ∧ (num = 1 ∨ num = 2) then part else 0
  let kept := Tab.getD s.counters (counterKey cls idx num part) 0
  if s.isFrozen cls idx then kept
  else if cls = 0 ∧ num = 0 then (s.cycle - Tab.getD s.cyclesBase idx 0) % 2 ^ 48
  else if tlbCounter cls num then Config.freeValue (s.freeCount + num) % 2 ^ 48
  else kept
/-- READ_COUNTER (R434). -/
def execReadCounter (cls idx num part : Nat) (s : State) : Host.Outcome State Fault Refusal :=
  served s 1 ([cls, idx, num] ++ (if cls = 0 ∧ (num = 1 ∨ num = 2) then [part] else [])) (fun s =>
    match unitClass cls with
    | none => s.respond [1]
    | some u =>
      if u.1 ≤ idx ∨ u.2 ≤ num ∨ (cls = 0 ∧ (num = 1 ∨ num = 2) ∧ 4 ≤ part) then s.respond [1]
      else
        let v := s.counterValue cls idx num part
        ({ s with freeCount := s.freeCount + (if tlbCounter cls num then 3 else 0) } : State).respond [0, v % 2 ^ 32, v / 2 ^ 32])
/-- FREEZE (R434). -/
def execFreeze (cls idx : Nat) (s : State) : Host.Outcome State Fault Refusal :=
  served s 2 [cls, idx] (fun s =>
    if !unitOk cls idx then s.respond [1]
    else
      -- the counters that the model does not keep as they run are kept from here
      let nums := if cls = 0 then [0] else if cls = 3 then [0, 1, 2] else []
      let s := { s with counters := nums.foldl (fun c n => Tab.set c (counterKey cls idx n 0) (s.counterValue cls idx n 0)) s.counters,
                        freeCount := s.freeCount + (if cls = 3 then 3 else 0) }
      ({ s with frozen := insertNew (cls * 1024 + idx) s.frozen } : State).respond [0])
/-- CLEAR (R434). -/
def execClear (cls idx : Nat) (s : State) : Host.Outcome State Fault Refusal :=
  served s 3 [cls, idx] (fun s =>
    if !unitOk cls idx then s.respond [1]
    else
      let s := { s with counters := s.counters.filter (fun e => e.1 / 256 != cls * 1024 + idx) }
      (if cls = 0 then { s with cyclesBase := Tab.set s.cyclesBase idx s.cycle } else s).respond [0])
/-- SET_PARAM (R434): a value outside its limits is a bad request. -/
def execSetParam (name value : Nat) (s : State) : Host.Outcome State Fault Refusal :=
  served s 4 [] (fun s =>
    match paramLimits name with
    | some (lo, hi) => if lo ≤ value ∧ value ≤ hi then ({ s with params := Tab.set s.params name value } : State).respond [0] else s.respond [1]
    | none => s.respond [1])
/-- 32-bit words of bytes. -/
def bytesWords : Nat → List Byte → List Nat
  | 0, _ => []
  | n + 1, bs => if bs.isEmpty then [] else leNat (bs.take 4) :: bytesWords n (bs.drop 4)
/-- ATTEST: the signed report (R429). -/
def execAttest (nonce : List Byte) (s : State) : Host.Outcome State Fault Refusal :=
  served s 5 [] (fun s =>
    if 32768 ≤ s.attestLeaf then s.respond [3]
    else
      let q := s.attestLeaf
      let digests := (s.bootDigests.flatten ++ zeros 128).take 128
      let body := (nonce ++ zeros 32).take 32 ++ digests ++ leBytes 4 q ++ zeros 28
      let report := body ++ (Config.lmsSign s.identity q body ++ zeros 1612).take 1612
      ({ s with attestLeaf := q + 1 } : State).respond (0 :: bytesWords report.length report))
/-- ATTACH and DETACH: BRK of a grid is enabled or disabled (R312, R434). -/
def State.attachGrid (s : State) (g : Nat) (on : Bool) : State :=
  match Tab.find s.grids g with
  | some x => (s.setGrid g { x with attached := on }).respond [0]
  | none => s.respond [1]
/-- ATTACH (R434). -/
def execAttach (g : Nat) (s : State) : Host.Outcome State Fault Refusal := served s 6 [] (fun s => s.attachGrid g true)
/-- DETACH (R434). -/
def execDetach (g : Nat) (s : State) : Host.Outcome State Fault Refusal := served s 7 [] (fun s => s.attachGrid g false)
/-- RESUME: a context stopped by BREAKPOINT goes on (R307, R312). -/
def execResume (g : Nat) (s : State) : Host.Outcome State Fault Refusal :=
  served s 8 [] (fun s =>
    match Tab.find s.grids g with
    | some x =>
      (match x.stop with
       | some st =>
         if !st.isBreak || !st.written then s.respond [1]
         else
           let s := s.setGrid g { x with stop := none }
           let s := { s with teams := s.teams.map (fun (e : Nat × Team) =>
             if e.2.grid == g && e.2.phase == Phase.stopping then (e.1, { e.2 with phase := .running, gate := true }) else e) }
           s.respond [0]
       | none => s.respond [1])
    | none => s.respond [1])
/-- PREEMPT: one request for the teams of a grid (R394, R434). -/
def execPreempt (g action : Nat) (s : State) : Host.Outcome State Fault Refusal :=
  served s 9 [] (fun s =>
    if (Tab.find s.grids g).isNone ∨ 3 < action then s.respond [1]
    else (s.preemptRequest g ((s.teams.filter (fun e => e.2.grid == g)).map Prod.fst) action).respond [0])

/-! ### Translations -/

/-- INVALIDATE: an invalidation of a range of a context begins (R410). -/
def execInvalidate (g lo hi : Nat) (s : State) : Host.Outcome State Fault Refusal :=
  served s 10 [] (fun s =>
    if (Tab.find s.grids g).isNone then s.respond [1]
    else ({ s with invals := Tab.set s.invals s.nextKey (g, lo, hi), nextKey := s.nextKey + 1 } : State).respond [0])
/-- Drops the translations of a range of a context from every TLB. -/
def State.dropTlb (s : State) (g lo hi : Nat) : State :=
  { s with tlb := s.tlb.filter (fun e => !(e.grid == g && decide (e.va < hi) && decide (lo < e.va + e.size))) }
/-- Whether a waiter stands for another device's request to an address of a range, which the device's own context translates (R436). -/
def State.waitsFor (s : State) (g lo hi : Nat) (w : Waiter) : Bool :=
  g == s.fabricGrid && s.arrivals.any (fun a => a.waits && (remoteWaiter a.p w.kind w.pa).lane == w.lane && decide (lo ≤ a.p.offset) && decide (a.p.offset < hi))
/-- Whether a waiter on global memory waits in a range of a context: by its own address, or by a translation of the range. -/
def State.waitsIn (s : State) (g lo hi : Nat) (w : Waiter) : Bool :=
  w.localTo == 0 &&
  (((s.team w.lane.team).grid == g && (match (s.lane w.lane).cond with | .held h => decide (lo ≤ h.ea) && decide (h.ea < hi) | _ => false)) ||
   (w.lane.team == 0 && s.waitsFor g lo hi w) || s.tlb.any (fun e => e.grid == g && decide (e.va < hi) && decide (lo < e.va + e.size) && !bit e.pte 6 &&
     decide (bits e.pte 47 8 * 256 ≤ w.pa) && decide (w.pa < bits e.pte 47 8 * 256 + e.size)))
/-- Whether an access that used an earlier translation of a range is still to be performed: a commit on its way to its home (R270, R410). -/
def State.usesOld (s : State) (g lo hi : Nat) : Bool :=
  s.commits.any (fun c => (s.team c.2.lane.team).grid == g && (match Tab.find s.ops c.2.op with
    | some o => decide (lo ≤ o.info.addr) && decide (o.info.addr < hi)
    | none => false))
/-- The sectors that a grid's teams hold in their stashes for the addresses of a range. -/
def State.stashedIn (s : State) (g lo hi : Nat) : List Nat :=
  distinct (s.teams.flatMap (fun e => if e.2.grid ≠ g then [] else e.2.stash.flatMap (fun m => m.sectors.filterMap (fun x =>
    let va := m.gaddr + 64 * x.1
    if lo < va + 64 ∧ va < hi then (match x.2 with | .clean pa => some pa | .dirty pa => some pa | .invalid => none) else none))))
/-- INVALIDATION_COMPLETE: no TLB holds the range any more, and every access that used an earlier translation of it has been performed (R410):
the sectors of the range that stashes hold are written back and go (R185). The armed lines of the range break (R255, R265; log entry 66). -/
def execInvalidationComplete (n : Nat) (s : State) : Host.Outcome State Fault Refusal :=
  .next (match Tab.find s.invals n with
    | some (g, lo, hi) =>
      if s.usesOld g lo hi then s else
      let ls := distinct (((s.waiters.map Prod.snd).filter (s.waitsIn g lo hi)).map (fun w => lineOf w.pa))
      { (((s.stashedIn g lo hi).foldl State.evictSector (ls.foldl State.breakLine s))).dropTlb g lo hi with invals := Tab.erase s.invals n }
    | none => s)
/-- Address of the leaf that maps an address, and its level (R404). -/
def leafAddr (s : State) (va : Nat) : Nat → Nat → Option (Nat × Nat)
  | level, pa =>
    match s.entryAt pa with
    | none => none
    | some e =>
      if entryFault s level e then none
      else if bit e 1 then some (pa, level)
      else match level with
        | 0 => none
        | l + 1 => leafAddr s va l (bits e 47 8 * 256 + 8 * levelIndex l va)
/-- Drops from every TLB the translations, of whatever context, whose leaf entry satisfies a test (R411, R412). -/
def State.dropLeaves (s : State) (p : TlbEntry → Bool) : State := { s with tlb := s.tlb.filter (fun e => !p e) }
/-- Whether a translation reaches a range of physical addresses. -/
def TlbEntry.reaches (e : TlbEntry) (pa n : Nat) : Bool :=
  !bit e.pte 6 && decide (bits e.pte 47 8 * 256 < pa + n) && decide (pa < bits e.pte 47 8 * 256 + e.size)
/-- Writes a leaf entry at its home. -/
def State.switchLeaf (s : State) (at_ : Nat) (f : Nat → Nat) : State := let h := s.homeRead at_ 8; h.2.2.homeWrite at_ (leBytes 8 (f (leNat h.1)))
/-- Moves what is kept by physical address from one range to another: signature fields, waiters with their lanes' holds, chain requests and
DET marks (R411, R412). Nothing marks the new lines as bad: they have been written (R430). -/
def State.moveHome (s : State) (old new n : Nat) : State :=
  let mv (a : Nat) : Nat := if old ≤ a ∧ a < old + n then a - old + new else a
  let lane (x : Lane) : Lane := match x.cond with
    | .held h => { x with cond := .held (if h.kind == .ldv || h.kind == .twait || h.kind == .tfree then h else { h with pa := mv h.pa }) }
    | _ => x
  let stays (a : Nat) : Bool := !(decide (new ≤ a) && decide (a < new + n))
  { s with
    sigs := (s.sigs.filter (fun e => stays (4 * e.1))).map (fun e => (mv (4 * e.1) / 4, e.2)), marks := s.marks.map (fun e => (mv e.1, e.2)),
    waiters := s.waiters.map (fun e => if e.2.localTo = 0 then (e.1, { e.2 with pa := mv e.2.pa }) else e),
    chains := s.chains.map (fun e => (e.1, { e.2 with pa := mv e.2.pa })),
    bad := s.bad.filter stays,
    teams := s.teams.map (fun (e : Nat × Team) => (e.1, { e.2 with groups := e.2.groups.map (fun g =>
      (g.1, { g.2 with lanes := g.2.lanes.map (fun l => (l.1, lane l.2)) })) })) }
/-- Copies a frame to a new one, with copies combined and recalled first; the stash keeps no sector of it (R411). A sector that holds
uncorrectable data is copied as zeros and counted (R430, R431). -/
def State.copyFrame (s : State) (old new n : Nat) : State :=
  let ls := distinct ((s.upd.map (fun e => e.2.line)).filter (fun l => decide (old ≤ l) && decide (l < old + n)))
  let s := ls.foldl State.combineLine s
  let dirty := distinct (s.teams.flatMap (fun e => e.2.stash.flatMap (fun m => m.sectors.filterMap (fun x =>
    match x.2 with | .dirty pa => if old ≤ pa ∧ pa < old + n then some pa else none | _ => none))))
  let s := ((dirty.foldl State.recallDirty s).dropAll old n).dropAll new n
  let lost := s.bad.filter (fun p => decide (old ≤ p) && decide (p < old + n))
  let s := if lost.isEmpty then s else s.count 4 0 3 lost.length
  let cells := s.mem.filter (fun c => decide (old ≤ c.1) && decide (c.1 < old + n) && !lost.contains (sectorOf c.1))
  let kept := s.mem.filter (fun c => !(decide (new ≤ c.1) && decide (c.1 < new + n)))
  { s with mem := cells.foldl (fun m c => memSet m (c.1 - old + new) c.2) kept }
/-- The new home writes its own die into OWNER of the control blocks of a range that has come from another die (R263). -/
def State.reown (s : State) (old new n : Nat) : State :=
  if dieOfPa old = dieOfPa new then s else
  { s with mem := (distinct ((s.mem.filter (fun c => decide (new ≤ c.1) && decide (c.1 < new + n))).map (fun c => sectorOf c.1))).foldl (fun m pa =>
      let b := leNat (memGetN m pa 64)
      if qStands (dieOfPa old) b then memSetN m pa (leBytes 64 (qEncode { qDecode b with owner := dieOfPa new })) else m) s.mem }
/-- The version entry that a migration of a versioned page makes: the index in bits 11 to 0, FRAME0 in bits 26 to 12 and FRAME1 in bits 41 to 27
of the word that names the new frame (log entry 34). -/
def movedVersion (v : Version) (w : Nat) : Version := { v with state := 0, frame0 := bits w 26 12, frame1 := bits w 41 27 }
/-- Whether a versioned page may move to what a word names: a free entry, and two frames of its die other than those it leaves. -/
def State.versionFits (s : State) (old : Nat) (v : Version) (w : Nat) : Bool :=
  let f0 := bits w 26 12
  let f1 := bits w 41 27
  decide (w < 2 ^ 42) && (Tab.find s.versions (w % 4096)).isNone && decide (f0 < 24576) && decide (f1 < 24576) && f0 != f1
    && (bits w 11 10 != bits old 11 10 || [f0, f1].all (fun f => f != v.frame0 && f != v.frame1))
/-- MIGRATE: a page moves to a new frame by copy, cutover, recall and switch (R411). A versioned page becomes MIGRATING, from IDLE only, and moves
when its requests are sent again (R420). -/
def execMigrate (g va pa : Nat) (s : State) : Host.Outcome State Fault Refusal :=
  served s 11 [] (fun s =>
    if (Tab.find s.grids g).isNone ∨ bits va 63 56 ≠ 0 then s.respond [1] else
    match s.walkVa g va, leafAddr s va 4 ((s.grid g).root + 8 * levelIndex 4 va) with
    | .leaf e size, some (at_, _) =>
      let start (m : Migration) (s : State) : State := ({ s with migrations := Tab.set s.migrations s.nextKey m, nextKey := s.nextKey + 1 } : State).respond [0]
      let m : Migration := { grid := g, va := va / size * size, size := size, old := bits e 47 8 * 256, new := pa, retries := 0 }
      if bit e 6 then
        let old := bits e 19 8
        (match Tab.find s.versions old with
         | none => s.respond [1]
         | some v =>
           if !s.versionFits old v pa then s.respond [1]
           else if v.state ≠ 0 then s.respond [2]
           else start { m with old := old, versioned := true } (s.setVersion old { v with state := 3 }))
      else if pa % size ≠ 0 ∨ !physValid pa ∨ isHost pa ∨ isHost m.old then s.respond [1]
      else
        let s1 := (((s.copyFrame m.old pa size).moveHome m.old pa size).reown m.old pa size).switchLeaf at_ (fun e => e - m.old + pa)
        let n := (s1.commits.filter (fun c => m.covers c.2.ctl)).length
        start { m with retries := n } ((s1.dropTlb g m.va (m.va + size)).dropLeaves (fun e => e.reaches m.old size))
    | .bad _ ue, _ => (s.countUe ue).respond [1]
    | .leaf _ _, none => s.respond [1])
/-- The move of a versioned page: both frames and the entry go, the leaf is rewritten with the new index, and PINS and VERSION carry over, with the
pins of saved teams too (R420). -/
def State.moveVersioned (s : State) (m : Migration) : State :=
  let new := m.new % 4096
  match Tab.find s.versions m.old, leafAddr s m.va 4 ((s.grid m.grid).root + 8 * levelIndex 4 m.va) with
  | some v, some (at_, _) =>
    let s1 := s.setVersion new (movedVersion v m.new)
    let s1 := [(s.settled m.old, s1.settled new), (s.incoming m.old, s1.incoming new)].foldl (fun s f =>
      (s.copyFrame f.1 f.2 m.size).moveHome f.1 f.2 m.size) s1
    let pins (t : Nat × Team) : Nat × Team := (t.1, { t.2 with pins := t.2.pins.map (fun (p : Nat × Nat) => if p.1 = m.old then (new, p.2) else p) })
    let s1 := { s1 with
      versions := Tab.erase s1.versions m.old, teams := s1.teams.map pins, images := s1.images.map pins,
      publications := s1.publications.map (fun (p : Nat × Publication) => if p.2.ver = m.old then (p.1, { p.2 with ver := new }) else p) }
    let s1 := (s1.switchLeaf at_ (fun e => e - bits e 19 8 * 2 ^ 8 + new * 2 ^ 8)).dropLeaves (fun e => bit e.pte 6 && bits e.pte 19 8 == m.old)
    (s1.pumpPage new (s1.publications.length + 1)).wakeLdv
  | some v, none => (s.setVersion m.old { v with state := 0 }).pumpPage m.old (s.publications.length + 1)
  | none, _ => s
/-- MIGRATION_RETRY: requests answered RETRY are translated again and go to the new home (R411, R412); a versioned page moves now, and its
publications and LDVs proceed at the new entry (R420). -/
def execMigrationRetry (n : Nat) (s : State) : Host.Outcome State Fault Refusal :=
  .next (match Tab.find s.migrations n with
    | none => s
    | some m =>
      let s1 : State := { s with migrations := Tab.erase s.migrations n }
      if m.versioned then s1.moveVersioned m else
      let late := (s.commits.filter (fun c => m.covers c.2.ctl)).length
      ({ s1 with commits := s.commits.map (fun c => (c.1, { c.2 with ctl := if m.covers c.2.ctl then c.2.ctl - m.old + m.new else c.2.ctl })) }
        : State).count 3 (dieOfPa m.old) 5 late)
/-- SET_SAVE_REGION: only while no image is held or reserved (R434). -/
def execSetSaveRegion (base size : Nat) (s : State) : Host.Outcome State Fault Refusal :=
  served s 12 [] (fun s =>
    if s.saveUsed ≠ 0 ∨ !s.images.isEmpty ∨ !s.gangImages.isEmpty then s.respond [2]
    else ({ s with saveBase := base, saveSize := size } : State).respond [0])
/-- SET_APERTURE: a base aligned to 64 GiB (R434). -/
def execSetAperture (base : Nat) (s : State) : Host.Outcome State Fault Refusal :=
  served s 13 [] (fun s => if base % 2 ^ 36 ≠ 0 then s.respond [1] else ({ s with aperture := base } : State).respond [0])

/-! ### Link keys (R450) -/

/-- SET_LINK_KEY (R450). -/
def execSetLinkKey (peer : Nat) (tx : Bool) (key salt : Nat) (s : State) : Host.Outcome State Fault Refusal :=
  served s 14 [] (fun s =>
    if 1024 ≤ peer then s.respond [1] else
    match (Tab.getD (if tx then s.txLinks else s.rxLinks) peer SealLink.zero).install key salt with
    | none => s.respond [2]
    | some l =>
      (if tx then ({ s with txLinks := Tab.set s.txLinks peer l } : State) else { s with rxLinks := Tab.set s.rxLinks peer l }).respond [0])

/-! ### The cohort and its groups (R475, R476) -/

/-- Whether a cohort lies within the limits of R472 to R474: 1 to 4,096 peers, the own index among them, a lead of 0 to 15, T_LATE from 20 µs to
T_SILENT, T_SILENT from 100 µs to 1 s. -/
def cohortOk (c : CohortCfg) : Bool :=
  decide (1 ≤ c.size) && decide (c.size ≤ 4096) && decide (c.own < c.size) && decide (c.lead ≤ 15) && decide (20 ≤ c.tLate) && decide (c.tLate ≤ c.tSilent)
    && decide (100 ≤ c.tSilent) && decide (c.tSilent ≤ 1000000)
/-- SET_COHORT (R475); a cohort outside its limits is a bad request (log entry 71). -/
def execSetCohort (c : CohortCfg) (s : State) : Host.Outcome State Fault Refusal :=
  served s 15 [] (fun s =>
    if !cohortOk c then s.respond [1] else
    let e : HeelEntry := { heard := s.ns, step := c.step, state := 1 }
    let co : Cohort :=
      { ident := c.ident, own := c.own, size := c.size, lead := c.lead, tLate := c.tLate, tSilent := c.tSilent,
        entries := (List.range c.size).map (fun i => (i, e)) }
    (({ s with cohort := some co, heelStep := c.step } : State).heelRelease).respond [0])
/-- EXPECT of an entry set within its ends (R475). -/
def geSetExpect (e n : Nat) : Nat := e - geExpect e * 2 ^ 35 + n * 2 ^ 35
/-- Moves EXPECT of every COHORT = 1 group entry by one (R475). -/
def State.moveExpect (s : State) (up : Bool) : State :=
  { s with groups := s.groups.map (fun e =>
      if geCohort e.2 then (e.1, geSetExpect e.2 (if up then min 4096 (geExpect e.2 + 1) else geExpect e.2 - 1)) else e) }
/-- The withdrawal of a peer from a registered object homed here (R476). -/
def State.withdrawObject (s : State) (grid va : Nat) (arr : Bool) : State :=
  match s.place grid va 1 with
  | .mem pa _ =>
    let h := s.homeRead pa 16
    let n := leNat h.1
    if barCohort n = 0 then s
    else match barWithdraw n (1 + (if arr then 2 ^ 31 else 0)) with
      | some m => (h.2.2.putBarrier (.mem pa) m).orField pa .all
      | none => h.2.2.breakObject (.mem pa)
  | .bad _ _ => s
  | .fabric => s
/-- One change of a roster (R475). -/
def State.applyChange (s : State) (c : RosterChange) : State :=
  match s.cohort with
  | none => s
  | some co =>
    match Tab.find co.entries c.index with
    | none => s
    | some e =>
      let put (s : State) (e : HeelEntry) : State := { s with cohort := some { co with entries := Tab.set co.entries c.index e } }
      if c.add then
        if e.state = 4 then (put s { heard := s.ns, step := c.step, state := 1 }).moveExpect true
        else put s { e with state := 1, step := if newer c.step e.step then c.step else e.step }
      else if e.state = 4 then s
      else
        let s := (put s { e with state := 4 }).moveExpect false
        s.objects.foldl (fun s o => s.withdrawObject o.1 o.2 c.arr) s
/-- Every group's open steps are judged again, and stalled lanes looked at (R463, R474, R475). -/
def State.rejudge (s : State) : State := ((s.groups.map Prod.fst).foldl State.judge s).heelRelease
/-- ROSTER (R475); what a change of the table brings about follows each change. -/
def execRoster (cs : List RosterChange) (s : State) : Host.Outcome State Fault Refusal :=
  served s 16 [] (fun s =>
    match s.cohort with
    | none => s.respond [1]
    | some co =>
      if 64 < cs.length ∨ cs.any (fun c => c.index == co.own || decide (co.size ≤ c.index)) then s.respond [1]
      else
        (cs.foldl (fun s c => (s.applyChange c).rejudge) s.rejudge).respond [0])
/-- SET_GROUP (R456, R475). -/
def execSetGroup (g entry start : Nat) (s : State) : Host.Outcome State Fault Refusal :=
  served s 17 [] (fun s =>
    if 256 ≤ g ∨ groupBad entry then s.respond [1]
    else if s.steps.any (fun e => e.2.group == g && newer e.2.step (s.closedOf g) && e.2.holds) || s.partials.any (fun e => e.2.group == g && !e.2.forwarded && decide (0 < e.2.n))
    then s.respond [2]
    else
      ({ s with groups := Tab.set s.groups g entry, closed := Tab.set s.closed g ((start + (2 ^ 32 - 1)) % 2 ^ 32),
                steps := s.steps.filter (fun e => e.2.group != g), partials := s.partials.filter (fun e => e.2.group != g) } : State).respond [0])
/-- REG_OBJECT (R475). -/
def execRegObject (g addr : Nat) (remove : Bool) (s : State) : Host.Outcome State Fault Refusal :=
  served s 18 [] (fun s =>
    if remove then ({ s with objects := s.objects.filter (· != (g, addr)) } : State).respond [0]
    else if (Tab.find s.grids g).isNone ∨ addr % 16 ≠ 0 ∨ (64 ≤ s.objects.length ∧ (g, addr) ∉ s.objects) then s.respond [1]
    else ({ s with objects := insertNew (g, addr) s.objects } : State).respond [0])

/-! ### Registers -/

/-- A circuit slot entry as written: its reserved bits are ignored (R8, R453). -/
def slotEntry (v : Nat) : Nat :=
  Nat.land (v % 2 ^ 128) 0xBFBFBFBFBFBFBFBF8000FFFF00FFFFFF
/-- REGISTER_WRITE: a write to a register with no row of its own, by the model's numbering (log entry 14): the mailbox's request words and
doorbell at their BAR0 offsets (R434); queue window controls (R279); the page-table root of each die (R403), the context of the fabric window
(R439), the staged circuit slot table with its EPOCH and NSLOT (R453), the device number, which stands while the device is up (R490), the endpoint address (R487), the lanes of each port of a port group (R435), the delivery bound
of a class in ns (R446) and each core's age threshold (R154). -/
def execRegisterWrite (reg value : Nat) (s : State) : Host.Outcome State Fault Refusal :=
  .next (
    if 0x100000 ≤ reg ∧ reg < 0x100040 then { s with request := Tab.set s.request ((reg - 0x100000) / 4) (value % 2 ^ 32) }
    else if reg = 0x100040 then
      -- an operation that no request has is a bad request (R434, R450, R475)
      if s.doorbell ∨ value ≠ 1 then s else if s.ready && s.unknownOp then s.respond [1] else { s with doorbell := true }
    else if 0x1000000 ≤ reg ∧ reg < 0x1000040 then
      { s with nextTable := { s.nextTable with entries := Tab.set s.nextTable.entries (reg - 0x1000000) (slotEntry value) } }
    else if reg = 0x1000400 then { s with nextTable := { s.nextTable with epoch := value % 2 ^ 64 }, tablePending := true }
    else if reg = 0x1000401 then { s with nextTable := { s.nextTable with nslot := if 1 ≤ value ∧ value ≤ 64 then value else s.nextTable.nslot } }
    else if 0x1000500 ≤ reg ∧ reg < 0x1000510 then
      let n := reg - 0x1000500
      { s with windows := Tab.set s.windows n { grid := value / 2 ^ 64, ctl := value % 2 ^ 64, drops := (Tab.find s.windows n).elim 0 (·.drops) } }
    else if reg = 0x1000600 then { s with fabricGrid := value }
    else if reg = 0x1000601 then (if s.ready then s else { s with dev := value % 1024 })
    else if reg = 0x1000602 then { s with endpoint := value % 2 ^ 48 }
    else if 0x1000610 ≤ reg ∧ reg < 0x1000628 then
      if value = 1 ∨ value = 2 ∨ value = 4 then
        { s with ports := Tab.set s.ports (reg - 0x1000610) { Tab.getD s.ports (reg - 0x1000610) Port.zero with config := value, links := [] } }
      else s
    else if 0x1000700 ≤ reg ∧ reg < 0x1000704 then { s with roots := Tab.set s.roots (reg - 0x1000700) (value % 2 ^ 48 / 2048 * 2048) }
    else if 0x2000000 ≤ reg ∧ reg < 0x2000000 + 832 then
      { s with ageThreshold := Tab.set s.ageThreshold (reg - 0x2000000) (max 32 (min 4096 value)) }
    else if 0x1000800 ≤ reg ∧ reg < 0x1000803 then
      let c := reg - 0x1000800
      if classLo c ≤ value ∧ value ≤ classHi c then { s with params := Tab.set s.params (16 + c) value } else s
    else s)

end Sys2Proof.Machine
end

