-- ==== Sys2Proof/Machine/Pricker.lean ====
section
/-! DEFINITION. The Pricker: points, direction tables, scrambling and its instructions (R281 to R295). -/

namespace Sys2Proof.Machine

open Sys2Proof

/-- Bit-reversal of a 32-bit number (R62). -/
def brev32 (x : Nat) : Nat := brev 32 x
/-- Multiplies modulo 2^32. -/
def mul32 (x y : Nat) : Nat := x * y % 2 ^ 32
/-- scramble(x, d, b) (R286). -/
def scramble (x d b : Nat) : Nat :=
  let s := Nat.xor b (mul32 d 0x9E3779B9)
  let x := (brev32 x + s) % 2 ^ 32
  let x := Nat.xor x (mul32 x 0x5A3C6E92)
  let x := mul32 x 0x7D4F2C39
  let x := Nat.xor x (mul32 x 0x1E6AD5B4)
  let x := mul32 x 0x4C95A3E7
  brev32 x
/-- Direction numbers of dimension 1, `k` of them from a first one (R281). -/
def dirFrom (v : Nat) : Nat → List Nat
  | 0 => []
  | k + 1 => v :: dirFrom (Nat.xor v (v / 2)) k
/-- Direction numbers of dimensions 0 and 1 (R281). -/
def fixedDir (d : Nat) : List Nat := if d = 0 then (List.range 32).map (fun k => 2 ^ (31 - k)) else dirFrom (2 ^ 31) 32
/-- The XOR of the direction numbers that an index selects (R281). -/
def rawPoint (i : Nat) (vs : List Nat) : Nat := vs.zipIdx.foldl (fun x e => if bit i e.2 then Nat.xor x e.1 else x) 0
/-- A point from its direction numbers and `%qseed` (R281, R286). -/
def pointOf (vs : List Nat) (d i seed : Nat) : Nat :=
  let x := rawPoint i vs
  if bit seed 32 then x else scramble x d (seed % 2 ^ 32)
/-- QRNDF's value: (x >> 8) × 2^−24, as FP32 (R287). -/
def unitFloat (x : Nat) : Nat := encodeFloat 0 (.fin false ((x / 256 : Nat) * pow2 (-24)))

/-! ### Direction tables (R282 to R285) -/

/-- Address of a table dimension (R282). -/
def tableAddr (p d : Nat) : Nat := p + 128 * (d - 2)
/-- The cached words of a dimension (R284). -/
def State.cachedDir (s : State) (core g d : Nat) : Option (List Nat) :=
  (s.qcache.find? (fun e => e.1 == core && e.2.1 == g && e.2.2.1 == d)).map (fun e => e.2.2.2)
/-- Puts a dimension last in its core's cache of 64, which drops the least recently used (R284). -/
def State.cacheDir (s : State) (core g d : Nat) (vs : List Nat) : State :=
  let rest := s.qcache.filter (fun e => !(e.1 == core && e.2.1 == g && e.2.2.1 == d))
  let mine := rest.filter (fun e => e.1 == core)
  let drop := if mine.length < 64 then rest else
    match mine with
    | [] => rest
    | x :: _ => rest.filter (fun e => e != x)
  { s with qcache := drop ++ [(core, g, d, vs)] }
/-- The words of a table dimension as a fetch reads them, with whether a sector was uncorrectable, or a translation fault (R284, R285). -/
def State.fetchDir (s : State) (g d : Nat) : Except (Nat × Bool) (List Nat × Bool × State) :=
  match s.place g (tableAddr (s.grid g).qtabP d) 0 with
  | .bad c ue => .error (c, ue)
  | .fabric => .error (5, false)
  | .mem pa _ =>
    let h := s.homeRead pa 128
    .ok ((List.range 32).map (fun k => leNat ((h.1.drop (4 * k)).take 4)), h.2.1, h.2.2)

/-- What a lane gets of a dimension. -/
inductive DirEnd where
  | ok (s : State) (vs : List Nat)
  | fault (code : Nat) (ue : Bool)
  | late (s : State) (code : Nat)
  deriving DecidableEq, Repr

/-- The direction numbers of a dimension for a lane (R281, R285). -/
def State.dirFor (s : State) (r : LaneRef) (d : Nat) : DirEnd :=
  let t := s.team r.team
  if d < 2 then .ok s (fixedDir d) else
  match s.cachedDir t.gcore t.grid d with
  | some vs => .ok (s.cacheDir t.gcore t.grid d vs) vs
  | none =>
    match s.fetchDir t.grid d with
    | .error (c, ue) => .fault c ue
    | .ok (vs, bad, s) =>
      if !bad then .ok (s.cacheDir t.gcore t.grid d vs) vs
      else
        let b := s.metBad r 3 true
        match b.2 with
        | some c => .late b.1 c
        | none => .ok b.1 vs

/-- A Pricker instruction in one lane: `dims` dimensions from b on; `out` gives the writes from the points (R287, R290). -/
def State.prickLane (s : State) (x : XForm) (dims : Nat) (out : List Nat → List (Nat × Word) × List (Nat × Bool))
    (fin : State → List (Nat × Word) → List (Nat × Bool) → State) (fault : State → Nat → Nat → State) (late : State → Nat → Nat → State)
    (r : LaneRef) : State :=
  let i := s.regRun r x.a.toNat 1
  let d := s.regRun r x.b.toNat 1
  let g := s.gridOf r.team
  let seed := (s.team r.team).qseed.toNat
  if g.qtabN + 1 < d + dims - 1 then fault s 0x15 0 else
  match s.dirFor r d with
  | .fault c ue => fault (s.countUe ue) c (tableAddr g.qtabP d)
  | .late s c => late s c (tableAddr g.qtabP d)
  | .ok s vs =>
    let p := pointOf vs d i seed
    if dims = 1 then let o := out [p]; fin s o.1 o.2 else
    match s.dirFor r (d + 1) with
    | .fault c ue => fault (s.countUe ue) c (tableAddr g.qtabP (d + 1))
    | .late s c => late s c (tableAddr g.qtabP (d + 1))
    | .ok s ws => let o := out [p, pointOf ws (d + 1) i seed]; fin s o.1 o.2
/-- A Pricker instruction: in every active lane, or once into an s-register (R289). -/
def prick (x : XForm) (dims : Nat) (out : State → LaneRef → List Nat → List (Nat × Word) × List (Nat × Bool)) (once : Bool)
    (s : State) (rs : List LaneRef) : State :=
  if once then
    match rs.getLast? with
    | none => s
    | some r =>
      s.prickLane x dims (out s r) (fun s ws _ => s.finishIssue rs x ws) (fun s c a => s.raiseAll rs c a)
        (fun s c a => rs.foldl (fun s q => s.finishLate q x (runWrites x.d.toNat 0 dims) c a) s) r
  else
    rs.foldl (fun s r =>
      s.prickLane x dims (out s r) (fun s ws ps => s.finish r x ws ps) (fun s c a => s.raise r c a)
        (fun s c a => let o := out s r [0, 0]; s.finishLate r x o.1 c a o.2) r) s
/-- Whether the destination is an s-register. -/
def prickOnce (x : XForm) : Bool := decide (128 ≤ x.d.toNat) && decide (x.d.toNat < 192)
/-- The first point of a list. -/
def firstOf (ps : List Nat) : Nat := ps.headD 0
/-- QRND (R287). -/
def execQrnd (x : XForm) (s : State) : Host.Outcome State Fault Refusal :=
  runX (.qrnd x) x (prick x 1 (fun _ _ ps => (runWrites x.d.toNat (firstOf ps) 1, [])) (prickOnce x)) s
/-- QRNDF (R287). -/
def execQrndf (x : XForm) (s : State) : Host.Outcome State Fault Refusal :=
  runX (.qrndf x) x (prick x 1 (fun _ _ ps => (runWrites x.d.toNat (unitFloat (firstOf ps)) 1, [])) (prickOnce x)) s
/-- QRND2 (R287). -/
def execQrnd2 (x : XForm) (s : State) : Host.Outcome State Fault Refusal :=
  runX (.qrnd2 x) x (prick x 2 (fun _ _ ps => (runWrites x.d.toNat (firstOf ps + firstOf ps.tail * 2 ^ 32) 2, [])) (prickOnce x)) s
/-- QBERN (R287). -/
def execQbern (x : XForm) (s : State) : Host.Outcome State Fault Refusal :=
  runX (.qbern x) x (prick x 1 (fun s r ps => ([], [(x.d.toNat, decide (firstOf ps < s.regRun r x.c.toNat 1))])) false) s

/-- QLDT (R292): the context's table state, and every core's cached dimensions of the context discarded (R293). -/
def execQldt (x : XForm) (s : State) : Host.Outcome State Fault Refusal :=
  runX (.qldt x) x (fun s rs =>
    match (s.workers rs).getLast? with
    | none => s.finishIssue rs x []
    | some r =>
      let p := s.regRun r x.a.toNat 2
      let n := s.regRun r x.b.toNat 1
      let g := (s.team r.team).grid
      if s.cur.formation then s.raiseAll rs 2
      else if (s.grid g).det then s.raiseAll rs 0x19
      else if 4094 < n ∨ (0 < n ∧ bits p 63 56 ≠ 0) then s.raiseAll rs 0x16
      else if 0 < n ∧ p % 128 ≠ 0 then s.raiseAll rs 4
      else
        let s := s.setGrid g { s.grid g with qtabP := p, qtabN := n }
        ({ s with qcache := s.qcache.filter (fun e => e.2.1 != g) } : State).finishIssue rs x []) s
/-- TABLE_FETCH: a fetch of a table dimension completes, and the core caches it (R284, R285). -/
def execTableFetch (core grid dim : Nat) (s : State) : Host.Outcome State Fault Refusal :=
  .next (if dim < 2 ∨ (s.grid grid).qtabN + 1 < dim then s else
    match s.fetchDir grid dim with
    | .error _ => s
    | .ok (vs, bad, s) => if bad then s else s.cacheDir core grid dim vs)

end Sys2Proof.Machine
end

