-- ==== Sys2Proof/Machine/System.lean ====
section
/-! DEFINITION. The system instructions (R310 to R317) and LAUNCH (R391). -/

namespace Sys2Proof.Machine

open Sys2Proof

/-- ASSERT: its p3 and pn name the asserted predicate (R311). -/
def execAssert (x : XForm) (s : State) : Host.Outcome State Fault Refusal :=
  runGuarded (.assert x) 0 false (fun s rs =>
    let fails (r : LaneRef) : Bool := !s.isHelper r && !s.guard x.p x.pn r
    let s1 := (rs.filter (fun r => !fails r)).foldl (fun s r => s.finish r x []) s
    (rs.filter fails).foldl (fun s' r => s'.stopEvent r (s.faultHere 0x1D 0 (s.reg64 r x.a.toNat)) 512) s1) s
/-- BRK stops a context under an attached debugger; each lane then stands at the next instruction (R312). -/
def execBrk (x : XForm) (s : State) : Host.Outcome State Fault Refusal :=
  runX (.brk x) x (fun s rs =>
    let s1 := if (s.gridOf s.cur.team).attached then (s.workers rs).foldl (fun s' r => s'.stopEvent r (s.faultHere 0x1C x.c.toNat 0) 0) s else s
    rs.foldl (fun s r => s.finish r x []) s1) s
/-- RTRAP (R313): returning from the trap handler, at TRAP_PC or past the faulting instruction. -/
def execRtrap (x : XForm) (s : State) : Host.Outcome State Fault Refusal :=
  runLanes (.rtrap x) x (fun s r =>
    if (s.lane r).inHandler then (s.finish r x []).leaveHandler r (bit x.md.toNat 0) else s.raise r 1) s
/-- IDEMB (R314). -/
def execIdemb (x : XForm) (s : State) : Host.Outcome State Fault Refusal :=
  runLanes (.idemb x) x (fun s r =>
    let t := s.team r.team
    if !(s.gridOf r.team).idem then s.finish r x []
    else if !t.inRegion then
      (s.modTeam r.team (fun t => { t with inRegion := true, idemEntry := s.cur.pc, issuedAtIdem := t.issued })).finish r x []
    else if t.idemEntry = s.cur.pc then s.finish r x []
    else s.raise r 0x1F) s
/-- IDEME (R314). -/
def execIdeme (x : XForm) (s : State) : Host.Outcome State Fault Refusal :=
  runLanes (.ideme x) x (fun s r =>
    (if (s.gridOf r.team).idem then s.modTeam r.team (fun t => { t with inRegion := false }) else s).finish r x []) s

/-- A trap register as a lane reads it (R305). -/
def State.trapReg (s : State) (r : LaneRef) (n : Nat) : Nat :=
  let x := (s.lane r).trap
  let t := s.team r.team
  let g := s.gridOf r.team
  match n with
  | 0 => x.pc.toNat | 1 => x.cause.toNat | 2 => x.addr.toNat | 3 => x.insn.toNat | 4 => x.fpc.toNat
  | 5 => g.handler
  | 6 => (if g.idem then 2 else 0) + (if t.inRegion then 1 else 0)
  | 7 => t.idemEntry.toNat
  | 8 => x.scr0.toNat | 9 => x.scr1.toNat | 10 => x.scr2.toNat | 11 => x.scr3.toNat
  | _ => 0
/-- CTXR (R316). -/
def execCtxr (x : XForm) (s : State) : Host.Outcome State Fault Refusal :=
  runLanes (.ctxr x) x (fun s r => s.finish r x (runWrites x.d.toNat (s.trapReg r x.c.toNat) (trapRegWidth x.c.toNat))) s
/-- Writes a trap register that a handler may write (R305); bit 0 of TRAP_PC is ignored. -/
def TrapRegs.write (t : TrapRegs) (n v : Nat) : TrapRegs :=
  let w : Word := BitVec.ofNat 32 v
  match n with
  | 0 => { t with pc := BitVec.ofNat 64 (v / 2 * 2) }
  | 8 => { t with scr0 := w }
  | 9 => { t with scr1 := w }
  | 10 => { t with scr2 := w }
  | 11 => { t with scr3 := w }
  | _ => t
/-- CTXW, legal only in handler and to an RW register (R316, R317). -/
def execCtxw (x : XForm) (s : State) : Host.Outcome State Fault Refusal :=
  runLanes (.ctxw x) x (fun s r =>
    let n := x.c.toNat
    if !(s.lane r).inHandler || !(n == 0 || (decide (8 ≤ n) && decide (n ≤ 11))) then s.raise r 1
    else
      let v := s.regRun r x.a.toNat (trapRegWidth n)
      (s.modLane r (fun y => { y with trap := y.trap.write n v })).finish r x []) s

/-- LAUNCH of one lane: the status, or the fault (R391). -/
def State.launchLane (s : State) (r : LaneRef) (a : Nat) : Except (Nat × Bool) (State × Nat) :=
  if a % 256 ≠ 0 then .error (4, false)
  else if bits a 63 56 ≠ 0 then .ok (s, 3)
  else match s.place (s.team r.team).grid a 0 with
    | .bad c ue => .error (c, ue)
    | .fabric => .ok (s, 3)
    | .mem _ _ =>
      let ctl := Tab.getD s.launchCtl (s.team r.team).die 0
      let b := s.blockRead ctl
      if !qCheck (dieOfPa ctl) b.1 ∨ (qDecode b.1).state ≠ 0 then .ok (s, 2)
      else
        let v := s.hostEnq 0 ctl (leBytes 16 a)
        .ok (v.1, if v.2 then 0 else 1)
/-- LAUNCH (R391): each working lane, or once into an s-register. -/
def execLaunch (x : XForm) (s : State) : Host.Outcome State Fault Refusal :=
  runX (.launch x) x (fun s rs =>
    let once := decide (128 ≤ x.d.toNat) && decide (x.d.toNat < 192)
    let hs := rs.filter (fun r => s.isHelper r)
    let s := if once then s.finishTogether hs x [] [] else hs.foldl (fun s r => s.finish r x []) s
    let ws := s.workers rs
    let one (s : State) (qs : List LaneRef) (r : LaneRef) : State :=
      let a := s.reg64 r x.a.toNat
      match s.launchLane r a with
      | .error (c, ue) => qs.foldl (fun s q => s.raise q c a) (s.countUe ue)
      | .ok (s, st) => qs.foldl (fun s q => s.finish q x (runWrites x.d.toNat st 1)) s
    if once then (match ws.getLast? with | some r => one s ws r | none => s)
    else ws.foldl (fun s r => one s [r] r) s) s

end Sys2Proof.Machine
end

