-- ==== Sys2Proof/Machine/TileInstr.lean ====
section
/-! DEFINITION. Tile instructions and per-lane copies (R188, R221 to R227). -/

namespace Sys2Proof.Machine

open Sys2Proof

/-- The fault of a TALLOC (R222, R318). -/
def State.tallocFault (s : State) (t q : Nat) (kind : Bool) : Option Nat :=
  let base := bits q 21 12
  let n := bits q 7 0
  if kind && !s.holdsLast t then some 0x0B
  else if bits q 31 22 ≠ 0 ∨ bits q 11 8 ≠ 0 ∨ n = 0 ∨ 128 < n then some 0x0C
  else if !kind && decide (s.regionSize t < (base + n) * 512) then some 0x0C
  else if kind && decide (1024 < base + n) then some 0x0C
  else none
/-- TALLOC (R222). -/
def execTalloc (x : XForm) (s : State) : Host.Outcome State Fault Refusal :=
  runX (.talloc x) x (fun s rs =>
    match rs.getLast? with
    | none => s
    | some r =>
      let q := (s.reg r x.b.toNat).toNat
      let kind := bit x.md.toNat 0
      match s.tallocFault r.team q kind with
      | some c => s.raiseAll rs c
      | none =>
        let core := (s.team r.team).gcore
        match (List.range 64).find? (fun e => (Tab.find s.tiles (tileKey core e)).isNone) with
        | none => s.finishIssue rs x [(x.d.toNat, 0xFFFFFFFF#32)]
        | some e =>
          let s := s.setTile (tileKey core e)
            { Tile.zero with team := r.team, slot := (s.team r.team).slot, kind := kind, size := bits q 7 0 - 1, base := bits q 21 12 }
          s.finishIssue rs x [(x.d.toNat, BitVec.ofNat 32 e)]) s
/-- TFREE holds its lanes until no work on the entry remains (R223). -/
def execTfree (x : XForm) (s : State) : Host.Outcome State Fault Refusal :=
  runX (.tfree x) x (fun s rs =>
    match rs.getLast? with
    | none => s
    | some r =>
      match (s.tileName r x.a.toNat).bind (fun e => (s.heldTile r.team e).map (fun _ => e)) with
      | none => s.raiseAll rs 0x0B
      | some e =>
        let k := tileKey (s.team r.team).gcore e
        let n := s.nextKey
        let s := rs.foldl (fun s q => s.hold q { kind := .tfree, x := x, insn := s.cur.insn, ea := k, pa := 0, v1 := 0, v2 := 0,
                                                 deadline := none, order := n, issue := s.cur.num }) { s with nextKey := n + 1 }
        s.tryFree r) s
/-- TILE_ENTRY_FREE: a held TFREE completes (R223). -/
def execTileEntryFree (r : LaneRef) (s : State) : Host.Outcome State Fault Refusal := .next (s.tryFree r)
/-- TWAIT in one lane (R224). -/
def State.twaitLane (s : State) (x : XForm) (r : LaneRef) : State :=
  match (s.tileName r x.a.toNat).bind (fun e => (s.heldTile r.team e).map (fun t => (e, t))) with
  | none => s.raise r 0x0B
  | some (e, t) =>
    let mask := s.regRun r x.b.toNat 4
    if 2 ^ (t.size + 1) ≤ mask then s.raise r 0x0C
    else if Nat.land t.bitmap mask = mask then s.finish r x []
    else s.hold r { kind := .twait, x := x, insn := s.cur.insn, ea := tileKey (s.team r.team).gcore e, pa := 0, v1 := mask, v2 := 0,
                    deadline := none, order := s.nextKey, issue := s.cur.num }
/-- TWAIT (R224). -/
def execTwait (x : XForm) (s : State) : Host.Outcome State Fault Refusal := runLanes (.twait x) x (fun s r => s.twaitLane x r) s
/-- TSTATE; an entry the team does not hold reads as 0 (R225). -/
def execTstate (x : XForm) (s : State) : Host.Outcome State Fault Refusal :=
  runX (.tstate x) x (fun s rs =>
    match rs.getLast? with
    | none => s
    | some r =>
      match s.tileName r x.a.toNat with
      | none => s.raiseAll rs 0x0B
      | some e => s.finishIssue rs x [(x.d.toNat, match s.heldTile r.team e with | some t => t.summary | none => 0)]) s

/-- The places of a source of 16 bytes, by its four words; a fault of any of them. -/
def State.wordPlaces (s : State) (g src : Nat) : Except (Nat × Bool) (List Nat) :=
  (List.range 4).foldr (fun i acc =>
    match s.place g (src + 4 * i) 0 with
    | .mem pa _ => (match acc with | .ok l => .ok (pa :: l) | .error e => .error e)
    | .bad c ue => .error (c, ue)
    | .fabric => .error (6, false)) (.ok [])
/-- Bytes of a per-lane copy from memory: ACP16 through the L1, ACPS16 word by word at the home (R226). A DET mark faults the lane. -/
def State.copyRead (s : State) (r : LaneRef) (scattered : Bool) (pas : List Nat) : State × List Byte × Bool × Option Nat :=
  let one (a : State × List Byte × Bool × Option Nat) (pa n : Nat) : State × List Byte × Bool × Option Nat :=
    let core := (a.1.team r.team).gcore
    match (if scattered || isHost pa then none else a.1.l1.find? (fun e => e.2.core == core && e.2.pa == sectorOf pa)) with
    | some c => (if c.2.bad then a.1.count 4 0 5 else a.1, a.2.1 ++ (if c.2.bad then zeros n else (c.2.data.drop (pa - c.2.pa)).take n),
                 a.2.2.1 || c.2.bad, a.2.2.2)
    | none =>
      let h := a.1.homeReadBy core pa n
      (if h.2.1 then h.2.2.count 4 0 3 else h.2.2, a.2.1 ++ h.1, a.2.2.1 || h.2.1, if h.2.2.marked (h.2.2.team r.team).grid pa then some 0x19 else a.2.2.2)
  if scattered then pas.foldl (fun a pa => one a pa 4) (s, [], false, none)
  else match pas with
    | [] => (s, [], false, none)
    | pa :: _ => one (s, [], false, none) pa 16
/-- Posts a landing with its operation (R190, R226). -/
def State.postLanding (s : State) (r : LaneRef) (x : XForm) (e off : Nat) (data : List Byte) (late : Option Nat) (src : Nat) : State :=
  let n := s.nextKey
  let s := { s with nextKey := n + 1 }
  let closing := bit x.md.toNat 0
  let base := s.newOp r x [] []
  let o := match late with
    | some c => { base with late := some (s.faultHere c 0 src) }
    | none => { base with wait := .landing n }
  let (k, s) := s.post o x
  let l : Landing :=
    { core := (s.team r.team).gcore, entry := some e, team := r.team, g := r.g, tag := (s.team r.team).tag, off := off, data := data,
      closing := closing, op := if late.isNone then some k else none, cmd := none, order := n }
  { s with landings := Tab.set s.landings n l }
/-- ACP16 and ACPS16 in one lane (R226); the faults come in the order the rule gives. -/
def State.acpLane (s : State) (x : XForm) (scattered : Bool) (r : LaneRef) : State :=
  if s.isHelper r then s.finish r x [] else
  let src := s.reg64 r x.a.toNat
  let off := s.regRun r x.b.toNat 1
  let g := (s.team r.team).grid
  if src % (if scattered then 4 else 16) ≠ 0 then s.raise r 4 src else
  match (s.tileName r x.d.toNat).bind (fun e => (s.heldTile r.team e).map (fun t => (e, t))) with
  | none => s.raise r 0x0B
  | some (e, t) =>
    if off % 16 ≠ 0 ∨ t.bytes < off + 16 then s.raise r 0x0C else
    let k := tileKey (s.team r.team).gcore e
    let full := t.state == 2 || t.state == 3
    let filling (s : State) : State := s.setTile k { t with state := if t.state = 0 then 1 else t.state }
    if bits src 63 57 = 0 ∧ bit src 56 then
      match s.fabricFault src with
      | some c => s.raise r c src
      | none =>
        if full then s.raise r 0x0B
        else if s.fabricBusy (fabricPeer src) then s
        else
          let n := s.nextKey
          let s := (filling s).send r.team none src (.read 16) [] false
          let l := s.nextKey
          let (k, s) := ({ s with nextKey := l + 1 } : State).post { s.newOp r x [] [] with wait := .fabric n } x
          let w : Landing :=
            { core := (s.team r.team).gcore, entry := some e, team := r.team, g := r.g, tag := (s.team r.team).tag, off := off, data := [],
              closing := bit x.md.toNat 0, op := some k, cmd := none, order := l }
          let sent := match Tab.find s.sent n with
            | some p => Tab.set s.sent n { p with op := some k }
            | none => s.sent
          { s with sent := sent, landings := Tab.set s.landings l w }
    else
      match s.wordPlaces g src with
      | .error (c, ue) => (s.countUe ue).raise r c src
      | .ok pas =>
        if full then s.raise r 0x0B else
        let c := s.copyRead r scattered pas
        match c.2.2.2 with
        | some code => c.1.finishLate r x [] code src
        | none =>
          let c := (filling c.1, c.2)
          let strict := (c.1.gridOf r.team).strict
          let s := if c.2.2.1 && !strict then c.1.setTerr r.team 0 else c.1
          s.postLanding r x e off c.2.1 (if c.2.2.1 && strict then some 8 else none) src
/-- ACP16 (R226). -/
def execAcp16 (x : XForm) (s : State) : Host.Outcome State Fault Refusal := runLanes (.acp16 x) x (fun s r => s.acpLane x false r) s
/-- ACPS16 (R226). -/
def execAcps16 (x : XForm) (s : State) : Host.Outcome State Fault Refusal := runLanes (.acps16 x) x (fun s r => s.acpLane x true r) s

end Sys2Proof.Machine
end

