-- ==== Sys2Proof/Machine/Treadle.lean ====
section
/-! DEFINITION. The Treadle's walks (R335, R336, R353 to R356). -/

namespace Sys2Proof.Machine

open Sys2Proof

/-- Extents of levels 0 to 3 (R353). -/
def walkExtents (a : Nat) : List Nat := [bits a 15 0 + 1, bits a 31 16 + 1, bits a 47 32 + 1, bits a 63 48 + 1]
/-- Tuples of a walk. -/
def Walk.total (w : Walk) : Nat := w.extents.foldl (· * ·) 1
/-- The tuple at a row-major position, level 0 most significant (R336). -/
def tupleAt (es : List Nat) (n : Nat) : List Nat :=
  match es with
  | [] => []
  | _ :: rest => let k := rest.foldl (· * ·) 1; (n / k) :: tupleAt rest (n % k)
/-- The first position from `p` on, around the walk, that has not been handed out. -/
def Walk.nextFrom (w : Walk) : Nat → Nat → Nat
  | 0, p => p
  | f + 1, p => if w.handed.contains p then Walk.nextFrom w f ((p + 1) % w.total) else p
/-- Whether a walk's operands are refused (R353): TILE_RANGE. -/
def walkBad (levels a b : Nat) : Bool :=
  (List.range 4).any (fun i => decide (levels ≤ i) && bits a (16 * i + 15) (16 * i) != 0)
    || decide (2 ^ 32 < (walkExtents a).foldl (· * ·) 1)
    || (List.range 4).any (fun i => bit b (8 * i + 6))
/-- TWALK, once per issue (R353). -/
def execTwalk (x : XForm) (s : State) : Host.Outcome State Fault Refusal :=
  matrixX (.twalk x) x (fun s ws r =>
    let a := s.reg64 r x.a.toNat
    let b := s.regRun r x.b.toNat 1
    let levels := x.c.toNat
    let tiles := (List.range 4).filterMap (fun i => if bit b (8 * i + 7) then some (bits b (8 * i + 5) (8 * i)) else none)
    if walkBad levels a b then .fault 0x0C
    else if tiles.any (fun e => (s.heldTile r.team e).isNone) then .fault 0x0B
    else
      let cl := (s.team r.team).cluster
      let l := s.last cl
      match (List.range 16).find? (fun k => (Tab.find l.walks k).isNone) with
      | none => .done (s.finishIssue ws x (runWrites x.d.toNat 0xFFFFFFFF 1))
      | some k =>
        let w : Walk := { grid := (s.team r.team).grid, teamid := (s.team r.team).teamid, levels := levels, extents := walkExtents a, bindings := tiles, handed := [] }
        .done ((s.setLast cl { l with walks := Tab.set l.walks k w }).finishIssue ws x (runWrites x.d.toNat k 1))) s
/-- The walk an id names for a team. -/
def State.walkOf (s : State) (t id : Nat) : Option Walk :=
  match Tab.find (s.last (s.team t).cluster).walks id with
  | some w => if id < 16 ∧ w.grid = (s.team t).grid ∧ w.teamid = (s.team t).teamid then some w else none
  | none => none
/-- TWNEXT, once per issue (R354): row-major in deterministic mode, else a tuple of the Treadle's choosing (R336; log entry 6). -/
def execTwnext (x : XForm) (s : State) : Host.Outcome State Fault Refusal :=
  matrixX (.twnext x) x (fun s ws r =>
    let id := s.regRun r x.a.toNat 1
    let p := x.md.toNat / 2
    match s.walkOf r.team id with
    | none => .fault 0x0B
    | some w =>
      if w.total ≤ w.handed.length then .done (s.finishTogether ws x [] [(p, false)])
      else
        let det := (s.gridOf r.team).det
        let start := if det then 0 else Config.treadleChoice s.freeCount % w.total
        let n := w.nextFrom (w.handed.length + 1) start
        let cl := (s.team r.team).cluster
        let l := s.last cl
        let s := ({ s with freeCount := if det then s.freeCount else s.freeCount + 1 } : State).setLast cl
          { l with walks := Tab.set l.walks id { w with handed := n :: w.handed } }
        let c := tupleAt w.extents n
        let v := c.getD 0 0 + c.getD 1 0 * 2 ^ 32 + c.getD 2 0 * 2 ^ 64 + c.getD 3 0 * 2 ^ 96
        .done (s.finishTogether ws x (runWrites x.d.toNat v 4) [(p, true)])) s
/-- TWDONE, once per issue (R355). -/
def execTwdone (x : XForm) (s : State) : Host.Outcome State Fault Refusal :=
  matrixX (.twdone x) x (fun s ws r =>
    let id := s.regRun r x.a.toNat 1
    match s.walkOf r.team id with
    | none => .fault 0x0B
    | some _ =>
      let cl := (s.team r.team).cluster
      let l := s.last cl
      .done ((s.setLast cl { l with walks := Tab.erase l.walks id }).finishTogether ws x [] [])) s

end Sys2Proof.Machine
end

