-- ==== Sys2Proof/Machine/Dispatch.lean ====
section
/-! DEFINITION. One arm per constructor of Instr, each a direct call of its meaning. -/

namespace Sys2Proof.Machine

open Sys2Proof

/-- The meaning of an instruction or event in a state. -/
def exec (i : Instr) (s : State) : Host.Outcome State Fault Refusal :=
  match i with
  | .cMov f => Sys2Proof.Machine.execCMov f s
  | .cMovImm f => Sys2Proof.Machine.execCMovImm f s
  | .cAdd f => Sys2Proof.Machine.execCAdd f s
  | .cAddImm f => Sys2Proof.Machine.execCAddImm f s
  | .cSub f => Sys2Proof.Machine.execCSub f s
  | .cSubImm f => Sys2Proof.Machine.execCSubImm f s
  | .cMul f => Sys2Proof.Machine.execCMul f s
  | .cMulImm f => Sys2Proof.Machine.execCMulImm f s
  | .cAnd f => Sys2Proof.Machine.execCAnd f s
  | .cAndImm f => Sys2Proof.Machine.execCAndImm f s
  | .cOr f => Sys2Proof.Machine.execCOr f s
  | .cOrImm f => Sys2Proof.Machine.execCOrImm f s
  | .cXor f => Sys2Proof.Machine.execCXor f s
  | .cXorImm f => Sys2Proof.Machine.execCXorImm f s
  | .cShl f => Sys2Proof.Machine.execCShl f s
  | .cShlImm f => Sys2Proof.Machine.execCShlImm f s
  | .cShrl f => Sys2Proof.Machine.execCShrl f s
  | .cShrlImm f => Sys2Proof.Machine.execCShrlImm f s
  | .cShra f => Sys2Proof.Machine.execCShra f s
  | .cShraImm f => Sys2Proof.Machine.execCShraImm f s
  | .cFadd f => Sys2Proof.Machine.execCFadd f s
  | .cFsub f => Sys2Proof.Machine.execCFsub f s
  | .cFmul f => Sys2Proof.Machine.execCFmul f s
  | .cFmax f => Sys2Proof.Machine.execCFmax f s
  | .cFmin f => Sys2Proof.Machine.execCFmin f s
  | .nop => Sys2Proof.Machine.execNop s
  | .cExit => Sys2Proof.Machine.execCExit s
  | .cYield => Sys2Proof.Machine.execCYield s
  | .waitAll => Sys2Proof.Machine.execWaitAll s
  | .add f => Sys2Proof.Machine.execAdd f s
  | .sub f => Sys2Proof.Machine.execSub f s
  | .mul f => Sys2Proof.Machine.execMul f s
  | .mulhi f => Sys2Proof.Machine.execMulhi f s
  | .mulhiu f => Sys2Proof.Machine.execMulhiu f s
  | .and f => Sys2Proof.Machine.execAnd f s
  | .or f => Sys2Proof.Machine.execOr f s
  | .xor f => Sys2Proof.Machine.execXor f s
  | .andn f => Sys2Proof.Machine.execAndn f s
  | .orn f => Sys2Proof.Machine.execOrn f s
  | .shl f => Sys2Proof.Machine.execShl f s
  | .shrl f => Sys2Proof.Machine.execShrl f s
  | .shra f => Sys2Proof.Machine.execShra f s
  | .rotl f => Sys2Proof.Machine.execRotl f s
  | .rotr f => Sys2Proof.Machine.execRotr f s
  | .min f => Sys2Proof.Machine.execMin f s
  | .max f => Sys2Proof.Machine.execMax f s
  | .minu f => Sys2Proof.Machine.execMinu f s
  | .maxu f => Sys2Proof.Machine.execMaxu f s
  | .abs f => Sys2Proof.Machine.execAbs f s
  | .addsat f => Sys2Proof.Machine.execAddsat f s
  | .subsat f => Sys2Proof.Machine.execSubsat f s
  | .popc f => Sys2Proof.Machine.execPopc f s
  | .clz f => Sys2Proof.Machine.execClz f s
  | .ctz f => Sys2Proof.Machine.execCtz f s
  | .brev f => Sys2Proof.Machine.execBrev f s
  | .bfx f => Sys2Proof.Machine.execBfx f s
  | .bfi f => Sys2Proof.Machine.execBfi f s
  | .permb f => Sys2Proof.Machine.execPermb f s
  | .lea f => Sys2Proof.Machine.execLea f s
  | .add64 f => Sys2Proof.Machine.execAdd64 f s
  | .sub64 f => Sys2Proof.Machine.execSub64 f s
  | .sel f => Sys2Proof.Machine.execSel f s
  | .mov f => Sys2Proof.Machine.execMov f s
  | .cmpeq f => Sys2Proof.Machine.execCmpeq f s
  | .cmpne f => Sys2Proof.Machine.execCmpne f s
  | .cmplt f => Sys2Proof.Machine.execCmplt f s
  | .cmple f => Sys2Proof.Machine.execCmple f s
  | .cmpltu f => Sys2Proof.Machine.execCmpltu f s
  | .cmpleu f => Sys2Proof.Machine.execCmpleu f s
  | .pand f => Sys2Proof.Machine.execPand f s
  | .por f => Sys2Proof.Machine.execPor f s
  | .pxor f => Sys2Proof.Machine.execPxor f s
  | .pnot f => Sys2Proof.Machine.execPnot f s
  | .p2v f => Sys2Proof.Machine.execP2v f s
  | .v2p f => Sys2Proof.Machine.execV2p f s
  | .srd f => Sys2Proof.Machine.execSrd f s
  | .swr f => Sys2Proof.Machine.execSwr f s
  | .addi f => Sys2Proof.Machine.execAddi f s
  | .muli f => Sys2Proof.Machine.execMuli f s
  | .andi f => Sys2Proof.Machine.execAndi f s
  | .ori f => Sys2Proof.Machine.execOri f s
  | .xori f => Sys2Proof.Machine.execXori f s
  | .shli f => Sys2Proof.Machine.execShli f s
  | .shrli f => Sys2Proof.Machine.execShrli f s
  | .shrai f => Sys2Proof.Machine.execShrai f s
  | .rotli f => Sys2Proof.Machine.execRotli f s
  | .mini f => Sys2Proof.Machine.execMini f s
  | .maxi f => Sys2Proof.Machine.execMaxi f s
  | .cmpeqi f => Sys2Proof.Machine.execCmpeqi f s
  | .cmpnei f => Sys2Proof.Machine.execCmpnei f s
  | .cmplti f => Sys2Proof.Machine.execCmplti f s
  | .cmplei f => Sys2Proof.Machine.execCmplei f s
  | .cmpltui f => Sys2Proof.Machine.execCmpltui f s
  | .fadd f => Sys2Proof.Machine.execFadd f s
  | .fsub f => Sys2Proof.Machine.execFsub f s
  | .fmul f => Sys2Proof.Machine.execFmul f s
  | .fmac f => Sys2Proof.Machine.execFmac f s
  | .fmin f => Sys2Proof.Machine.execFmin f s
  | .fmax f => Sys2Proof.Machine.execFmax f s
  | .fabs f => Sys2Proof.Machine.execFabs f s
  | .fneg f => Sys2Proof.Machine.execFneg f s
  | .fcmpeq f => Sys2Proof.Machine.execFcmpeq f s
  | .fcmpne f => Sys2Proof.Machine.execFcmpne f s
  | .fcmplt f => Sys2Proof.Machine.execFcmplt f s
  | .fcmple f => Sys2Proof.Machine.execFcmple f s
  | .fcmpun f => Sys2Proof.Machine.execFcmpun f s
  | .frcp f => Sys2Proof.Machine.execFrcp f s
  | .frsq f => Sys2Proof.Machine.execFrsq f s
  | .fsqrt f => Sys2Proof.Machine.execFsqrt f s
  | .fdiv f => Sys2Proof.Machine.execFdiv f s
  | .fexp2 f => Sys2Proof.Machine.execFexp2 f s
  | .flog2 f => Sys2Proof.Machine.execFlog2 f s
  | .fsin f => Sys2Proof.Machine.execFsin f s
  | .fcos f => Sys2Proof.Machine.execFcos f s
  | .ftanh f => Sys2Proof.Machine.execFtanh f s
  | .ffloor f => Sys2Proof.Machine.execFfloor f s
  | .fceil f => Sys2Proof.Machine.execFceil f s
  | .frint f => Sys2Proof.Machine.execFrint f s
  | .ftrunc f => Sys2Proof.Machine.execFtrunc f s
  | .fscale f => Sys2Proof.Machine.execFscale f s
  | .fgetexp f => Sys2Proof.Machine.execFgetexp f s
  | .fclass f => Sys2Proof.Machine.execFclass f s
  | .hadd2 f => Sys2Proof.Machine.execHadd2 f s
  | .hmul2 f => Sys2Proof.Machine.execHmul2 f s
  | .hmac2 f => Sys2Proof.Machine.execHmac2 f s
  | .bra f => Sys2Proof.Machine.execBra f s
  | .brx f => Sys2Proof.Machine.execBrx f s
  | .call f => Sys2Proof.Machine.execCall f s
  | .callx f => Sys2Proof.Machine.execCallx f s
  | .ret f => Sys2Proof.Machine.execRet f s
  | .jmset f => Sys2Proof.Machine.execJmset f s
  | .jmget f => Sys2Proof.Machine.execJmget f s
  | .join f => Sys2Proof.Machine.execJoin f s
  | .leave f => Sys2Proof.Machine.execLeave f s
  | .waitj f => Sys2Proof.Machine.execWaitj f s
  | .reform => Sys2Proof.Machine.execReform s
  | .home => Sys2Proof.Machine.execHome s
  | .yield => Sys2Proof.Machine.execYield s
  | .exit => Sys2Proof.Machine.execExit s
  | .wait f => Sys2Proof.Machine.execWait f s
  | .trap f => Sys2Proof.Machine.execTrap f s
  | .shfli f => Sys2Proof.Machine.execShfli f s
  | .shflu f => Sys2Proof.Machine.execShflu f s
  | .shfld f => Sys2Proof.Machine.execShfld f s
  | .shflx f => Sys2Proof.Machine.execShflx f s
  | .voteall f => Sys2Proof.Machine.execVoteall f s
  | .voteany f => Sys2Proof.Machine.execVoteany f s
  | .ballot f => Sys2Proof.Machine.execBallot f s
  | .lred f => Sys2Proof.Machine.execLred f s
  | .lscan f => Sys2Proof.Machine.execLscan f s
  | .qxh f => Sys2Proof.Machine.execQxh f s
  | .qxv f => Sys2Proof.Machine.execQxv f s
  | .qxd f => Sys2Proof.Machine.execQxd f s
  | .qbc f => Sys2Proof.Machine.execQbc f s
  | .elect f => Sys2Proof.Machine.execElect f s
  | .dp4a f => Sys2Proof.Machine.execDp4a f s
  | .radd f => Sys2Proof.Machine.execRadd f s
  | .ld x => Sys2Proof.Machine.execLd x s
  | .st x => Sys2Proof.Machine.execSt x s
  | .ldl x => Sys2Proof.Machine.execLdl x s
  | .stl x => Sys2Proof.Machine.execStl x s
  | .ldv x => Sys2Proof.Machine.execLdv x s
  | .vpin x => Sys2Proof.Machine.execVpin x s
  | .vunpin x => Sys2Proof.Machine.execVunpin x s
  | .pf x => Sys2Proof.Machine.execPf x s
  | .smap x => Sys2Proof.Machine.execSmap x s
  | .sunmap x => Sys2Proof.Machine.execSunmap x s
  | .sflush x => Sys2Proof.Machine.execSflush x s
  | .sinv x => Sys2Proof.Machine.execSinv x s
  | .acp16 x => Sys2Proof.Machine.execAcp16 x s
  | .acps16 x => Sys2Proof.Machine.execAcps16 x s
  | .talloc x => Sys2Proof.Machine.execTalloc x s
  | .tfree x => Sys2Proof.Machine.execTfree x s
  | .twait x => Sys2Proof.Machine.execTwait x s
  | .tstate x => Sys2Proof.Machine.execTstate x s
  | .fence x => Sys2Proof.Machine.execFence x s
  | .fencex x => Sys2Proof.Machine.execFencex x s
  | .movi x => Sys2Proof.Machine.execMovi x s
  | .cvt x => Sys2Proof.Machine.execCvt x s
  | .cvtpk x => Sys2Proof.Machine.execCvtpk x s
  | .cvtq x => Sys2Proof.Machine.execCvtq x s
  | .dph x => Sys2Proof.Machine.execDph x s
  | .fma x => Sys2Proof.Machine.execFma x s
  | .atom x => Sys2Proof.Machine.execAtom x s
  | .upd x => Sys2Proof.Machine.execUpd x s
  | .cas x => Sys2Proof.Machine.execCas x s
  | .chain x => Sys2Proof.Machine.execChain x s
  | .binit x => Sys2Proof.Machine.execBinit x s
  | .barr x => Sys2Proof.Machine.execBarr x s
  | .bwait x => Sys2Proof.Machine.execBwait x s
  | .barw x => Sys2Proof.Machine.execBarw x s
  | .btestp x => Sys2Proof.Machine.execBtestp x s
  | .bdrop x => Sys2Proof.Machine.execBdrop x s
  | .tbar x => Sys2Proof.Machine.execTbar x s
  | .qinit x => Sys2Proof.Machine.execQinit x s
  | .enq x => Sys2Proof.Machine.execEnq x s
  | .deq x => Sys2Proof.Machine.execDeq x s
  | .qstat x => Sys2Proof.Machine.execQstat x s
  | .qclose x => Sys2Proof.Machine.execQclose x s
  | .qldt x => Sys2Proof.Machine.execQldt x s
  | .qrnd x => Sys2Proof.Machine.execQrnd x s
  | .qrndf x => Sys2Proof.Machine.execQrndf x s
  | .qrnd2 x => Sys2Proof.Machine.execQrnd2 x s
  | .qbern x => Sys2Proof.Machine.execQbern x s
  | .last x => Sys2Proof.Machine.execLast x s
  | .lswap x => Sys2Proof.Machine.execLswap x s
  | .mstr x => Sys2Proof.Machine.execMstr x s
  | .mdrn x => Sys2Proof.Machine.execMdrn x s
  | .mzero x => Sys2Proof.Machine.execMzero x s
  | .mstat x => Sys2Proof.Machine.execMstat x s
  | .twalk x => Sys2Proof.Machine.execTwalk x s
  | .twnext x => Sys2Proof.Machine.execTwnext x s
  | .twdone x => Sys2Proof.Machine.execTwdone x s
  | .hstep x => Sys2Proof.Machine.execHstep x s
  | .hread x => Sys2Proof.Machine.execHread x s
  | .col x => Sys2Proof.Machine.execCol x s
  | .cwait x => Sys2Proof.Machine.execCwait x s
  | .slotq x => Sys2Proof.Machine.execSlotq x s
  | .gettime x => Sys2Proof.Machine.execGettime x s
  | .assert x => Sys2Proof.Machine.execAssert x s
  | .brk x => Sys2Proof.Machine.execBrk x s
  | .rtrap x => Sys2Proof.Machine.execRtrap x s
  | .idemb x => Sys2Proof.Machine.execIdemb x s
  | .ideme x => Sys2Proof.Machine.execIdeme x s
  | .launch x => Sys2Proof.Machine.execLaunch x s
  | .ctxr x => Sys2Proof.Machine.execCtxr x s
  | .ctxw x => Sys2Proof.Machine.execCtxw x s
  | .instructionFetch core grid pc => Sys2Proof.Machine.execInstructionFetch core grid pc s
  | .operationCompletion n reply => Sys2Proof.Machine.execOperationCompletion n reply s
  | .deferredFault n => Sys2Proof.Machine.execDeferredFault n s
  | .handlerEntry r => Sys2Proof.Machine.execHandlerEntry r s
  | .contextStop grid => Sys2Proof.Machine.execContextStop grid s
  | .formation n => Sys2Proof.Machine.execFormation n s
  | .formationPlacement n => Sys2Proof.Machine.execFormationPlacement n s
  | .groupRetire team g => Sys2Proof.Machine.execGroupRetire team g s
  | .teamRetireStage2 team => Sys2Proof.Machine.execTeamRetireStage2 team s
  | .teamRetireStage3 team => Sys2Proof.Machine.execTeamRetireStage3 team s
  | .gridComplete grid => Sys2Proof.Machine.execGridComplete grid s
  | .teamAdmit team => Sys2Proof.Machine.execTeamAdmit team s
  | .l1CopyExpire n => Sys2Proof.Machine.execL1CopyExpire n s
  | .updCopyEviction n => Sys2Proof.Machine.execUpdCopyEviction n s
  | .chainTurn n => Sys2Proof.Machine.execChainTurn n s
  | .tileEntryFree r => Sys2Proof.Machine.execTileEntryFree r s
  | .tileLanding n => Sys2Proof.Machine.execTileLanding n s
  | .tailObservation team => Sys2Proof.Machine.execTailObservation team s
  | .ringNop team => Sys2Proof.Machine.execRingNop team s
  | .copyin team => Sys2Proof.Machine.execCopyin team s
  | .copyout team => Sys2Proof.Machine.execCopyout team s
  | .copylocal team => Sys2Proof.Machine.execCopylocal team s
  | .mcastin team => Sys2Proof.Machine.execMcastin team s
  | .fill team => Sys2Proof.Machine.execFill team s
  | .commandCompletion team n => Sys2Proof.Machine.execCommandCompletion team n s
  | .commit n => Sys2Proof.Machine.execCommit n s
  | .timeout r => Sys2Proof.Machine.execTimeout r s
  | .ldvTimeout r => Sys2Proof.Machine.execLdvTimeout r s
  | .cwaitTimeout r => Sys2Proof.Machine.execCwaitTimeout r s
  | .gettimeRelease r => Sys2Proof.Machine.execGettimeRelease r s
  | .qwData win off access => Sys2Proof.Machine.execQwData win off access s
  | .tableFetch core grid dim => Sys2Proof.Machine.execTableFetch core grid dim s
  | .requestAcceptance cl => Sys2Proof.Machine.execRequestAcceptance cl s
  | .lastExecute cl n => Sys2Proof.Machine.execLastExecute cl n s
  | .lswapExecute cl n => Sys2Proof.Machine.execLswapExecute cl n s
  | .mstrPass cl ns => Sys2Proof.Machine.execMstrPass cl ns s
  | .mzeroExecute cl n => Sys2Proof.Machine.execMzeroExecute cl n s
  | .mdrnExecute cl n => Sys2Proof.Machine.execMdrnExecute cl n s
  | .mstatExecute cl n => Sys2Proof.Machine.execMstatExecute cl n s
  | .pageWalk grid va => Sys2Proof.Machine.execPageWalk grid va s
  | .versionFlip v => Sys2Proof.Machine.execVersionFlip v s
  | .launchRequest die => Sys2Proof.Machine.execLaunchRequest die s
  | .gridAcceptance die => Sys2Proof.Machine.execGridAcceptance die s
  | .bindRecord grid die core => Sys2Proof.Machine.execBindRecord grid die core s
  | .preemption teams action => Sys2Proof.Machine.execPreemption teams action s
  | .drainRedecision team => Sys2Proof.Machine.execDrainRedecision team s
  | .saveComplete team => Sys2Proof.Machine.execSaveComplete team s
  | .flushAndRestart team => Sys2Proof.Machine.execFlushAndRestart team s
  | .powerUp rails => Sys2Proof.Machine.execPowerUp rails s
  | .perstDeassert locked => Sys2Proof.Machine.execPerstDeassert locked s
  | .bootVerify imgs => Sys2Proof.Machine.execBootVerify imgs s
  | .memoryInit trained => Sys2Proof.Machine.execMemoryInit trained s
  | .ready => Sys2Proof.Machine.execReady s
  | .railOutOfTolerance die rail mv => Sys2Proof.Machine.execRailOutOfTolerance die rail mv s
  | .powerSample mw => Sys2Proof.Machine.execPowerSample mw s
  | .railOvercurrent die rail ma => Sys2Proof.Machine.execRailOvercurrent die rail ma s
  | .withholdEnd die => Sys2Proof.Machine.execWithholdEnd die s
  | .apertureAccess off len store => Sys2Proof.Machine.execApertureAccess off len store s
  | .readCounter cls idx num part => Sys2Proof.Machine.execReadCounter cls idx num part s
  | .freeze cls idx => Sys2Proof.Machine.execFreeze cls idx s
  | .clear cls idx => Sys2Proof.Machine.execClear cls idx s
  | .setParam name value => Sys2Proof.Machine.execSetParam name value s
  | .attest nonce => Sys2Proof.Machine.execAttest nonce s
  | .attach grid => Sys2Proof.Machine.execAttach grid s
  | .detach grid => Sys2Proof.Machine.execDetach grid s
  | .resume grid => Sys2Proof.Machine.execResume grid s
  | .preempt grid action => Sys2Proof.Machine.execPreempt grid action s
  | .invalidate grid lo hi => Sys2Proof.Machine.execInvalidate grid lo hi s
  | .invalidationComplete n => Sys2Proof.Machine.execInvalidationComplete n s
  | .migrate grid va pa => Sys2Proof.Machine.execMigrate grid va pa s
  | .migrationRetry n => Sys2Proof.Machine.execMigrationRetry n s
  | .setSaveRegion base size => Sys2Proof.Machine.execSetSaveRegion base size s
  | .setAperture base => Sys2Proof.Machine.execSetAperture base s
  | .setLinkKey peer tx key salt => Sys2Proof.Machine.execSetLinkKey peer tx key salt s
  | .setCohort cfg => Sys2Proof.Machine.execSetCohort cfg s
  | .roster cs => Sys2Proof.Machine.execRoster cs s
  | .setGroup g entry start => Sys2Proof.Machine.execSetGroup g entry start s
  | .regObject grid addr remove => Sys2Proof.Machine.execRegObject grid addr remove s
  | .registerWrite reg value => Sys2Proof.Machine.execRegisterWrite reg value s
  | .linkTraining port offer => Sys2Proof.Machine.execLinkTraining port offer s
  | .ptpMessage offset => Sys2Proof.Machine.execPtpMessage offset s
  | .peerTableStage id entry => Sys2Proof.Machine.execPeerTableStage id entry s
  | .peerTableCommit => Sys2Proof.Machine.execPeerTableCommit s
  | .ownershipSet id state => Sys2Proof.Machine.execOwnershipSet id state s
  | .fabricRequest p => Sys2Proof.Machine.execFabricRequest p s
  | .moved n => Sys2Proof.Machine.execMoved n s
  | .packetDrop n => Sys2Proof.Machine.execPacketDrop n s
  | .flitReceive f => Sys2Proof.Machine.execFlitReceive f s
  | .flitRerequest peer slot ctr => Sys2Proof.Machine.execFlitRerequest peer slot ctr s
  | .switchOver peer => Sys2Proof.Machine.execSwitchOver peer s
  | .oldKeyDiscard peer tx => Sys2Proof.Machine.execOldKeyDiscard peer tx s
  | .slotTableEpoch => Sys2Proof.Machine.execSlotTableEpoch s
  | .slotBoundary => Sys2Proof.Machine.execSlotBoundary s
  | .messageSend port => Sys2Proof.Machine.execMessageSend port s
  | .messageDelivery m => Sys2Proof.Machine.execMessageDelivery m s
  | .red c => Sys2Proof.Machine.execRed c s
  | .partialTimer n => Sys2Proof.Machine.execPartialTimer n s
  | .fwd c => Sys2Proof.Machine.execFwd c s
  | .finalReduction c => Sys2Proof.Machine.execFinalReduction c s
  | .stepTimer g => Sys2Proof.Machine.execStepTimer g s
  | .dlv r => Sys2Proof.Machine.execDlv r s
  | .mcast r => Sys2Proof.Machine.execMcast r s
  | .heartbeatSend => Sys2Proof.Machine.execHeartbeatSend s
  | .heartbeat ident idx step => Sys2Proof.Machine.execHeartbeat ident idx step s
  | .peerLate k => Sys2Proof.Machine.execPeerLate k s
  | .peerSilent k => Sys2Proof.Machine.execPeerSilent k s
  | .unlocked => Sys2Proof.Machine.execUnlocked s
  | .versionEntryCreate v frame0 frame1 sel version => Sys2Proof.Machine.execVersionEntryCreate v frame0 frame1 sel version s
  | .versionEntryDestroy v => Sys2Proof.Machine.execVersionEntryDestroy v s
  | .sendQueueBind q peer => Sys2Proof.Machine.execSendQueueBind q peer s

end Sys2Proof.Machine
end

