-- ==== Sys2Proof/Machine/Place.lean ====
section
/-! DEFINITION. Loading a program from outside (log entry 8): the launch of a grid of one team of one group, as far as a first
instruction needs it. -/

namespace Sys2Proof.Machine

open Sys2Proof

/-- First virtual address of the program; also its physical address, in the DRAM of die 0. -/
def programBase : Nat := 2 ^ 30
/-- Physical address of the page-table root that the launch uses: a level-4 table, a level-3 table and a level-2 table. -/
def programRoot : Nat := 2 ^ 34
/-- Page tables that map the 1 GiB page at `programBase` for reading, writing and fetching (R404, R405). -/
def State.placeTables (s : State) : State :=
  ((s.poke programRoot (leBytes 8 (programRoot + 4096 + 1))).poke (programRoot + 4096) (leBytes 8 (programRoot + 8192 + 1))).poke
    (programRoot + 8192 + 8) (leBytes 8 (programBase + 31))
/-- A lane of the placed team. -/
def programLane (cycle : Nat) : Lane := { Lane.zero with pc := BitVec.ofNat 64 programBase, since := cycle }
/-- The placed grid: one team of 32 lanes, 128 registers, no local memory, no trap handler. -/
def programGrid (root : Nat) : Grid :=
  { Grid.zero with root := root, entry := programBase, nteams := 1, shape := 32, regs := 128, nextTeam := 1, liveTeams := 1, first := true }
/-- The placed team, on a core of the package. -/
def programTeam (g core cycle ns : Nat) : Team :=
  { Team.zero with
    grid := g, die := core / 208, core := core % 208, phase := .running, backed := true, tag := 1, admitted := ns,
    groups := [(0, { Group.zero with lanes := (List.range 32).map (fun l => (l, programLane cycle)) })] }
/-- The first core that no team and no formation uses. -/
def State.idleCore (s : State) : Nat :=
  ((List.range 832).find? (fun c => !s.teams.any (fun e => e.2.gcore == c) && !s.bins.any (fun e => e.2.core == c))).getD 0

/-- Places bytes as a program of a new grid on a core of its own, its first sector fetched, and gives its group the next turn. -/
def State.placeProgram (s : State) (code : List Byte) : State :=
  let t := s.nextKey
  let g := s.nextGrid
  let core := s.idleCore
  let s := s.placeTables.poke programBase code
  { s with
    boot := .ready, ready := true, bootFail := none, powerHold := false, withheld := [], issuedNow := [],
    icache := s.icache ++ [{ core := core, grid := g, va := programBase, bytes := memGetN s.mem programBase 64 }],
    nextKey := t + 1, nextGrid := g + 1,
    grids := Tab.set s.grids g (programGrid programRoot),
    teams := Tab.set s.teams t (programTeam g core s.cycle s.ns),
    turns := [Turn.issue t 0] }

end Sys2Proof.Machine
end

