-- ==== Sys2Proof/Machine/Policy.lean ====
section
/-! DEFINITION. Who moves next when the list of turns names nobody (log entry 7), and what passes with a cycle of time. -/

namespace Sys2Proof.Machine

open Sys2Proof

/-! ### Time -/

/-- Steers the time base by one hundredth of a nanosecond in each microsecond, 10 ppm, until the offset is gone; it never goes back. Once
within ±50 ns it is locked (R437). -/
def State.slew (s : State) : State :=
  if s.steer = 0 ∨ s.cycle % 800 ≠ 0 ∨ s.boot ≠ .ready then s else
  let d : Int := if 0 < s.steer then 1 else -1
  let left := s.steer - d
  { s with now := if d = 1 then s.now + 1 else s.now - 1, steer := left, unlocked := if left.natAbs ≤ 5000 then false else s.unlocked }
/-- Lanes of a team that wait at JOIN or WAITJ. -/
def Team.joinWaiters (t : Team) : Nat :=
  (t.groups.flatMap (fun g => g.2.lanes.filter (fun l => match l.2.cond with | .join _ => true | .waitj _ => true | _ => false))).length
/-- Counters that rise with each cycle of a wait (R178, R338, R418, R426, R485). -/
def State.countWaits (s : State) : State :=
  let s := s.teams.foldl (fun s e => let n := e.2.joinWaiters; if n = 0 then s else s.count 0 e.2.gcore 7 n) s
  let s := (distinct ((s.teams.filter (fun (e : Nat × Team) => e.2.phase == Phase.bound)).map (fun e => e.2.gcore))).foldl
    (fun s core => s.count 0 core 13) s
  let s := if (s.heldIn .hstep).isEmpty then s else s.count 6 0 2
  let s := s.lasts.foldl (fun s e =>
    if decide (32 ≤ e.2.pending.length) && e.2.table.any (fun q => !q.2.accepted) then s.count 2 e.1 7 else s) s
  let held := if s.powerHold then 4 else (s.withheld.filter (fun e => decide (s.ns < e.2))).length
  let s := if held = 0 then s else s.count 4 0 1 held
  (distinct ((s.publications.filter (fun e => !e.2.data.isEmpty)).map (fun e => e.2.ver / 1024))).foldl (fun s die => s.count 3 die 9 2) s
/-- Why the running lanes of a core are not ready: 6 an instruction fetch, else the reason of `unready` (R136, R167). -/
def State.stallReasons (s : State) (core : Nat) : List Nat :=
  s.teams.flatMap (fun e =>
    if e.2.gcore = core ∧ s.mayIssue e.1 then
      ((s.teamLanes e.1).filter s.runs).flatMap (fun r =>
        match s.fetch e.1 (s.lane r).pc.toNat with
        | .insn len w => s.reasons r len w (decodeBits len w)
        | .miss _ => [6])
    else [])
/-- Whether a core has had a ready subset in this cycle. -/
def State.coreReady (s : State) (core : Nat) : Bool :=
  s.issuedNow.any (fun c => c.1 == core) || (List.range 4).any (fun p => !(s.candidates core p).isEmpty)
/-- Counts the cycle on every core that has had no ready subset in it, once for each reason, and the stalls at a full slot beside a ready
subset too (R172, R178). The spec does not say what one stall of SLOT_SATURATED is: the model counts one on a core in each cycle in which some
lane is held so (DESIGN CHOICE, log entry 73). -/
def State.countStalls (s : State) : State :=
  (distinct (s.teams.map (fun e => e.2.gcore))).foldl (fun s core =>
    let why := s.stallReasons core
    let s := if why.contains 3 then s.count 0 core 11 else s
    if s.coreReady core then s else
    let s := if why.contains 1 then s.count 0 core 4 else s
    let s := if why.contains 2 then s.count 0 core 5 else s
    if why.contains 6 then s.count 0 core 6 else s) s
/-- The lanes held at their cores for want of a waiter record send their requests again (R272). -/
def State.resendAll (s : State) : State :=
  ((s.heldIn .deq) ++ (s.heldIn .enq)).foldl (fun s e => s.resend e.1) s
/-- Advances time by one arithmetic cycle, 1.25 ns; the time base runs from READY on (R423, R424). An L1 copy goes 65,536 cycles after its fill (R365), and held CWAITs look at
their words (R481); every partition may issue again (R167). -/
def State.tick (s : State) : State :=
  let s := s.countStalls.countWaits.resendAll.resendMoved
  let s := ({ s with issuedNow := [], cycle := s.cycle + 1, now := if s.boot = .ready then s.now + 125 else s.now } : State).slew
  let s := if s.l1.isEmpty then s else { s with l1 := s.l1.filter (fun e => decide (s.cycle < e.2.filled + 65536)) }
  s.wakeCwait

/-! ### The default policy -/

/-- What an event of this device does. -/
abbrev Move := State → Host.Outcome State Fault Refusal

/-- Every lane that the state holds. -/
def State.allLanes (s : State) : List LaneRef := s.teams.flatMap (fun e => s.teamLanes e.1)
/-- The fetches that running lanes wait for (R64, R167). -/
def State.fetchEvents (s : State) : List Move :=
  (distinct ((s.allLanes.filter (fun r => s.runs r && s.mayIssue r.team)).filterMap (fun r =>
    match s.fetch r.team (s.lane r).pc.toNat with
    | .miss _ => some ((s.team r.team).gcore, (s.team r.team).grid, (s.lane r).pc.toNat)
    | .insn _ _ => none))).map (fun e => execInstructionFetch e.1 e.2.1 e.2.2)
/-- Events of lanes: handler entry, and the end of a hold. -/
def State.laneEvents (s : State) : List Move :=
  s.allLanes.flatMap (fun r =>
    let x := s.lane r
    (if x.staged.isSome then [execHandlerEntry r] else []) ++
    (match x.cond with
     | .held h =>
       (match h.kind with
        | .ldv => [execLdvTimeout r] | .cwait => [execCwaitTimeout r] | .gettime => [execGettimeRelease r] | .tfree => [execTileEntryFree r]
        | .enq => [execTimeout r] | .deq => [execTimeout r]
        | _ => [])
     | _ => []))
/-- Events of the requests a Last holds, in the order of acceptance. -/
def lastEvents (cl : Nat) (l : Last) : List Move :=
  let acc := l.table.filter (fun e => e.2.accepted)
  [execRequestAcceptance cl] ++
  acc.flatMap (fun e => match e.2.kind with
    | .last => [execLastExecute cl e.1] | .lswap => [execLswapExecute cl e.1] | .mzero => [execMzeroExecute cl e.1]
    | .mdrn => [execMdrnExecute cl e.1] | .mstat => [execMstatExecute cl e.1]
    | .mstr => [fun s => execMstrPass cl ((s.fullPass cl).map Prod.fst) s])
/-- Events of a team: its ring, retirement and pre-emption. -/
def teamEvents (t : Nat) (x : Team) : List Move :=
  x.groups.map (fun g => execGroupRetire t g.1) ++
  [execTeamRetireStage2 t, execTeamRetireStage3 t, execSaveComplete t, execFlushAndRestart t, execTeamAdmit t, execDrainRedecision t] ++
  x.ring.started.map (fun c => execCommandCompletion t c.index) ++
  [execTailObservation t, execRingNop t, execCopyin t, execCopyout t, execCopylocal t, execMcastin t, execFill t]
/-- The event that performs a packet this device has sent to itself. -/
def parcelEvents (s : State) (o : Outgoing) : List Move :=
  match o with
  | .contribution p c => if s.isLocalPeer p then [execRed c, execFinalReduction c, execFwd (.sum c)] else []
  | .result p r => if s.isLocalPeer p then [execDlv r, execMcast r, execFwd (.result r)] else []
  | _ => []
/-- The events that the device brings about by itself, in a fixed order. The instruction caches fill as running lanes need
them; the TLBs only by turns that name the walk. -/
def State.ownEvents (s : State) : List Move :=
  s.laneEvents ++ s.fetchEvents ++
  s.ops.flatMap (fun e => if e.2.late.isSome then [execDeferredFault e.1] else match e.2.wait with
    | .ready => [execOperationCompletion e.1 []]
    | .gang _ _ _ _ _ => [execOperationCompletion e.1 []]
    | _ => []) ++
  s.grids.map (fun e => execContextStop e.1) ++
  s.landings.map (fun e => execTileLanding e.1) ++ s.commits.map (fun e => execCommit e.1) ++ s.chains.map (fun e => execChainTurn e.1) ++
  s.teams.flatMap (fun e => teamEvents e.1 e.2) ++ s.lasts.flatMap (fun e => lastEvents e.1 e.2) ++
  s.bins.flatMap (fun e => [execFormation e.1, execFormationPlacement e.1]) ++
  s.grids.map (fun e => execGridComplete e.1) ++ s.versions.map (fun e => execVersionFlip e.1) ++
  s.outgoing.flatMap (parcelEvents s) ++ s.arrivals.map (fun a => execFabricRequest a.p) ++
  s.partials.map (fun e => execPartialTimer e.1) ++ (distinct (s.steps.map (fun e => e.2.group))).map (fun g => execStepTimer g) ++
  s.sent.map (fun e => execPacketDrop e.1) ++ s.invals.map (fun e => execInvalidationComplete e.1) ++ s.migrations.map (fun e => execMigrationRetry e.1) ++
  (match s.cohort with
   | some c => execHeartbeatSend :: c.entries.flatMap (fun e => [execPeerLate e.1, execPeerSilent e.1])
   | none => []) ++
  s.withheld.map (fun e => execWithholdEnd e.1) ++
  [execSlotTableEpoch, execSlotBoundary] ++ (List.range 8).map (fun p => execMessageSend (24 + p)) ++
  (List.range 4).flatMap (fun die => [execLaunchRequest die, execGridAcceptance die]) ++
  s.grids.flatMap (fun e => e.2.dies.flatMap (fun die => (List.range 208).map (fun core => execBindRecord e.1 die core)))
/-- The state after an event, where it changes anything. -/
def State.movedBy (s : State) (m : Move) : Option State :=
  match m s with
  | .next s' => if s' = s then none else some s'
  | .fault _ => none
  | .refused _ => none
/-- What the device does by itself next: the first of its own events that changes anything. -/
def State.ownMove (s : State) : Option State := s.ownEvents.findSome? s.movedBy
/-- The core and partition on which a turn issues, where it names a group or a placed formation. -/
def State.turnPlace (s : State) : Turn → Option (Nat × Nat)
  | .issue t g => some (s.groupPlace t g)
  | .formation n => (Tab.find s.bins n).bind (fun b => b.place.map (fun p => (b.core, p.1)))
  | .pass | .evict _ | .upset _ | .corrected _ | .hostRead _ _ | .powerOff | .event _ => none
/-- The next issue of a partition that has not issued in this cycle, where one is ready (R167). -/
def State.pick (s : State) : Option (Turn × Offer) :=
  (distinct (s.teams.flatMap (fun e => e.2.groups.map (fun g => (e.2.gcore, g.2.partition))) ++
    s.bins.filterMap (fun e => e.2.place.map (fun p => (e.2.core, p.1))))).findSome? (fun c => s.choice c.1 c.2)

end Sys2Proof.Machine
end

