-- ==== Sys2Proof/Machine/Step.lean ====
section
/-! DEFINITION. One step: the turn that comes next, or what the default policy does. -/

namespace Sys2Proof.Machine

open Sys2Proof

/-- The chosen subset issues (R137, R167): the fetched instruction is decoded and executed, and an undecodable one raises
ILLEGAL_INSTRUCTION (R84). -/
def State.issueOffer (s : State) (u : Turn) (o : Offer) : Host.Outcome State Fault Refusal :=
  let s' := match u with
    | .formation n => s.beginIssue (match Tab.find s.bins n with | some b => b.team | none => 0) o (some n)
    | .issue t _ => s.beginIssue t o none
    | .pass | .evict _ | .upset _ | .corrected _ | .hostRead _ _ | .powerOff | .event _ => s
  match decodeBits o.len o.insn with
  | .ok i => exec i s'
  | .error _ => .next s'.illegal

/-- Takes a turn. A turn that issues is taken where its partition issues that subset next; else it changes nothing. -/
def State.take (s : State) (u : Turn) : Host.Outcome State Fault Refusal :=
  match u with
  | .pass => .next s.tick
  | .evict pa => .next (s.evictSector (sectorOf pa))
  | .upset u => .next (s.upset u)
  | .corrected sram => .next (s.count 4 0 (if sram then 4 else 2))
  | .hostRead off len => .next (s.hostRead off len)
  | .powerOff => .next s.losePower
  | .event i => exec i s
  | .issue _ _ | .formation _ =>
    match (s.turnPlace u).bind (fun c => s.choice c.1 c.2) with
    | some (v, o) => if v = u then s.issueOffer u o else .next s
    | none => .next s

/-- What still reaches a package whose bring-up has failed: a read of STATUS, a rail that leaves tolerance and the removal of power (R423). -/
def Turn.reachesHalted : Turn → Bool
  | .hostRead _ _ | .powerOff | .event (.railOutOfTolerance _ _ _) => true
  | _ => false
/-- What is done after a turn: lanes that it has made ready begin to age (R137). -/
def afterTurn (before : State) : Host.Outcome State Fault Refusal → Host.Outcome State Fault Refusal
  | .next s => .next (s.renewAges before)
  | .fault f => .fault f
  | .refused r => .refused r

/-- One step. The list of turns names who moves next; where it is empty the default policy does: an event that is due, then an issue, and
where nobody can move in this cycle any more, the cycle ends. After a failed step of bring-up the sequence is halted: the host reads STATUS, and
power is lost or removed, but nothing else moves (R423). -/
def step (s : State) : Host.Outcome State Fault Refusal :=
  match s.turns with
  | u :: us =>
    let s := { s with turns := us }
    if s.boot = .failed ∧ !u.reachesHalted then .next s else afterTurn s (s.take u)
  | [] =>
    if s.boot = .failed then .next s else
      match s.ownMove with
      | some s' => afterTurn s (.next s')
      | none =>
        match s.pick with
        | some (u, o) => afterTurn s (s.issueOffer u o)
        | none => afterTurn s (.next s.tick)

/-- A state whose next step runs the instruction: a resident team of one group of 32 lanes, at a page of code that holds it. -/
def State.withFetchWord (s : State) (nbits w : Nat) : State := s.placeProgram (toBytesLE 8 (w % 2 ^ nbits))

end Sys2Proof.Machine
end

