-- ==== Sys2Proof/Safety.lean ====
section
/-! DEFINITION. What counts as a well-kept state and a safe run, and the terms the statements are made of. -/

namespace Sys2Proof.Machine

open Sys2Proof

/-! ### Well-kept states and safe runs -/

/-- Every region of local memory, resident or saved, keeps the canonical form. -/
def State.regionsKept (s : State) : Prop :=
  (∀ e ∈ s.teams, Memory.wf e.2.localMem = true) ∧ ∀ e ∈ s.images, Memory.wf e.2.localMem = true

/-- A run of `n` steps that meets no fault and no refusal. -/
def SafeRun : Nat → State → Prop
  | 0, _ => True
  | n + 1, s => ∃ t, step s = .next t ∧ SafeRun n t

/-! ### When an instruction executes normally -/

/-- The issuing lanes are distinct, the instruction passes the checks of R19, R55, R84, R94, R156 and R302, no present lane loses its
guard and no active lane a register it reads to a parity failure (R20). -/
def Undisturbed (i : Instr) (p : BitVec 3) (neg : Bool) (s : State) : Prop :=
  s.cur.lanes.Nodup ∧ (∀ r ∈ s.present, s.guardLost p r = false)
    ∧ ∀ r ∈ s.active p neg, staticFault i s r = none ∧ parityFault i s r = (none, none)

/-- The guard that decides in which lanes an instruction acts (R70, R71, R74, R76). ASSERT acts in every lane, its guard being its condition (R311). -/
def guardOf : Instr → Option (BitVec 3 × Bool)
  | .bra f | .call f => some (f.p, f.n)
  | .jmset f | .jmget f | .join f | .leave f | .waitj f => some (f.p, f.n)
  | .movi x => some (x.p, x.pn)
  | .ld x | .st x | .ldl x | .stl x | .ldv x | .vpin x | .vunpin x | .pf x | .smap x | .sunmap x | .sflush x | .sinv x | .acp16 x
    | .acps16 x | .talloc x | .tfree x | .twait x | .tstate x | .fence x | .fencex x | .cvt x | .cvtpk x | .cvtq x | .dph x
    | .fma x | .atom x | .upd x | .cas x | .chain x | .binit x | .barr x | .bwait x | .barw x | .btestp x | .bdrop x | .tbar x
    | .qinit x | .enq x | .deq x | .qstat x | .qclose x | .qldt x | .qrnd x | .qrndf x | .qrnd2 x | .qbern x | .last x | .lswap x
    | .mstr x | .mdrn x | .mzero x | .mstat x | .twalk x | .twnext x | .twdone x | .hstep x | .hread x | .col x | .cwait x
    | .slotq x | .gettime x | .brk x | .rtrap x | .idemb x | .ideme x | .launch x | .ctxr x | .ctxw x => some (x.p, x.pn)
  | _ => none

/-- The same, where one lane of a listed team issues alone and its guard holds. -/
def Alone (i : Instr) (x : XForm) (r : LaneRef) (s : State) : Prop :=
  Undisturbed i x.p x.pn s ∧ s.present = [r] ∧ s.guard x.p x.pn r = true ∧ (Tab.find s.teams r.team).isSome = true
    ∧ s.cur.team = r.team

/-- The package holds one team, of one group, of one lane. -/
def Single (s : State) (r : LaneRef) : Prop :=
  ∃ y z w, s.teams = [(r.team, y)] ∧ y.groups = [(r.g, z)] ∧ z.lanes = [(r.l, w)]

/-! ### What a lane becomes -/

/-- A lane that goes on at its next instruction (R18, R137). -/
def Lane.passed (x : Lane) (s : State) : Lane :=
  { x with pc := x.pc + BitVec.ofNat 64 (2 * s.cur.len), since := s.cycle + 1, released := none }
/-- A lane sent to an address, bit 0 ignored (R18). -/
def Lane.sentTo (x : Lane) (s : State) (pc : Nat) : Lane :=
  { x with pc := BitVec.ofNat 64 (pc / 2 * 2), since := s.cycle + 1, released := none }
/-- A lane with a v-register written, with fresh parity (R20). -/
def Lane.put (x : Lane) (n : Nat) (w : Word) : Lane :=
  { x with v := Tab.set x.v n w, badParity := x.badParity.filter (· != n) }
/-- A lane with a predicate written, with fresh parity (R20); p0 keeps reading as true (R13). -/
def Lane.putPred (x : Lane) (k : Nat) (b : Bool) : Lane :=
  { x.setPred k b with badParity := x.badParity.filter (· != 256 + k) }
/-- A lane whose blocking instruction has completed: its slot falls and it goes on past the X form (R75, R170, R230). -/
def Lane.letGo (x : Lane) (f : XForm) (s : State) : Lane :=
  { x with sb := if f.se then Tab.set x.sb f.ss.toNat (x.slotCount f.ss.toNat - 1) else x.sb,
           cond := .running, pc := x.pc + 8, since := s.cycle + 1, released := none }
/-- A lane whose instruction has set its scoreboard slot (R75, R170). -/
def Lane.slotRaised (x : Lane) (f : XForm) : Lane :=
  if f.se then { x with sb := Tab.set x.sb f.ss.toNat (x.slotCount f.ss.toNat + 1) } else x

/-- The state with the given lanes replaced, each by what `h` says, and nothing else changed. -/
def State.withLanes (s : State) (rs : List LaneRef) (h : LaneRef → Lane) : State :=
  rs.foldl (fun u r => u.modLane r (fun _ => h r)) s
/-- The state with the sticky flags the given lanes raised set in their team's %terr (R26, R38). -/
def State.withFlags (s : State) (rs : List LaneRef) (f : LaneRef → FpFlags) : State :=
  rs.foldl (fun u r => u.setFlags r.team (f r)) s

/-- Everything outside the teams is as it was, and of each team everything outside its groups. -/
def SameButGroups (s t : State) : Prop :=
  t = { s with teams := t.teams } ∧ ∀ k, t.team k = { s.team k with groups := (t.team k).groups }

/-- Every s-register and join register of every group, its arrival sets and its exited set are as they were. -/
def SameGroupRegs (s t : State) : Prop := ∀ q, t.group q = { s.group q with lanes := (t.group q).lanes }

/-- Nothing but lanes and the operations in flight has changed: no memory, no other register, no flag. -/
def Quiet (s t : State) : Prop :=
  t = { s with teams := t.teams, ops := t.ops, nextKey := t.nextKey }
    ∧ (∀ k, t.team k = { s.team k with groups := (t.team k).groups }) ∧ SameGroupRegs s t

/-- Every byte of physical memory and of every region of local memory reads as before. -/
def SameMemory (s t : State) : Prop :=
  (∀ a, memGet t.mem a = memGet s.mem a) ∧ ∀ k a, memGet (t.team k).localMem a = memGet (s.team k).localMem a

/-- Bytes have been stored at a physical address: every other byte of physical memory, and every region, reads as before. -/
def Wrote (s t : State) (pa : Nat) (bs : List Byte) : Prop :=
  (∀ a, memGet t.mem a = if pa ≤ a ∧ a < pa + bs.length then bs.getD (a - pa) 0 else memGet s.mem a)
    ∧ ∀ k a, memGet (t.team k).localMem a = memGet (s.team k).localMem a
/-- Bytes have been stored in the region of a team: every other byte of it, every other region and physical memory read as before. -/
def WroteLocal (s t : State) (u off : Nat) (bs : List Byte) : Prop :=
  (∀ a, memGet t.mem a = memGet s.mem a)
    ∧ ∀ k a, memGet (t.team k).localMem a =
        if k = u ∧ off ≤ a ∧ a < off + bs.length then bs.getD (a - off) 0 else memGet (s.team k).localMem a

/-- The bytes of an object have been replaced, and nothing else in memory. -/
def WroteObject (s t : State) (o : ObjAt) (bs : List Byte) : Prop :=
  match o with
  | .mem pa => Wrote s t pa bs
  | .loc u off => WroteLocal s t u off bs
/-- The bits of an object of `n` bytes. -/
def State.objectBits (s : State) (o : ObjAt) (n : Nat) : Nat :=
  leNat (match o with | .mem pa => memGetN s.mem pa n | .loc u off => memGetN (s.team u).localMem off n)
/-- An object lies in readable memory in canonical form, the region of a listed team if it is local. -/
def State.objectKept (s : State) : ObjAt → Prop
  | .mem _ => s.bad = [] ∧ s.marks = [] ∧ Memory.wf s.mem = true
  | .loc u off => (s.team u).localBad.contains (off / 64) = false ∧ (Tab.find s.teams u).isSome = true ∧ Memory.wf (s.team u).localMem = true

/-- An operation of a lane is in flight: it will write the registers and predicates listed, lower the instruction's slot, and waits for
nothing (R170, R171). -/
def InFlight (s t : State) (r : LaneRef) (x : XForm) (ws : List (Nat × Word)) (ps : List (Nat × Bool)) : Prop :=
  ∃ k o, s.nextKey ≤ k ∧ Tab.find t.ops k = some o ∧ o.lane = r ∧ o.slot = slotOf x ∧ o.writes = ws ∧ o.preds = ps
    ∧ o.wait = .ready ∧ o.late = none

/-- The lane has gone on past its instruction, its slot raised, and every other lane is as it was (R170). -/
def WentOn (s t : State) (r : LaneRef) (x : XForm) : Prop :=
  t.lane r = ((s.lane r).slotRaised x).passed s ∧ ∀ q, q ≠ r → t.lane q = s.lane q

/-- A held lane has gone on past its instruction with its results: they are written and its slot has fallen or, where one is an s-register, they
are in flight until the other lanes of the issue have been answered (R16, R75, R170). -/
def Answered (s t : State) (r : LaneRef) (h : Hold) (ws : List (Nat × Word)) (ps : List (Nat × Bool)) : Prop :=
  (t.lane r).cond = .running ∧ (t.lane r).pc = (s.lane r).pc + 8
    ∧ ((sWrites ws).isEmpty = true → (∀ w ∈ ws, t.reg r w.1 = w.2) ∧ (∀ p ∈ ps, p.1 ≠ 0 → p.1 < 8 → (t.lane r).pred p.1 = p.2)
        ∧ (t.lane r).sb = if h.x.se then Tab.set (s.lane r).sb h.x.ss.toNat ((s.lane r).slotCount h.x.ss.toNat - 1) else (s.lane r).sb)
    ∧ ((sWrites ws).isEmpty = false → InFlight s t r h.x ws ps)

/-- An instruction has been performed for one lane: its results are in flight and the lane has gone on. -/
def Performed (s t : State) (r : LaneRef) (x : XForm) (ws : List (Nat × Word)) (ps : List (Nat × Bool)) : Prop :=
  InFlight s t r x ws ps ∧ WentOn s t r x

/-- A lane has gone on past its instruction, up to the lines it is known to have written or received (R366, R228); every other lane is as
it was. -/
def WentOnKnowing (s t : State) (r : LaneRef) (x : XForm) : Prop :=
  t.lane r = { ((s.lane r).slotRaised x).passed s with
    sig := (t.lane r).sig, seen := (t.lane r).seen, fenced := (t.lane r).fenced } ∧ ∀ q, q ≠ r → t.lane q = s.lane q

/-- A memory access has been performed for one lane: its results are in flight and the lane has gone on. -/
def PerformedMem (s t : State) (r : LaneRef) (x : XForm) (ws : List (Nat × Word)) (ps : List (Nat × Bool)) : Prop :=
  InFlight s t r x ws ps ∧ WentOnKnowing s t r x

/-- A request to the device an address of the fabric window names is on its way, in the sequence and epoch of its stream, and the lane's
operation waits for its reply (R171, R436, R438, R443 to R445). -/
def SentFor (s t : State) (r : LaneRef) (x : XForm) (va : Nat) (kind : PacketKind) (data : List Byte) (release : Bool)
    (fill : Option (Nat × Nat)) : Prop :=
  let p := fabricPeer va
  let st := s.stream p 0
  (∃ o, Tab.find t.ops (s.nextKey + 1) = some o ∧ o.lane = r ∧ o.slot = slotOf x ∧ o.wait = .fabric s.nextKey ∧ o.fill = fill
      ∧ o.late = none)
    ∧ Tab.find t.sent s.nextKey = some
        { peer := p, cls := 0, seq := st.seq, epoch := st.epoch, count := if release then some st.stores else none, kind := kind,
          offset := fabricOffset va, data := data, gen := s.gen p, resent := false, waits := false, at_ := s.now, team := r.team,
          op := some (s.nextKey + 1) }
    ∧ t.stream p 0 =
        { seq := (st.seq + 1) % 2 ^ 32, epoch := if release then (st.epoch + 1) % 2 ^ 16 else st.epoch,
          stores := if release then 0 else if kind = .write then st.stores + 1 else st.stores }
    ∧ WentOn s t r x ∧ SameMemory s t ∧ SameGroupRegs s t

/-- An answer has gone to another device: it is on its way, and a packet of its class with the answer's data in its stream (R436, R444, R446). -/
def State.answerSent (s : State) (dev cls : Nat) (o : Outgoing) (data : List Byte) : State :=
  let p := 1024 + dev
  let st := s.stream p cls
  { s with
    outgoing := s.outgoing ++ [o], streams := Tab.set s.streams (streamKey p cls) { st with seq := (st.seq + 1) % 2 ^ 32 },
    sent := Tab.set s.sent s.nextKey
      { peer := p, cls := cls, seq := st.seq, epoch := st.epoch, count := none, kind := .write, offset := 0, data := data, gen := s.gen p,
        resent := false, waits := false, at_ := s.now, team := 0, op := none },
    nextKey := s.nextKey + 1 }
/-- The numbered ports of a peer-table entry that are up: those it names at TIER 0, the Ultra Ethernet ports at TIER 1 (R435, R438). -/
def State.portUp (s : State) (entry : Nat) : Prop :=
  ∃ x ∈ s.ports, (∃ l ∈ x.2.links, l.2 = true) ∧ if bit entry 62 = true then 24 ≤ x.1 else x.1 < 24 ∧ bit entry x.1 = true

/-- A lane is parked with a fault at the current instruction, which it has not passed and of which nothing else has happened to it; every other
lane is as it was (R299, R301, R306). -/
def Parked (s t : State) (r : LaneRef) (code detail addr : Nat) : Prop :=
  t.lane r = { s.lane r with parked := true, faultCode := code, staged := some (s.faultHere code detail addr, false),
                             cond := .running, away := none, back := none }
    ∧ ∀ q, q ≠ r → t.lane q = s.lane q

/-- An X form has acted in the lanes `rs`: each of them that `traps` gives a code is parked with it at the instruction, each other one has gone
on with its slot raised; the rest of the present lanes, whose guard is false, have gone on, and every other lane is as it was (R18, R30, R74,
R170, R299). -/
def EachLane (s t : State) (x : XForm) (rs : List LaneRef) (traps : LaneRef → Option Nat) : Prop :=
  ∀ q, (Tab.find s.teams q.team).isSome = true → t.lane q =
    if q ∈ rs then
      match traps q with
      | some c => { s.lane q with
          parked := true, faultCode := c, staged := some (s.faultHere c 0 0, false), cond := .running, away := none, back := none }
      | none => ((s.lane q).slotRaised x).passed s
    else if q ∈ s.present then (s.lane q).passed s else s.lane q

/-- A held lane is parked with a fault at its instruction, its slot fallen; every other lane is as it was (R172, R299). -/
def ParkedHeld (s t : State) (r : LaneRef) (h : Hold) (code addr : Nat) : Prop :=
  t.lane r = { (s.lane r) with
      sb := if h.x.se then Tab.set (s.lane r).sb h.x.ss.toNat ((s.lane r).slotCount h.x.ss.toNat - 1) else (s.lane r).sb,
      parked := true, faultCode := code, cond := .running, away := none, back := none,
      staged := some ({ code := code, detail := 0, len := 4, addr := addr, insn := h.insn, fpc := (s.lane r).pc.toNat }, false) }
    ∧ ∀ q, q ≠ r → t.lane q = s.lane q

/-- A lane is held in its blocking instruction, its slot raised and its PC as it was (R230). -/
def HeldIn (s t : State) (r : LaneRef) (h : Hold) : Prop :=
  t.lane r = { (s.lane r).slotRaised h.x with cond := .held h } ∧ ∀ q, q ≠ r → t.lane q = s.lane q

/-- No stash mapping and no update-only copy stands between an access and its home, so that the home's bytes are memory's. -/
def Uncached (s : State) : Prop := s.upd = [] ∧ ∀ e ∈ s.teams, e.2.stash = []

/-- A fault of the lane would reach a handler: it is not in handler itself and its grid names one (R301, R303, R304). -/
def HandlerReady (s : State) (r : LaneRef) : Prop := (s.lane r).inHandler = false ∧ (s.gridOf r.team).handler ≠ 0

/-- A queue's control block lies in memory and passes its check (R259, R264). -/
def State.queueAt (s : State) (pa : Nat) (q : QBlock) : Prop :=
  qCheck (dieOfPa pa) (leNat (memGetN s.mem pa 64)) = true ∧ qDecode (leNat (memGetN s.mem pa 64)) = q

/-- A 32-bit word of a list of bytes, little-endian (R4). -/
def wordAt (bs : List Byte) (i : Nat) : Word :=
  bs.getD (4 * i + 3) 0 ++ bs.getD (4 * i + 2) 0 ++ bs.getD (4 * i + 1) 0 ++ bs.getD (4 * i) 0
/-- The register values a load of width code `w` takes from its bytes (R77, R203). -/
def loadedWords (w : Nat) (bs : List Byte) : List Word :=
  if w = 0 then [(bs.getD 0 0).signExtend 32]
  else if w = 1 then [(bs.getD 0 0).zeroExtend 32]
  else if w = 2 then [(bs.getD 1 0 ++ bs.getD 0 0).signExtend 32]
  else if w = 3 then [(bs.getD 1 0 ++ bs.getD 0 0).zeroExtend 32]
  else if w = 4 then [wordAt bs 0]
  else if w = 5 then [wordAt bs 0, wordAt bs 1]
  else (List.range (if w = 6 then 4 else 8)).map (wordAt bs)
/-- The bytes a store takes from registers, the lowest first; register 255 gives zeros (R73, R203). -/
def State.registerBytes (s : State) (r : LaneRef) (d n : Nat) : List Byte :=
  (List.range n).map (fun i => (s.reg r (d + i / 4)).extractLsb' (8 * (i % 4)) 8)
/-- Words into consecutive registers, the lowest first; register 255 discards them (R73). -/
def intoRegs (d : Nat) (ws : List Word) : List (Nat × Word) := if d < 192 then ws.zipIdx.map (fun e => (d + e.2, e.1)) else []

/-! ### Results as the rules state them -/

/-- Whether a code of `t` mantissa and `k` exponent bits, in a format whose greatest exponent is set apart, is a finite number (R35, R36). -/
def codeFinite (t k c : Nat) : Prop := c < 2 ^ (1 + t + k) ∧ c / 2 ^ t % 2 ^ k ≠ 2 ^ k - 1
/-- The number a finite code stands for (R35). -/
def codeValue (t k c : Nat) : ℚ :=
  let e := c / 2 ^ t % 2 ^ k
  let m := c % 2 ^ t
  let mag : ℚ := if e = 0 then m * 2 ^ (2 - 2 ^ (k - 1) - t : ℤ) else (2 ^ t + m) * 2 ^ (e + 1 - 2 ^ (k - 1) - t : ℤ)
  if c / 2 ^ (t + k) % 2 = 1 then -mag else mag
/-- The magnitude from which rounding to nearest leaves the format: halfway from its greatest finite number to the next power of 2 (R35, R56). -/
def overflowAt (t k : Nat) : ℚ := (2 ^ (t + 2) - 1) * 2 ^ (2 ^ (k - 1) - t - 2 : ℤ)
/-- A code is an exact number rounded once to nearest, ties to the even code, with its sign (R37, R39, R56). -/
def RoundedOnce (t k : Nat) (y : ℚ) (c : Nat) : Prop :=
  codeFinite t k c ∧ (c / 2 ^ (t + k) % 2 = 1 ↔ y < 0)
    ∧ ∀ c', codeFinite t k c' → |y - codeValue t k c| ≤ |y - codeValue t k c'|
        ∧ (|y - codeValue t k c| = |y - codeValue t k c'| → codeValue t k c' = codeValue t k c ∨ c % 2 = 0)

/-- d of the integer instructions of three registers, from the old d, a and b (R97 to R101). -/
def intResult : Instr → Option (RForm × (Word → Word → Word → Word))
  | .add f => some (f, fun _ a b => BitVec.ofNat 32 ((a.toNat + b.toNat) % 2 ^ 32))
  | .sub f => some (f, fun _ a b => BitVec.ofInt 32 ((a.toNat : Int) - b.toNat))
  | .mul f => some (f, fun _ a b => BitVec.ofNat 32 (a.toNat * b.toNat % 2 ^ 32))
  | .mulhi f => some (f, fun _ a b => (a.signExtend 64 * b.signExtend 64).extractLsb' 32 32)
  | .mulhiu f => some (f, fun _ a b => (a.zeroExtend 64 * b.zeroExtend 64).extractLsb' 32 32)
  | .and f => some (f, fun _ a b => a &&& b)
  | .or f => some (f, fun _ a b => a ||| b)
  | .xor f => some (f, fun _ a b => a ^^^ b)
  | .andn f => some (f, fun _ a b => a &&& ~~~ b)
  | .orn f => some (f, fun _ a b => a ||| ~~~ b)
  | .shl f => some (f, fun _ a b => if 32 ≤ b.toNat then 0 else a <<< b.toNat)
  | .shrl f => some (f, fun _ a b => a >>> b)
  | .shra f => some (f, fun _ a b => a.sshiftRight b.toNat)
  | .rotl f => some (f, fun _ a b => a.rotateLeft (b.toNat % 32))
  | .rotr f => some (f, fun _ a b => a.rotateRight (b.toNat % 32))
  | .min f => some (f, fun _ a b => if a.sle b then a else b)
  | .max f => some (f, fun _ a b => if b.sle a then a else b)
  | .minu f => some (f, fun _ a b => if a ≤ b then a else b)
  | .maxu f => some (f, fun _ a b => if b ≤ a then a else b)
  | .addsat f => some (f, fun _ a b =>
      let n := a.toInt + b.toInt
      if n < -2 ^ 31 then 0x80000000#32 else if 2 ^ 31 - 1 < n then 0x7FFFFFFF#32 else a + b)
  | .subsat f => some (f, fun _ a b =>
      let n := a.toInt - b.toInt
      if n < -2 ^ 31 then 0x80000000#32 else if 2 ^ 31 - 1 < n then 0x7FFFFFFF#32 else a - b)
  | .abs f => some (f, fun _ a _ => if a.msb then -a else a)
  | .popc f => some (f, fun _ a _ => BitVec.ofNat 32 ((List.range 32).countP a.getLsbD))
  | .clz f => some (f, fun _ a _ => BitVec.ofNat 32 (((List.range 32).map a.getMsbD).findIdx id))
  | .ctz f => some (f, fun _ a _ => BitVec.ofNat 32 (((List.range 32).map a.getLsbD).findIdx id))
  | .brev f => some (f, fun _ a _ => a.reverse)
  | .bfx f => some (f, fun _ a b =>
      let pos := b.toNat % 32
      let w := min (min (b.toNat / 256 % 64) 32) (32 - pos)
      if b.getLsbD 15 then (a.extractLsb' pos w).signExtend 32 else (a.extractLsb' pos w).zeroExtend 32)
  | .bfi f => some (f, fun d a b =>
      let pos := b.toNat % 32
      let w := min (min (b.toNat / 256 % 64) 32) (32 - pos)
      let mask := BitVec.ofNat 32 ((2 ^ w - 1) * 2 ^ pos)
      (d &&& ~~~ mask) ||| ((a <<< pos) &&& mask))
  | .permb f => some (f, fun d a b =>
      let byte (i : Nat) : BitVec 8 :=
        let x := (d ++ a).extractLsb' (8 * (b.toNat / 16 ^ i % 8)) 8
        if b.getLsbD (4 * i + 3) then (if x.msb then 255#8 else 0#8) else x
      byte 3 ++ byte 2 ++ byte 1 ++ byte 0)
  | .dp4a f => some (f, fun d a b =>
      let x (i : Nat) : Int := (a.extractLsb' (8 * i) 8).toInt
      let y (i : Nat) : Int := if f.m = 1 then f.b.toNat else (b.extractLsb' (8 * i) 8).toInt
      BitVec.ofInt 32 (d.toInt + x 0 * y 0 + x 1 * y 1 + x 2 * y 2 + x 3 * y 3))
  | _ => none

/-- d of the pair instructions (R103). -/
def pairResult : Instr → Option (RForm × (BitVec 64 → BitVec 64 → BitVec 64))
  | .add64 f => some (f, fun a b => a + b)
  | .sub64 f => some (f, fun a b => a - b)
  | .lea f => some (f, fun a b =>
      if a.getLsbD 56 then (a.extractLsb' 46 18) ++ (a.extractLsb' 0 46 + b.extractLsb' 0 46)
      else (a.extractLsb' 56 8) ++ (a.extractLsb' 0 56 + b.extractLsb' 0 56))
  | .radd f => some (f, fun a b =>
      let op (x y m : Nat) : Nat := if f.m = 1 then (x % m + (m - y % m)) % m else (x + y) % m
      let x1 := op (a.extractLsb' 0 21).toNat (b.extractLsb' 0 21).toNat (2 ^ 21 - 1)
      let x2 := op (a.extractLsb' 21 21).toNat (b.extractLsb' 21 21).toNat (2 ^ 21)
      let x3 := op (a.extractLsb' 42 22).toNat (b.extractLsb' 42 22).toNat (2 ^ 21 + 1)
      BitVec.ofNat 22 x3 ++ BitVec.ofNat 21 x2 ++ BitVec.ofNat 21 x1)
  | _ => none

/-- d of the I forms, from a (R69, R102): the immediate is sign-extended, and a shift count is its low five bits. -/
def immResult : Instr → Option (IForm × (Word → Word))
  | .addi f => some (f, fun a => a + f.imm.signExtend 32)
  | .muli f => some (f, fun a => a * f.imm.signExtend 32)
  | .andi f => some (f, fun a => a &&& f.imm.signExtend 32)
  | .ori f => some (f, fun a => a ||| f.imm.signExtend 32)
  | .xori f => some (f, fun a => a ^^^ f.imm.signExtend 32)
  | .shli f => some (f, fun a => a <<< (f.imm.toNat % 32))
  | .shrli f => some (f, fun a => a >>> (f.imm.toNat % 32))
  | .shrai f => some (f, fun a => a.sshiftRight (f.imm.toNat % 32))
  | .rotli f => some (f, fun a => a.rotateLeft (f.imm.toNat % 32))
  | .mini f => some (f, fun a => if a.sle (f.imm.signExtend 32) then a else f.imm.signExtend 32)
  | .maxi f => some (f, fun a => if (f.imm.signExtend 32).sle a then a else f.imm.signExtend 32)
  | _ => none

/-- The predicate an instruction of R102, R106, R107 or R123 writes, and its value in a lane from a and b. -/
def predResult (s : State) (r : LaneRef) : Instr → Option (Nat × Bool)
  | .cmpeq f => some (f.d.toNat, s.reg r f.a.toNat == b f)
  | .cmpne f => some (f.d.toNat, s.reg r f.a.toNat != b f)
  | .cmplt f => some (f.d.toNat, (s.reg r f.a.toNat).slt (b f))
  | .cmple f => some (f.d.toNat, (s.reg r f.a.toNat).sle (b f))
  | .cmpltu f => some (f.d.toNat, (s.reg r f.a.toNat).ult (b f))
  | .cmpleu f => some (f.d.toNat, (s.reg r f.a.toNat).ule (b f))
  | .cmpeqi f => some (f.d.toNat, s.reg r f.a.toNat == f.imm.signExtend 32)
  | .cmpnei f => some (f.d.toNat, s.reg r f.a.toNat != f.imm.signExtend 32)
  | .cmplti f => some (f.d.toNat, (s.reg r f.a.toNat).slt (f.imm.signExtend 32))
  | .cmplei f => some (f.d.toNat, (s.reg r f.a.toNat).sle (f.imm.signExtend 32))
  | .cmpltui f => some (f.d.toNat, (s.reg r f.a.toNat).ult (f.imm.zeroExtend 32))
  | .pand f => some (f.d.toNat, (s.lane r).pred f.a.toNat && (s.lane r).pred f.b.toNat)
  | .por f => some (f.d.toNat, (s.lane r).pred f.a.toNat || (s.lane r).pred f.b.toNat)
  | .pxor f => some (f.d.toNat, xor ((s.lane r).pred f.a.toNat) ((s.lane r).pred f.b.toNat))
  | .pnot f => some (f.d.toNat, !(s.lane r).pred f.a.toNat)
  | .fcmpeq f => some (f.d.toNat, fEq (s.reg r f.a.toNat) (b f))
  | .fcmpne f => some (f.d.toNat, !fEq (s.reg r f.a.toNat) (b f))
  | .fcmplt f => some (f.d.toNat, fLt (s.reg r f.a.toNat) (b f))
  | .fcmple f => some (f.d.toNat, fLt (s.reg r f.a.toNat) (b f) || fEq (s.reg r f.a.toNat) (b f))
  | .fcmpun f => some (f.d.toNat, fUn (s.reg r f.a.toNat) (b f))
  | _ => none
where
  /-- b is a v-register, or under S = 1 an s-register (R67). -/
  b (f : RForm) : Word := if f.m = 2 then s.reg r (128 + f.b.toNat) else s.reg r f.b.toNat

/-- d and the flags of the floating instructions, from the old d, a and b (R117 to R121, R124). -/
def floatResult : Instr → Option (RForm × (Word → Word → Word → Word × FpFlags))
  | .fadd f => some (f, fun _ a b => faddW a b)
  | .fsub f => some (f, fun _ a b => fsubW a b)
  | .fmul f => some (f, fun _ a b => fmulW a b)
  | .fmac f => some (f, fun d a b => fmacW d a b)
  | .fmin f => some (f, fun _ a b => fminW a b)
  | .fmax f => some (f, fun _ a b => fmaxW a b)
  | .fabs f => some (f, fun _ a _ => fabsW a)
  | .fneg f => some (f, fun _ a _ => fnegW a)
  | .frcp f => some (f, fun _ a _ => frcpW a)
  | .frsq f => some (f, fun _ a _ => frsqW a)
  | .fsqrt f => some (f, fun _ a _ => fsqrtW a)
  | .fdiv f => some (f, fun _ a b => fdivW a b)
  | .fexp2 f => some (f, fun _ a _ => fexp2W a)
  | .flog2 f => some (f, fun _ a _ => flog2W a)
  | .fsin f => some (f, fun _ a _ => fsinW a)
  | .fcos f => some (f, fun _ a _ => fcosW a)
  | .ftanh f => some (f, fun _ a _ => ftanhW a)
  | .ffloor f => some (f, fun _ a _ => fintW 3 a)
  | .fceil f => some (f, fun _ a _ => fintW 2 a)
  | .frint f => some (f, fun _ a _ => fintW 0 a)
  | .ftrunc f => some (f, fun _ a _ => fintW 1 a)
  | .fscale f => some (f, fun _ a b => fscaleW a b)
  | .fgetexp f => some (f, fun _ a _ => fgetexpW a)
  | .fclass f => some (f, fun _ a _ => (classMask a, FpFlags.none))
  | .hadd2 f => some (f, packed (fun _ a b => fpAdd (if f.m = 1 then 2 else 1) a b))
  | .hmul2 f => some (f, packed (fun _ a b => fpMul (if f.m = 1 then 2 else 1) a b))
  | .hmac2 f => some (f, packed (fun d a b => fpFma (if f.m = 1 then 2 else 1) a b d))
  | _ => none

/-- vd of the compact forms and the flags, from the old vd and vb (R65, R113). -/
def compactResult : Instr → Option (CForm × (Word → Word → Word × FpFlags))
  | .cMov f => some (f, fun _ b => (b, FpFlags.none))
  | .cMovImm f => some (f, fun _ _ => (f.b.signExtend 32, FpFlags.none))
  | .cAdd f => some (f, fun a b => (a + b, FpFlags.none))
  | .cAddImm f => some (f, fun a _ => (a + f.b.signExtend 32, FpFlags.none))
  | .cSub f => some (f, fun a b => (a - b, FpFlags.none))
  | .cSubImm f => some (f, fun a _ => (a - f.b.signExtend 32, FpFlags.none))
  | .cMul f => some (f, fun a b => (a * b, FpFlags.none))
  | .cMulImm f => some (f, fun a _ => (a * f.b.signExtend 32, FpFlags.none))
  | .cAnd f => some (f, fun a b => (a &&& b, FpFlags.none))
  | .cAndImm f => some (f, fun a _ => (a &&& f.b.signExtend 32, FpFlags.none))
  | .cOr f => some (f, fun a b => (a ||| b, FpFlags.none))
  | .cOrImm f => some (f, fun a _ => (a ||| f.b.signExtend 32, FpFlags.none))
  | .cXor f => some (f, fun a b => (a ^^^ b, FpFlags.none))
  | .cXorImm f => some (f, fun a _ => (a ^^^ f.b.signExtend 32, FpFlags.none))
  | .cShl f => some (f, fun a b => (if 32 ≤ b.toNat then 0 else a <<< b.toNat, FpFlags.none))
  | .cShlImm f => some (f, fun a _ => (a <<< f.b.toNat, FpFlags.none))
  | .cShrl f => some (f, fun a b => (a >>> b, FpFlags.none))
  | .cShrlImm f => some (f, fun a _ => (a >>> f.b.toNat, FpFlags.none))
  | .cShra f => some (f, fun a b => (a.sshiftRight b.toNat, FpFlags.none))
  | .cShraImm f => some (f, fun a _ => (a.sshiftRight f.b.toNat, FpFlags.none))
  | .cFadd f => some (f, faddW)
  | .cFsub f => some (f, fsubW)
  | .cFmul f => some (f, fmulW)
  | .cFmax f => some (f, fmaxW)
  | .cFmin f => some (f, fminW)
  | _ => none

/-- The cross-lane instructions and their operands (R159). -/
def crossForm : Instr → Option RForm
  | .shfli f | .shflu f | .shfld f | .shflx f | .voteall f | .voteany f | .ballot f | .lred f | .lscan f | .qxh f | .qxv f
  | .qxd f | .qbc f | .elect f => some f
  | _ => none

/-- The lanes of the subset that take part with a lane: those in handler where it is, those not where it is not (R159, R302). -/
def State.partners (s : State) (r : LaneRef) : List LaneRef := s.present.filter (fun q => (s.lane q).inHandler == (s.lane r).inHandler)

/-- d of a cross-lane instruction in a lane (R160 to R163). -/
def crossResult (i : Instr) (f : RForm) (s : State) (r : LaneRef) : Word :=
  let b : Nat := if f.m = 1 then f.b.toNat else if f.m = 2 then (s.reg r (128 + f.b.toNat)).toNat else (s.reg r f.b.toNat).toNat
  -- a of a lane of the same group that takes part; the reader's own where it does not
  let fromLane (k : Nat) : Word := if ⟨r.team, r.g, k⟩ ∈ s.partners r then s.reg ⟨r.team, r.g, k⟩ f.a.toNat else s.reg r f.a.toNat
  let quad (k : Nat) : Word := s.reg ⟨r.team, r.g, k⟩ f.a.toNat
  let givers : List LaneRef := (s.partners r).filter (fun q => !s.isHelper q)
  let fold (qs : List LaneRef) : Word :=
    BitVec.ofNat 32 (qs.foldl (fun v q => (atomicOp (f.b.toNat % 16) 32 v (s.reg q f.a.toNat).toNat).1) (atomicIdentity (f.b.toNat % 16) 32))
  match i with
  | .shfli _ => fromLane (b % 32)
  | .shflu _ => if b ≤ r.l then fromLane (r.l - b) else s.reg r f.a.toNat
  | .shfld _ => if r.l + b ≤ 31 then fromLane (r.l + b) else s.reg r f.a.toNat
  | .shflx _ => fromLane (r.l ^^^ (b % 32))
  | .voteall _ => if ∀ q ∈ givers, s.reg q f.a.toNat ≠ 0 then 1 else 0
  | .voteany _ => if ∃ q ∈ givers, s.reg q f.a.toNat ≠ 0 then 1 else 0
  | .ballot _ => BitVec.ofNat 32 ((givers.filter (fun q => s.reg q f.a.toNat != 0)).map (fun q => 2 ^ q.l)).sum
  | .elect _ => if givers.head? = some r then 1 else 0
  | .lred _ => fold givers
  | .lscan _ => fold (givers.filter (fun q => if f.b.getLsbD 6 then decide (q.l < r.l) else decide (q.l ≤ r.l)))
  | .qxh _ => quad (r.l ^^^ 1)
  | .qxv _ => quad (r.l ^^^ 2)
  | .qxd _ => quad (r.l ^^^ 3)
  | .qbc _ => quad (r.l / 4 * 4 + b % 4)
  | _ => 0

/-- The flags a cross-lane instruction raises: INV of a combination over the givers of some lane's partners (R159, R162). -/
def crossFlags (i : Instr) (f : RForm) (s : State) : FpFlags :=
  match i with
  | .lred _ | .lscan _ => FpFlags.ofInv (s.present.any (fun r =>
      (((s.partners r).filter (fun q => !s.isHelper q)).foldl (fun (v : Nat × Bool) q =>
        let w := atomicOp (f.b.toNat % 16) 32 v.1 (s.reg q f.a.toNat).toNat
        (w.1, v.2 || w.2)) (atomicIdentity (f.b.toNat % 16) 32, false)).2))
  | _ => FpFlags.none

end Sys2Proof.Machine
end

