-- ==== Sys2Proof/Certificates/Slice0/Obligations.lean ====
section
/-! DEFINITION. The statements for the provers, from the numbered rules of spec/. -/

open Sys2Proof Sys2Proof.Machine

/-! ### Decoding, and the step -/

/-- The words the spec's worked encodings give decode to the instructions they stand for (R65 to R83, R112, R125). -/
def Obligations.SpecWordsDecode : Prop :=
  decodeBits 2 0x06241031 = .ok (.mulhi ⟨9, 2, 3, 0⟩)
    ∧ decodeBits 2 0x0010205D = .ok (.add ⟨4, 4, 5, 3⟩)
    ∧ decodeBits 2 0x40041035 = .ok (.sel ⟨1, 2, 3, 1⟩)
    ∧ decodeBits 2 0x7E04A4B1 = .ok (.cmpltui ⟨1, 20, 0x12C⟩)
    ∧ decodeBits 1 0x938E = .ok (.cShraImm ⟨7, 3⟩)
    ∧ decodeBits 1 0x21C2 = .ok (.cSubImm ⟨3, 16⟩)
    ∧ decodeBits 2 0x5E301001 = .ok (.swr ⟨12, 2, 0, 0⟩)
    ∧ decodeBits 2 0xFE001045 = .ok (.radd ⟨0, 2, 4, 1⟩)

/-- The decoder reads every well-formed encoded instruction back from its word, in the length the word's low bits give (R63). -/
def Obligations.DecodeEncodeRoundTrip : Prop :=
  ∀ i n w, Instr.wf i = true → encode i = some (n, w) →
    w < 2 ^ (16 * n) ∧ lengthOf w = n ∧ decodeBits n w = .ok i

/-- Every word the decoder accepts is the word its instruction encodes to: no bit of an accepted word is ignored (R84). -/
def Obligations.DecodedWordsEncodeBack : Prop :=
  ∀ n w i, w < 2 ^ (16 * n) → lengthOf w = n → decodeBits n w = .ok i → Instr.wf i = true ∧ encode i = some (n, w)

/-- Where a group or a formation has the turn and its partition issues its subset next, or no turn is named, no event of the device is due and
the default policy picks that subset, the step is the meaning of the instruction that the offered bytes decode to, on the state in which the
issue is recorded; after it, lanes that it has made ready begin to age. The bytes are those at the PC of each lane of the subset, recording the
issue changes no register and no memory, and the aging changes nothing but ages (R63, R137, R167; a list of turns and the default policy are
the model's own, log entry 7). -/
def Obligations.StepRunsDecoded : Prop :=
  let issues (s : State) (u : Turn) (t : Nat) (n : Option Nat) (o : Offer) : Prop :=
    ∀ i, decodeBits o.len o.insn = .ok i → o.lanes.Nodup →
      let b := s.beginIssue t o n
      s.issueOffer u o = exec i b
        ∧ b.cur = { team := t, lanes := o.lanes, formation := n.isSome, pc := o.pc, len := o.len, insn := o.insn, num := s.nextKey }
        ∧ s.fetch t o.pc.toNat = .insn o.len o.insn ∧ (∀ r ∈ o.lanes, (s.lane r).pc = o.pc ∧ s.runs r = true)
        ∧ SameMemory s b ∧ SameGroupRegs s b
        ∧ ∀ q, (Tab.find s.teams q.team).isSome →
          b.lane q = if q ∈ o.lanes then { s.lane q with issues := (s.lane q).issues + 1, released := none, last := (o.len, o.insn) }
            else s.lane q
  (∀ s u ts c p o, s.boot ≠ .failed → s.turns = u :: ts →
      let s' : State := { s with turns := ts }
      s'.turnPlace u = some (c, p) → s'.choice c p = some (u, o) → step s = afterTurn s' (s'.issueOffer u o))
  ∧ (∀ s u o, s.boot ≠ .failed → s.turns = [] → s.ownMove = none → s.pick = some (u, o) → step s = afterTurn s (s.issueOffer u o))
  ∧ (∀ s c p o t g, s.choice c p = some (.issue t g, o) → issues s (.issue t g) t none o)
  ∧ (∀ s c p o n b, s.choice c p = some (.formation n, o) → Tab.find s.bins n = some b → issues s (.formation n) b.team (some n) o)
  ∧ ∀ s t, afterTurn s (.next t) = .next (t.renewAges s) ∧ SameButGroups t (t.renewAges s) ∧ SameGroupRegs t (t.renewAges s)
      ∧ ∀ q, (t.renewAges s).lane q = { t.lane q with since := ((t.renewAges s).lane q).since }

/-- Where the bytes of a group's subset that issues next decode to nothing, each of its lanes whose raw guard holds is parked with
ILLEGAL_INSTRUCTION (code 1) at the instruction, and each other one goes on (R84; which bits are the guard of such a word is read by inference,
log entry 19); a step with a turn that its partition does not issue next changes nothing but the list of turns (the list of turns is the
model's own, log entries 2 and 15); after a failed bring-up nothing moves but a host's read, a rail that leaves tolerance and the removal of
power (R423). -/
def Obligations.StepStops : Prop :=
  (∀ s t g ts c p o e, s.boot ≠ .failed → s.turns = .issue t g :: ts →
      let s' : State := { s with turns := ts }
      s'.turnPlace (.issue t g) = some (c, p) → s'.choice c p = some (.issue t g, o) → decodeBits o.len o.insn = .error e →
      o.lanes.Nodup → (∀ r ∈ o.lanes, r.team = t ∧ (Tab.find s.teams t).isSome ∧ s.guardLost (rawGuard o.len o.insn).1 r = false) →
      ∃ u, step s = .next u ∧ ∀ r ∈ o.lanes,
        (s.guard (rawGuard o.len o.insn).1 (rawGuard o.len o.insn).2 r = true → (s.lane r).inHandler = false →
          (u.lane r).parked = true ∧ (u.lane r).faultCode = 1 ∧ (u.lane r).pc = o.pc
            ∧ (u.lane r).staged = some ({ code := 1, detail := 0, len := o.len, addr := 0, insn := o.insn, fpc := o.pc.toNat }, false))
        ∧ (s.guard (rawGuard o.len o.insn).1 (rawGuard o.len o.insn).2 r = false →
          (u.lane r).parked = (s.lane r).parked ∧ (u.lane r).staged = none ∧ (u.lane r).pc = o.pc + BitVec.ofNat 64 (2 * o.len)))
  ∧ (∀ s u ts c p, s.boot ≠ .failed → s.turns = u :: ts →
      let s' : State := { s with turns := ts }
      s'.turnPlace u = some (c, p) → (∀ o, s'.choice c p ≠ some (u, o)) → step s = afterTurn s' (.next s'))
  ∧ ∀ s, s.boot = .failed →
      (s.turns = [] → step s = .next s)
        ∧ ∀ u us, s.turns = u :: us →
          let s' : State := { s with turns := us }
          let reaches : Prop := (∃ off len, u = .hostRead off len) ∨ u = .powerOff ∨ ∃ d v x, u = .event (.railOutOfTolerance d v x)
          (reaches → step s = afterTurn s' (s'.take u)) ∧ (¬ reaches → step s = .next s')

/-! ### Invariants -/

/-- The state after reset keeps physical memory, and every region of local memory, in the canonical form. -/
def Obligations.ResetKeepsMemory : Prop :=
  Memory.wf State.reset.mem = true ∧ State.reset.regionsKept

/-- Every step keeps physical memory in its canonical form. -/
def Obligations.StepKeepsMemory : Prop :=
  ∀ s t, Memory.wf s.mem = true → step s = .next t → Memory.wf t.mem = true

/-- Every step keeps every region of local memory, resident or saved, in its canonical form. -/
def Obligations.StepKeepsRegions : Prop :=
  ∀ s t, s.regionsKept → step s = .next t → t.regionsKept

/-! ### Lanes, guards and registers -/

/-- Replacing lanes, in which the statements below say what an instruction does, gives each replaced lane its new content and leaves every
other lane, every s-register, join register and other field of every group, every other field of every team, and everything else. A
register written reads back, every other register of the lane and every register of other lanes reads as before, and register 255 discards
(R13, R14, R73). -/
def Obligations.LanesAndRegisters : Prop :=
  (∀ (s : State) (rs : List LaneRef) (h : LaneRef → Lane), rs.Nodup →
      SameButGroups s (s.withLanes rs h)
        ∧ (∀ q, (s.withLanes rs h).group q = { s.group q with lanes := ((s.withLanes rs h).group q).lanes })
        ∧ (∀ r ∈ rs, (Tab.find s.teams r.team).isSome → (s.withLanes rs h).lane r = h r)
        ∧ ∀ q, q ∉ rs → (s.withLanes rs h).lane q = s.lane q)
  ∧ (∀ (s : State) (r : LaneRef) (n : Nat) (w : Word), (Tab.find s.teams r.team).isSome →
      (n < 192 → (s.setReg r n w).reg r n = w)
        ∧ (192 ≤ n → s.setReg r n w = s)
        ∧ (∀ m, m ≠ n → (s.setReg r n w).reg r m = s.reg r m)
        ∧ (∀ q m, n < 128 → q ≠ r → (s.setReg r n w).reg q m = s.reg q m)
        ∧ ∀ k b, (s.setPreds r [(k, b)]).lane r = (s.lane r).putPred k b ∧ ((s.lane r).putPred 0 b).pred 0 = true
          ∧ (0 < k → k < 8 → ((s.lane r).putPred k b).pred k = b) ∧ ∀ m, m < 8 → m ≠ k → ((s.lane r).putPred k b).pred m = (s.lane r).pred m)

/-- An instruction of the B, J or X form whose guard holds in no present lane moves every present lane past it and does nothing else; the
guard (!p0) holds in no lane (R74). -/
def Obligations.FalseGuardsPass : Prop :=
  ∀ i p neg s, guardOf i = some (p, neg) → Undisturbed i p neg s →
    (s.active p neg = [] → exec i s = .next (s.withLanes s.present (fun r => (s.lane r).passed s)))
      ∧ (p = 0 → neg = true → s.active p neg = [])

/-- A fault of a lane, whichever instruction signals it: outside a handler the lane parks, in its home group, with the fault staged for its
handler, and where the launch names no handler the context stops; in handler the lane does not enter again, and the context stops with DOUBLE.
Every stopping event is counted, and the one recorded is the first, or the one of the first lane in lane order among those of its cycle. Memory
and every other lane are as they were (R299, R303, R304, R307, R308). -/
def Obligations.FaultsTaken : Prop :=
  ∀ s r code addr detail, (Tab.find s.teams r.team).isSome →
    let i := s.faultHere code detail addr
    let t := s.raise r code addr detail
    let g := s.gridOf r.team
    let x := s.team r.team
    let mine (flags n : Nat) : StopInfo :=
      { cause := detail * 2 ^ 16 + flags + code, place := x.die * 256 + x.core, teamid := x.teamid, pc := s.cur.pc.toNat, addr := addr,
        time := s.now / 100, where_ := r.g * 256 + r.l, count := n, cycle := s.cycle, written := false }
    let stopped (flags : Nat) : Prop :=
      (g.stop = none → t.gridOf r.team = { g with stop := some (mine flags 1) })
        ∧ ∀ st, g.stop = some st → t.gridOf r.team = { g with stop := some (
            if st.cycle = s.cycle ∧ st.written = false ∧ (x.teamid * 32 + r.g) * 32 + r.l < (st.teamid * 32 + st.where_ / 256) * 32 + st.where_ % 256
            then mine flags (st.count + 1) else { st with count := st.count + 1 }) }
    SameMemory s t ∧ SameGroupRegs s t ∧ (∀ q, q ≠ r → t.lane q = s.lane q)
      ∧ ((s.lane r).inHandler = false →
          t.lane r = { s.lane r with parked := true, faultCode := code, staged := some (i, false), cond := .running, away := none,
                                     back := none }
          ∧ (g.handler ≠ 0 → t.grids = s.grids) ∧ (g.handler = 0 → stopped 0))
      ∧ ((s.lane r).inHandler = true → t.lane r = { s.lane r with away := none, cond := .running, since := s.cycle + 1 } ∧ stopped 256)

/-! ### Integer, predicate and compact instructions -/

/-- The integer instructions of three registers write d in every present lane, raise no flag, move the lanes past, and change nothing else
(R93, R97 to R101, R111). Their uniform form computes once and writes the s-register of the last present lane's group; with no present
lane it does nothing (R68, R95). -/
def Obligations.IntegerForms : Prop :=
  (∀ i f op s, intResult i = some (f, op) → f.m ≠ 3 → Undisturbed i 0 false s →
      exec i s = .next (s.withLanes s.present (fun r =>
        ((s.lane r).put f.d.toNat (op (s.reg r f.d.toNat) (s.reg r f.a.toNat)
          (if f.m = 2 then s.reg r (128 + f.b.toNat) else s.reg r f.b.toNat))).passed s)))
  ∧ (∀ i f op s, intResult i = some (f, op) → f.m = 3 → Undisturbed i 0 false s →
      (s.present = [] → exec i s = .next s)
        ∧ ∀ r, s.present.getLast? = some r →
          exec i s = .next ((s.setReg r (128 + f.d.toNat) (op (s.reg r (128 + f.d.toNat)) (s.reg r (128 + f.a.toNat))
            (s.reg r (128 + f.b.toNat)))).withLanes s.present (fun q => (s.lane q).passed s)))

/-- LEA, ADD64, SUB64 and RADD write a pair, in every present lane or, uniform, in the last one's group (R103, R112). The immediate forms
write d in every present lane and change nothing else (R69, R102). MOVI writes its immediate into d, a sign- or zero-extended pair, or the
odd register of a pair, in every active lane; 255 discards; an s-destination holds it in the group of every active lane; every present
lane goes on (R73, R76, R126). -/
def Obligations.PairAndImmediateForms : Prop :=
  (∀ i f op s, pairResult i = some (f, op) → Undisturbed i 0 false s →
      (f.m ≠ 3 → exec i s = .next (s.withLanes s.present (fun r =>
        let v := op (s.reg r (f.a.toNat + 1) ++ s.reg r f.a.toNat)
          (if f.m = 2 then s.reg r (128 + f.b.toNat + 1) ++ s.reg r (128 + f.b.toNat) else s.reg r (f.b.toNat + 1) ++ s.reg r f.b.toNat)
        (((s.lane r).put f.d.toNat (v.extractLsb' 0 32)).put (f.d.toNat + 1) (v.extractLsb' 32 32)).passed s)))
        ∧ (f.m = 3 → ∀ r, s.present.getLast? = some r →
          let v := op (s.reg r (128 + f.a.toNat + 1) ++ s.reg r (128 + f.a.toNat)) (s.reg r (128 + f.b.toNat + 1) ++ s.reg r (128 + f.b.toNat))
          exec i s = .next (((s.setReg r (128 + f.d.toNat) (v.extractLsb' 0 32)).setReg r (128 + f.d.toNat + 1)
            (v.extractLsb' 32 32)).withLanes s.present (fun q => (s.lane q).passed s))))
  ∧ (∀ i f op s, immResult i = some (f, op) → Undisturbed i 0 false s →
      exec i s = .next (s.withLanes s.present (fun r => ((s.lane r).put f.d.toNat (op (s.reg r f.a.toNat))).passed s)))
  ∧ (∀ (x : XIForm) s, Undisturbed (.movi x) x.p x.pn s →
      let d := x.d.toNat
      let hi : Word := if x.md = 1 ∧ x.imm.msb = true then 0xFFFFFFFF#32 else 0#32
      let put (y : Lane) : Lane :=
        if x.md = 0 then y.put d x.imm else if x.md = 3 then y.put (d + 1) x.imm else (y.put d x.imm).put (d + 1) hi
      (d < 128 → exec (.movi x) s = .next (s.withLanes s.present (fun r =>
        if s.guard x.p x.pn r then (put (s.lane r)).passed s else (s.lane r).passed s)))
      ∧ (192 ≤ d → exec (.movi x) s = .next (s.withLanes s.present (fun r => (s.lane r).passed s)))
      ∧ (128 ≤ d → d < 192 → ∃ t, exec (.movi x) s = .next t ∧ SameMemory s t
          ∧ (∀ q, (Tab.find s.teams q.team).isSome → t.lane q = if q ∈ s.present then (s.lane q).passed s else s.lane q)
          ∧ ∀ r ∈ s.active x.p x.pn, (Tab.find s.teams r.team).isSome →
            t.reg r (if x.md = 3 then d + 1 else d) = x.imm
              ∧ (x.md = 1 ∨ x.md = 2 → t.reg r (d + 1) = hi)
              ∧ ∀ n, 128 ≤ n → n < 192 → n ≠ d → n ≠ d + 1 → t.reg r n = s.reg r n))

/-- The compares, of integers, of immediates and of FP32 values, and predicate logic write one predicate in every present lane, a write to p0
being discarded, raise no flag and change nothing else (R102, R106, R107, R123). SEL writes b where the predicate holds, P2V packs the
predicates with bit 0 set, V2P sets p1 to p7, and MOV copies b into a v-register, in every present lane (R104, R105, R108). -/
def Obligations.PredicatesAndMoves : Prop :=
  (∀ i s, (∀ r, (predResult s r i).isSome) → Undisturbed i 0 false s →
      exec i s = .next (s.withLanes s.present (fun r =>
        match predResult s r i with
        | some (k, b) => ((s.lane r).putPred k b).passed s
        | none => s.lane r)))
  ∧ (∀ (f : RForm) s,
      (Undisturbed (.sel f) 0 false s → exec (.sel f) s = .next (s.withLanes s.present (fun r =>
        (if (s.lane r).pred f.a.toNat = (f.m != 1) then
          (s.lane r).put f.d.toNat (if f.m = 2 then s.reg r (128 + f.b.toNat) else s.reg r f.b.toNat) else s.lane r).passed s)))
      ∧ (Undisturbed (.mov f) 0 false s → f.m = 0 ∨ f.m = 2 → exec (.mov f) s = .next (s.withLanes s.present (fun r =>
          ((s.lane r).put f.d.toNat (if f.m = 2 then s.reg r (128 + f.b.toNat) else s.reg r f.b.toNat)).passed s)))
      ∧ (Undisturbed (.mov f) 0 false s → f.m = 1 ∨ f.m = 3 → ∀ r, s.present.getLast? = some r → exec (.mov f) s = .next
          ((s.setReg r (128 + f.d.toNat) (if f.m = 3 then s.reg r (128 + f.b.toNat) else s.reg r f.b.toNat)).withLanes s.present
            (fun q => (s.lane q).passed s)))
      ∧ (Undisturbed (.p2v f) 0 false s → exec (.p2v f) s = .next (s.withLanes s.present (fun r =>
          ((s.lane r).put f.d.toNat (BitVec.ofNat 32 (((List.range 8).map (fun k => if (s.lane r).pred k then 2 ^ k else 0)).sum))).passed s)))
      ∧ (Undisturbed (.v2p f) 0 false s → ∃ t, exec (.v2p f) s = .next t ∧ SameButGroups s t
          ∧ (∀ q, q ∉ s.present → t.lane q = s.lane q)
          ∧ ∀ r ∈ s.present, (Tab.find s.teams r.team).isSome →
            t.lane r = { (s.lane r).passed s with p := (t.lane r).p, badParity := (t.lane r).badParity }
              ∧ ∀ k, 0 < k → k < 8 → (t.lane r).pred k = (s.reg r f.a.toNat).getLsbD k))

/-- The compact forms write vd in every present lane, and the floating ones set their flags; they change nothing else (R65, R113). -/
def Obligations.CompactForms : Prop :=
  ∀ i f op s, compactResult i = some (f, op) → Undisturbed i 0 false s →
    exec i s = .next ((s.withLanes s.present (fun r =>
        ((s.lane r).put f.d.toNat (op (s.reg r f.d.toNat) (s.reg r f.b.toNat)).1).passed s)).withFlags s.present
      (fun r => (op (s.reg r f.d.toNat) (s.reg r f.b.toNat)).2))

/-! ### Floating point and conversion -/

/-- The floating instructions write d in every present lane, or once for the uniform form, set the flags they raise in %terr, and change
nothing else (R115, R117 to R121, R124). -/
def Obligations.FloatForms : Prop :=
  ∀ i f op s, floatResult i = some (f, op) → Undisturbed i 0 false s →
    (f.m ≠ 3 →
      let v (r : LaneRef) := op (s.reg r f.d.toNat) (s.reg r f.a.toNat) (if f.m = 2 then s.reg r (128 + f.b.toNat) else s.reg r f.b.toNat)
      exec i s = .next ((s.withLanes s.present (fun r => ((s.lane r).put f.d.toNat (v r).1).passed s)).withFlags s.present (fun r => (v r).2)))
      ∧ (f.m = 3 → ∀ r, s.present.getLast? = some r →
        let v := op (s.reg r (128 + f.d.toNat)) (s.reg r (128 + f.a.toNat)) (s.reg r (128 + f.b.toNat))
        exec i s = .next (((s.setReg r (128 + f.d.toNat) v.1).setFlags r.team v.2).withLanes s.present (fun q => (s.lane q).passed s)))

/-- FP32 comparison and FCLASS read from the bits of the codes: a NaN is unordered, zeros are equal, and the rest is ordered by sign and
magnitude (R120, R123). FADD, FSUB, FMUL, FDIV and FMAC of finite operands deliver the exact result rounded once: the nearest code, the even
one of two, with UNF where it is below the normal range, or the infinity of its sign from halfway beyond the greatest finite value on; an exact
zero has the sign of R39; and a NaN operand gives the default NaN without a flag (R35, R37 to R39, R117, R118). A conversion from FP32 under
RNE into FP32, FP16 or BF16 is the same rounding of the source's value, in the target's format (R35, R56, R128). -/
def Obligations.FloatOrderByBits : Prop :=
  let nan (a : Word) : Bool := decide (0x7F800000 < (a &&& 0x7FFFFFFF#32).toNat)
  let key (a : Word) : Int := if a.msb then -((a &&& 0x7FFFFFFF#32).toNat : Int) else (a &&& 0x7FFFFFFF#32).toNat
  (∀ a b : Word,
    fUn a b = (nan a || nan b)
      ∧ fLt a b = (!nan a && !nan b && decide (key a < key b))
      ∧ fEq a b = (!nan a && !nan b && decide (key a = key b))
      ∧ classMask a = (if nan a then 256 else
          let m := (a &&& 0x7FFFFFFF#32).toNat
          if m = 0x7F800000 then (if a.msb then 1 else 128)
          else if m = 0 then (if a.msb then 8 else 16)
          else if m < 0x800000 then (if a.msb then 4 else 32)
          else if a.msb then 2 else 64))
  ∧ (∀ a b d : Word,
      let val (x : Word) : ℚ := codeValue 23 8 x.toNat
      let fin (x : Word) : Prop := codeFinite 23 8 x.toNat
      let quiet : Word × FpFlags := (0x7FC00000#32, ⟨false, false, false⟩)
      let zero (neg : Bool) : Word × FpFlags := (if neg then 0x80000000#32 else 0#32, ⟨false, false, false⟩)
      let delivers (x : Word × FpFlags) (y : ℚ) : Prop :=
        (y ≠ 0 → |y| < overflowAt 23 8 →
          RoundedOnce 23 8 y x.1.toNat ∧ x.2 = ⟨false, false, decide (|val x.1| < (2 : ℚ) ^ (-126 : ℤ))⟩)
        ∧ (overflowAt 23 8 ≤ |y| → x = (if y < 0 then 0xFF800000#32 else 0x7F800000#32, ⟨false, false, false⟩))
      (fin a → fin b →
        delivers (faddW a b) (val a + val b) ∧ delivers (fsubW a b) (val a - val b) ∧ delivers (fmulW a b) (val a * val b)
          ∧ (val b ≠ 0 → delivers (fdivW a b) (val a / val b) ∧ (val a = 0 → fdivW a b = zero (a.msb != b.msb)))
          ∧ (val a + val b = 0 → faddW a b = zero (decide (a = 0x80000000#32 ∧ b = 0x80000000#32)))
          ∧ (val a - val b = 0 → fsubW a b = zero (decide (a = 0x80000000#32 ∧ b = 0#32)))
          ∧ (val a * val b = 0 → fmulW a b = zero (a.msb != b.msb)))
      ∧ (fin a → fin b → fin d → delivers (fmacW d a b) (val a * val b + val d)
          ∧ (val a * val b + val d = 0 →
              fmacW d a b = zero (decide (val a * val b = 0 ∧ a.msb ≠ b.msb ∧ d = 0x80000000#32))))
      ∧ (nan a = true ∨ nan b = true → faddW a b = quiet ∧ fsubW a b = quiet ∧ fmulW a b = quiet ∧ fdivW a b = quiet)
      ∧ (nan a = true ∨ nan b = true ∨ nan d = true → fmacW d a b = quiet))
  ∧ ∀ (tgt src : Word) (e phase c t k : Nat), slotFmt src = 0 → slotFtz src = false → slotFtz tgt = false → slotRnd tgt = 0 →
      (slotFmt tgt, t, k) ∈ [(0, 23, 8), (1, 10, 5), (2, 7, 8)] → codeFinite 23 8 c → codeValue 23 8 c ≠ 0 →
      |codeValue 23 8 c| < overflowAt t k →
      let r := convertCode tgt src e phase c
      RoundedOnce t k (codeValue 23 8 c) r.code ∧ r.trap = false
        ∧ r.flags = ⟨false, false, decide (|codeValue t k r.code| < (2 : ℚ) ^ (2 - 2 ^ (k - 1) : ℤ))⟩

/-- CVT, CVTPK and FMA convert in every active lane under the target slot and the team's dither phase, which they leave: a lane goes on with
its code in flight and its flags set, or, where an element traps and the lane is no helper, parks with CONVERT_OVERFLOW, its destination
unwritten; an element that does not trap sets its flags all the same (R22, R57, R61, R125, R128, R129). CVTQ gives every active lane its element
under the scale chosen over the block, the scale going to each lane's v-register or, once, to an s-register; the lanes that do not trap complete
together, with the phase's advance under RS; where every active lane traps the scale is written and the phase advances all the same (R45,
R58, R61, R130; lanes in handler and the others are one block, log entry 60). DPH gives every active lane the phase, and sets it from the last
that is no helper (R25, R131). Under RS, or to set the phase, deterministic mode with more than one group faults with DET_VIOLATION in every
active lane, with no effect (R133, R134). -/
def Obligations.Conversions : Prop :=
  ∀ (x : XForm) s, (∀ r ∈ s.present, r.team = s.cur.team ∧ (Tab.find s.teams r.team).isSome = true) →
    let g := s.gridOf s.cur.team
    let tgt := g.slot x.fs.toNat
    let src := g.slot (x.c.toNat % 8)
    let ph := (s.team s.cur.team).dphase.toNat
    let rs := s.active x.p x.pn
    let traps (es : LaneRef → List Conv) (r : LaneRef) : Bool := !s.isHelper r && (es r).any (·.trap)
    let raised (es : LaneRef → List Conv) (r : LaneRef) : FpFlags :=
      ((es r).filter (fun e => !e.trap || s.isHelper r)).foldl (fun f e => f.or e.flags) FpFlags.none
    let code (b : Bool) : Option Nat := if b then some 0x17 else none
    let performs (i : Instr) (es : LaneRef → List Conv) (ws : LaneRef → List (Nat × Word)) : Prop :=
      Undisturbed i x.p x.pn s → (∀ r ∈ rs, traps es r = true → (s.lane r).inHandler = false) →
        ∃ t, exec i s = .next t ∧ EachLane s t x rs (fun r => code (traps es r)) ∧ SameMemory s t ∧ SameGroupRegs s t
          ∧ (∀ r ∈ rs, traps es r = false → InFlight s t r x (ws r) [])
          ∧ ∀ k, (t.team k).terr = ((s.withFlags rs (raised es)).team k).terr ∧ (t.team k).dphase = (s.team k).dphase
    let violates (i : Instr) : Prop :=
      Undisturbed i x.p x.pn s → g.det = true → g.ngroups ≠ 1 → (∀ r ∈ rs, (s.lane r).inHandler = false) →
        ∃ t, exec i s = .next t ∧ EachLane s t x rs (fun _ => some 0x19) ∧ SameMemory s t ∧ SameGroupRegs s t ∧ t.ops = s.ops
          ∧ ∀ k, (t.team k).terr = (s.team k).terr ∧ (t.team k).dphase = (s.team k).dphase
    performs (.cvt x) (fun r => [convertCode tgt src r.l ph (s.regRun r x.a.toNat (fmtRegs (slotFmt src)))])
        (fun r => runWrites x.d.toNat (convertCode tgt src r.l ph (s.regRun r x.a.toNat (fmtRegs (slotFmt src)))).code (fmtRegs (slotFmt tgt)))
    ∧ performs (.cvtpk x) (fun r => [convertCode tgt src r.l ph (s.reg r x.a.toNat).toNat, convertCode tgt src r.l ph (s.reg r x.b.toNat).toNat])
        (fun r => runWrites x.d.toNat (packTop (fmtWidth (slotFmt tgt)) (s.reg r x.d.toNat).toNat
          (convertCode tgt src r.l ph (s.reg r x.a.toNat).toNat).code (convertCode tgt src r.l ph (s.reg r x.b.toNat).toNat).code) 1)
    ∧ (let val (r : LaneRef) (n : Nat) : Val := sourceVal 0 (slotFtz tgt) (s.reg r n).toNat
       let e (r : LaneRef) := fmaVal (slotRnd tgt == 3) (val r x.a.toNat) (val r x.b.toNat) (val r x.c.toNat)
       let v (r : LaneRef) : Conv := convertVal tgt r.l ph (e r).1
       performs (.fma x) (fun r => [{ v r with flags := (v r).flags.or (FpFlags.ofInv (e r).2) }]) (fun r => runWrites x.d.toNat (v r).code 1))
    ∧ (let scale := blockScale (slotFmt tgt) ((List.range 32).map (fun l => s.blockValue src x rs l))
       let elem (r : LaneRef) : Conv := blockElement tgt scale r.l ph (s.blockValue src x rs r.l)
       let es (r : LaneRef) : List Conv := [elem r]
       let good := rs.filter (fun r => !traps es r)
       let last (r : LaneRef) : Bool := good.getLast? == some r
       let b := x.b.toNat
       (slotRnd tgt = 4 → violates (.cvtq x))
       ∧ (Undisturbed (.cvtq x) x.p x.pn s → (slotRnd tgt ≠ 4 ∨ g.det = false ∨ g.ngroups = 1) →
          (∀ r ∈ rs, traps es r = true → (s.lane r).inHandler = false) →
          ∃ t, exec (.cvtq x) s = .next t ∧ EachLane s t x rs (fun r => code (traps es r)) ∧ SameMemory s t
            ∧ (∀ r ∈ good, ∃ k o, s.nextKey ≤ k ∧ Tab.find t.ops k = some o ∧ o.lane = r ∧ o.issue = s.cur.num ∧ o.together = true
                ∧ o.slot = slotOf x ∧ o.wait = .ready ∧ o.late = none ∧ o.preds = []
                ∧ o.writes = runWrites x.d.toNat (elem r).code 1 ++ (if b < 128 ∨ last r = true then runWrites b scale 1 else [])
                ∧ o.phase = if last r = true ∧ slotRnd tgt = 4 then 1 else 0)
            ∧ (good ≠ [] ∨ rs = [] → SameGroupRegs s t ∧ ∀ k, (t.team k).dphase = (s.team k).dphase)
            ∧ (∀ r, rs.head? = some r → good = [] → (128 ≤ b → b < 192 → t.reg r b = BitVec.ofNat 32 scale)
                ∧ (t.team s.cur.team).dphase = if slotRnd tgt = 4 then (s.team s.cur.team).dphase + 1 else (s.team s.cur.team).dphase)
            ∧ ∀ k, (t.team k).terr = ((s.withFlags rs (raised es)).team k).terr))
    ∧ (x.md = 1 → violates (.dph x))
    ∧ (Undisturbed (.dph x) x.p x.pn s → (x.md ≠ 1 ∨ g.det = false ∨ g.ngroups = 1) →
        ∃ t, exec (.dph x) s = .next t ∧ EachLane s t x rs (fun _ => none) ∧ SameMemory s t ∧ SameGroupRegs s t
          ∧ (∀ r ∈ rs, InFlight s t r x (runWrites x.d.toNat ph 1) [])
          ∧ (∀ k, (t.team k).terr = (s.team k).terr)
          ∧ (t.team s.cur.team).dphase =
              match (if x.md = 1 then (rs.filter (fun r => !s.isHelper r)).getLast? else none) with
              | some r => (s.reg r x.a.toNat).extractLsb' 0 5
              | none => (s.team s.cur.team).dphase)

/-! ### Special registers, control flow, joins and cross-lane exchange -/

/-- SRD writes the sampled value of a special register into a v-register or pair in every present lane, or, uniform, once from the last one
(R109, R95). SWR writes %dphase, %terr (each 1 clears its bit, but for those set in the same cycle) or %qseed of the team from the last present
lane that is no helper, unless deterministic mode forbids it or a higher group has written the register in the same cycle; with helper lanes
only it writes nothing (R26, R28, R110, R22, R134). -/
def Obligations.SpecialRegisters : Prop :=
  (∀ (f : RForm) s, Undisturbed (.srd f) 0 false s →
      (f.m = 0 → exec (.srd f) s = .next (s.withLanes s.present (fun r =>
        (if f.a.toNat = 8 ∨ f.a.toNat = 9 ∨ f.a.toNat = 14 then
          ((s.lane r).put f.d.toNat (BitVec.ofNat 32 (s.special r f.a.toNat))).put (f.d.toNat + 1)
            (BitVec.ofNat 32 (s.special r f.a.toNat / 2 ^ 32))
         else (s.lane r).put f.d.toNat (BitVec.ofNat 32 (s.special r f.a.toNat))).passed s)))
        ∧ (f.m = 3 → ∀ r, s.present.getLast? = some r → ∃ t, exec (.srd f) s = .next t ∧ SameMemory s t
            ∧ (∀ q, (t.lane q) = if q ∈ s.present ∧ (Tab.find s.teams q.team).isSome then (s.lane q).passed s else s.lane q)
            ∧ ((Tab.find s.teams r.team).isSome →
                (∀ k, t.reg r (128 + k) =
                  if k = f.d.toNat then BitVec.ofNat 32 (s.special r f.a.toNat)
                  else if k = f.d.toNat + 1 ∧ (f.a.toNat = 8 ∨ f.a.toNat = 9 ∨ f.a.toNat = 14) then BitVec.ofNat 32 (s.special r f.a.toNat / 2 ^ 32)
                  else s.reg r (128 + k)))
            ∧ ∀ q, (q.team, q.g) ≠ (r.team, r.g) → t.group q = { s.group q with lanes := (t.group q).lanes }))
  ∧ (∀ (f : RForm) s, Undisturbed (.swr f) 0 false s →
      ¬ ((s.gridOf s.cur.team).det = true ∧ f.d.toNat = 12 ∧ 1 < (s.gridOf s.cur.team).ngroups) →
      (∀ r, (s.workers s.present).getLast? = some r →
        let n := f.a.toNat + (if f.m = 3 then 128 else 0)
        let k := f.d.toNat
        let after (g : Nat) : Prop := ∃ h, Tab.find (s.team s.cur.team).swrs k = some (s.cycle, h) ∧ g < h
        (¬ after r.g → exec (.swr f) s = .next ((s.modTeam s.cur.team (fun x =>
          let y : Team := { x with swrs := Tab.set x.swrs k (s.cycle, r.g) }
          if k = 12 then { y with dphase := (s.reg r n).extractLsb' 0 5 }
          else if k = 13 then
            { y with terr := x.terr &&& ~~~ ((s.reg r n).extractLsb' 0 7 &&& ~~~ (if x.terrAt = s.cycle then x.terrSet else 0)) }
          else { y with qseed := (s.reg r (n + 1) ++ s.reg r n).extractLsb' 0 33 })).withLanes s.present (fun q => (s.lane q).passed s)))
        ∧ (after r.g → k ≠ 13 → exec (.swr f) s = .next (s.withLanes s.present (fun q => (s.lane q).passed s))))
        ∧ (s.workers s.present = [] → exec (.swr f) s = .next (s.withLanes s.present (fun q => (s.lane q).passed s))))

/-- BRA and CALL send a lane whose guard holds to PC + 2 × off19, CALL with the link PC + 4 in v6:v7; BRX, CALLX and RET send every present
lane to its own target; bit 0 of a target is ignored. Lanes whose guard is false go on, and nothing else changes (R18, R140, R141). -/
def Obligations.Branches : Prop :=
  (∀ (f : BForm) s, Undisturbed (.bra f) f.p f.n s → exec (.bra f) s = .next (s.withLanes s.present (fun r =>
      if s.guard f.p f.n r then (s.lane r).sentTo s (s.cur.pc + f.off.signExtend 64 * 2).toNat else (s.lane r).passed s)))
  ∧ (∀ (f : BForm) s, Undisturbed (.call f) f.p f.n s → exec (.call f) s = .next (s.withLanes s.present (fun r =>
      if s.guard f.p f.n r then
        (((s.lane r).put 6 ((s.cur.pc + 4).extractLsb' 0 32)).put 7 ((s.cur.pc + 4).extractLsb' 32 32)).sentTo s
          (s.cur.pc + f.off.signExtend 64 * 2).toNat
      else (s.lane r).passed s)))
  ∧ ∀ (f : RForm) s,
    let target (r : LaneRef) : BitVec 64 :=
      if f.m = 2 then s.reg r (128 + f.b.toNat + 1) ++ s.reg r (128 + f.b.toNat) else s.reg r (f.b.toNat + 1) ++ s.reg r f.b.toNat
    (Undisturbed (.brx f) 0 false s → exec (.brx f) s = .next (s.withLanes s.present (fun r => (s.lane r).sentTo s (target r).toNat)))
    ∧ (Undisturbed (.ret f) 0 false s → exec (.ret f) s = .next (s.withLanes s.present (fun r => (s.lane r).sentTo s (target r).toNat)))
    ∧ (Undisturbed (.callx f) 0 false s → exec (.callx f) s = .next (s.withLanes s.present (fun r =>
        (((s.lane r).put f.d.toNat ((s.cur.pc + 4).extractLsb' 0 32)).put (f.d.toNat + 1) ((s.cur.pc + 4).extractLsb' 32 32)).sentTo s
          (target r).toNat)))

/-- NOP, the yields and the slot waits only move their lanes on, ready from the next cycle, and so do REFORM in deterministic mode and HOME in
lanes that are not away (R66, R143, R155, R158); a lane is not ready at a slot wait before its counts in the masked slots are 0 (R144).
REFORM moves every present lane on and may file it, HOME moves every present lane on and takes it out of its bin, and neither changes
anything else of a lane, nor any other lane, nor memory (R154, R155). A lone lane is filed in the bin of its key, its team and the next PC,
which becomes a formation with its 32nd thread; else in a new bin; and where 16 bins of its core are in use, or it already is in the bin of
its key, it goes on where it stands (R154; a placed formation occupies no bin, log entry 61). -/
def Obligations.PassingAndReform : Prop :=
  (∀ i s, Undisturbed i 0 false s →
      (i = .nop ∨ i = .cYield ∨ i = .yield ∨ i = .waitAll ∨ (∃ f, i = .wait f)
        ∨ (i = .reform ∧ (s.gridOf s.cur.team).det = true) ∨ (i = .home ∧ ∀ r ∈ s.present, (s.lane r).away = none)) →
      exec i s = .next (s.withLanes s.present (fun r => (s.lane r).passed s)))
  ∧ (∀ (s : State) (r : LaneRef) (w : Nat) (f : IForm),
      (s.unready r 2 w (.ok (.wait f)) = 2 ↔ ∃ k, k < 8 ∧ f.imm.getLsbD k = true ∧ (s.lane r).slotCount k ≠ 0)
        ∧ (s.unready r 1 w (.ok .waitAll) = 2 ↔ ∃ k, k < 8 ∧ (s.lane r).slotCount k ≠ 0))
  ∧ (∀ i s, i = .reform ∨ i = .home → Undisturbed i 0 false s → s.cur.len = 2 → (∀ r ∈ s.present, (Tab.find s.teams r.team).isSome = true) →
      ∃ t, exec i s = .next t ∧ SameMemory s t ∧ SameGroupRegs s t ∧ (∀ q, q ∉ s.present → t.lane q = s.lane q)
        ∧ ∀ r ∈ s.present, t.lane r = { (s.lane r).passed s with away := (t.lane r).away, filed := (t.lane r).filed }
          ∧ (i = .home → (t.lane r).away = none ∧ ∀ n b, (s.lane r).away = some n → Tab.find t.bins n = some b → r ∉ b.members))
  ∧ (∀ s r, s.present = [r] → (Tab.find s.teams r.team).isSome = true → s.cur.len = 2 → Undisturbed .reform 0 false s →
      (s.gridOf s.cur.team).det = false →
      let core := (s.team r.team).gcore
      let fits (b : Bin) : Prop :=
        b.core = core ∧ b.team = r.team ∧ b.pc = (s.lane r).pc + 4 ∧ b.place = none ∧ b.members.length < 32
      let used := (s.bins.filter (fun e => e.2.core == core && e.2.place.isNone)).length
      let filed (n : Nat) : Lane := { (s.lane r).passed s with away := some n, filed := s.cycle }
      (∀ n b l₁ l₂, s.bins = l₁ ++ (n, b) :: l₂ → (∀ e ∈ l₁, ¬ fits e.2) → fits b →
        ∃ t, exec .reform s = .next t
          ∧ ((s.lane r).away = some n → t.lane r = (s.lane r).passed s ∧ t.bins = s.bins)
          ∧ ((s.lane r).away ≠ some n → t.lane r = filed n ∧ Tab.find t.bins n = some { b with
              members := insertMember r b.members, formed := b.formed || decide ((insertMember r b.members).length = 32) }))
      ∧ ((∀ e ∈ s.bins, ¬ fits e.2) → used < 16 →
        ∃ t, exec .reform s = .next t ∧ t.lane r = filed s.nextKey ∧ Tab.find t.bins s.nextKey = some
          { core := core, team := r.team, pc := (s.lane r).pc + 4, members := [r], formed := false, place := none })
      ∧ ((∀ e ∈ s.bins, ¬ fits e.2) → 16 ≤ used →
        ∃ t, exec .reform s = .next t ∧ t.lane r = (s.lane r).passed s ∧ t.bins = s.bins))

/-- EXIT and C_EXIT put every present lane into its group's exited set, out of any handler and unparked, and leave memory and the s-registers
(R142, R302). TRAP parks every present lane that is no helper with USER_TRAP, the code in DETAIL; helper lanes go on (R145, R22). -/
def Obligations.ExitAndTrap : Prop :=
  (∀ i s, i = .exit ∨ i = .cExit → Undisturbed i 0 false s → ∃ t, exec i s = .next t ∧ SameMemory s t
      ∧ (∀ q, (t.group q).s = (s.group q).s)
      ∧ ∀ r ∈ s.present, (Tab.find s.teams r.team).isSome → r.l < 32 →
        t.exited r = true ∧ (t.lane r).parked = false ∧ (t.lane r).inHandler = false)
  ∧ (∀ (f : IForm) s, Undisturbed (.trap f) 0 false s → (∀ r ∈ s.present, (Tab.find s.teams r.team).isSome ∧ HandlerReady s r) →
      ∃ t, exec (.trap f) s = .next t ∧ SameMemory s t ∧ SameGroupRegs s t
        ∧ (∀ r ∈ s.present, s.isHelper r = true → t.lane r = (s.lane r).passed s)
        ∧ (∀ q, q ∉ s.present → t.lane q = s.lane q)
        ∧ ∀ r ∈ s.present, s.isHelper r = false →
          t.lane r = { s.lane r with parked := true, faultCode := 0x1B, staged := some (s.faultHere 0x1B f.imm.toNat 0, false),
                                     cond := .running, away := none, back := none })

/-- JMSET sets a join mask, from an s-register or as the active lanes whose predicate holds, where no lane of the group waits at a join, and
clears its arrivals; JMGET copies a mask into an s-register. Every present lane goes on (R148). JOIN, LEAVE and WAITJ by a lone lane that
is not away: JOIN passes where the lane's mask bit is clear, waits with its arrival recorded while another lane is pending, and as the
last pending lane releases every waiter past its own instruction, clearing the arrivals, but not while a lane that a SAVE found waiting there
has yet to execute its instruction again (R152); LEAVE takes the lane out of mask and arrivals;
WAITJ passes where nothing is pending and nobody waits, and waits otherwise (R147, R149). -/
def Obligations.Joins : Prop :=
  (∀ (f : JForm) s r, (s.active f.p f.n).getLast? = some r → (Tab.find s.teams r.team).isSome →
      (∀ q ∈ s.active f.p f.n, q.team = r.team ∧ q.g = r.g ∧ q.l < 32) →
      (Undisturbed (.jmset f) f.p f.n s → r ∈ s.groupLanes r.team r.g → (∀ q ∈ s.groupLanes r.team r.g, (s.lane q).cond = .running) →
        ∃ m : BitVec 32, exec (.jmset f) s = .next ((s.withLanes s.present (fun q => (s.lane q).passed s)).modGroup r (fun x =>
            (x.setMask f.j.toNat m).setArrived f.j.toNat 0))
          ∧ (f.a.toNat < 64 → m = s.reg r (128 + f.a.toNat))
          ∧ (64 ≤ f.a.toNat → ∀ l, l < 32 →
              (m.getLsbD l = true ↔ ∃ q ∈ s.active f.p f.n, q.l = l ∧ (s.lane q).pred (f.a.toNat - 64) = true)))
      ∧ (Undisturbed (.jmget f) f.p f.n s → exec (.jmget f) s = .next ((s.setReg r (128 + f.a.toNat) ((s.group r).mask f.j.toNat)).withLanes
          s.present (fun q => (s.lane q).passed s))))
  ∧ (∀ (f : JForm) s r, s.present = [r] → s.guard f.p f.n r = true → (Tab.find s.teams r.team).isSome → r.l < 32 →
      s.cur.team = r.team → r ∈ s.groupLanes r.team r.g → (s.lane r).away = none → (s.lane r).cond = .running → s.cur.len = 2 →
      (s.lane r).back = none →
      let j := f.j.toNat
      let x := s.group r
      let bit : BitVec 32 := laneBit r.l
      let pend : BitVec 32 := x.mask j &&& ~~~ x.exited &&& ~~~ (x.arrived j)
      let joined : State := (s.modGroup r (fun y => y.setArrived j (y.arrived j ||| bit))).withLanes [r] (fun _ => { s.lane r with cond := .join j })
      (Undisturbed (.join f) f.p f.n s → x.mask j &&& bit = 0 → exec (.join f) s = .next (s.withLanes [r] (fun _ => (s.lane r).passed s)))
      ∧ (Undisturbed (.join f) f.p f.n s → x.mask j &&& bit ≠ 0 → pend &&& ~~~ bit ≠ 0 →
          (∃ q ∈ s.groupLanes r.team r.g, q ≠ r ∧ s.exited q = false ∧ (s.lane q).cond = .running) →
          exec (.join f) s = .next joined)
      ∧ (Undisturbed (.join f) f.p f.n s → x.mask j &&& bit ≠ 0 →
          (∃ q ∈ s.groupLanes r.team r.g, q ≠ r ∧ s.exited q = false ∧ (s.lane q).cond = .running ∧ (s.lane q).back = some j) →
          exec (.join f) s = .next joined)
      ∧ (Undisturbed (.join f) f.p f.n s → x.mask j &&& bit ≠ 0 → pend &&& ~~~ bit = 0 → (s.groupLanes r.team r.g).Nodup →
          (∀ q ∈ s.groupLanes r.team r.g, (s.lane q).back = none) →
          ∃ t, exec (.join f) s = .next t ∧ (t.group r).arrived j = 0 ∧ SameMemory s t
            ∧ t.lane r = { (s.lane r).passed s with released := some s.nextKey }
            ∧ ∀ q ∈ s.groupLanes r.team r.g, q ≠ r → (s.lane q).cond = .join j ∨ (s.lane q).cond = .waitj j →
              t.lane q = { s.lane q with cond := .running, pc := (s.lane q).pc + 4, since := s.cycle + 1, released := some s.nextKey })
      ∧ (Undisturbed (.leave f) f.p f.n s → (∀ q ∈ s.groupLanes r.team r.g, (s.lane q).cond = .running) →
          exec (.leave f) s = .next ((s.withLanes [r] (fun _ => (s.lane r).passed s)).modGroup r (fun y =>
            (y.setMask j (y.mask j &&& ~~~ bit)).setArrived j (y.arrived j &&& ~~~ bit))))
      ∧ (Undisturbed (.waitj f) f.p f.n s → pend = 0 → (∀ q ∈ s.groupLanes r.team r.g, (s.lane q).cond = .running) →
          exec (.waitj f) s = .next (s.withLanes [r] (fun _ => (s.lane r).passed s)))
      ∧ (Undisturbed (.waitj f) f.p f.n s → pend ≠ 0 →
          (∃ q ∈ s.groupLanes r.team r.g, q ≠ r ∧ s.exited q = false ∧ (s.lane q).cond = .running) →
          exec (.waitj f) s = .next (s.withLanes [r] (fun _ => { s.lane r with cond := .waitj j }))))

/-- The cross-lane instructions write every present lane's d from the values all lanes held before, over the lanes of the subset that are in
handler as the lane is; LRED and LSCAN set INV where their combination raises it; nothing else changes (R159 to R163). -/
def Obligations.CrossLaneForms : Prop :=
  ∀ i f s, crossForm i = some f → Undisturbed i 0 false s → (∀ r ∈ s.present, (s.group r).badParity = [])
    → (∀ q, (s.lane q).badParity = []) →
    exec i s = .next ((s.withLanes s.present (fun r => ((s.lane r).put f.d.toNat (crossResult i f s r)).passed s)).setFlags s.cur.team
      (crossFlags i f s))

/-! ### Memory -/

/-- LD delivers the bytes at the home into d and its followers, extended as the width code says; an acquire at scope 4 or wider receives the
line's signature and drops the core's L1 copies that it matches, with any copy of the sector read; below scope 4 the core fills an L1 copy, and
a copy it holds serves the load, which an acquire at a scope above 0 does not keep from receiving the line's signature (R203, R209, R358, R359,
R365, R366, R368). ST writes
its register bytes at the home, and no other byte of memory; a release leaves the lane's signature in the field of the words it writes; a
helper lane stores nothing (R22, R203, R209, R358, R366, R367). -/
def Obligations.GlobalAccesses : Prop :=
  (∀ (x : XForm) r s, Alone (.ld x) x r s → Uncached s → s.bad = [] → s.marks = [] →
      let n := widthBytes (widthOf x)
      let ea := s.globalEa r x
      let scope := x.fs.toNat
      ∀ pa v, ea % n = 0 → s.place (s.team r.team).grid ea 0 = .mem pa v →
        (s.l1 = [] ∨ 4 ≤ scope →
          ∃ t, exec (.ld x) s = .next t ∧ SameMemory s t ∧ SameGroupRegs s t
            ∧ PerformedMem s t r x (intoRegs x.d.toNat (loadedWords (widthOf x) (memGetN s.mem pa n))) []
            ∧ (4 ≤ scope → x.md.toNat % 2 = 1 → (t.lane r).sig = (s.lane r).sig.or (s.field (lineOf pa))
              ∧ ∀ e, e ∈ t.l1 ↔ e ∈ s.l1 ∧ ¬ (e.2.core = (s.team r.team).gcore
                ∧ (e.2.pa ∈ sectorsOf pa n ∨ (s.field (lineOf pa)).covers (lineOf e.2.pa) = true)))
            ∧ (scope < 4 → isHost pa = false → s.l1 = [] → t.l1.map Prod.snd =
                [{ core := (s.team r.team).gcore, pa := sectorOf pa, data := memGetN s.mem (sectorOf pa) 64, filled := s.cycle }]))
        ∧ ∀ k c, s.l1 = [(k, c)] → c.core = (s.team r.team).gcore → c.pa = sectorOf pa → c.bad = false → scope < 4 → isHost pa = false →
          ∃ t, exec (.ld x) s = .next t ∧ Quiet s t
            ∧ PerformedMem s t r x (intoRegs x.d.toNat (loadedWords (widthOf x) ((c.data.drop (pa - c.pa)).take n))) []
            ∧ (t.lane r).sig = if scope ≠ 0 ∧ x.md.toNat % 2 = 1 then (s.lane r).sig.or (s.field (lineOf pa)) else (s.lane r).sig)
  ∧ (∀ (x : XForm) r s, Alone (.st x) x r s →
      let n := widthBytes (widthOf x)
      let ea := s.globalEa r x
      (s.isHelper r = true → ∃ t, exec (.st x) s = .next t ∧ Performed s t r x [] [] ∧ Quiet s t)
      ∧ (s.isHelper r = false → Uncached s → s.waiters = [] → Memory.wf s.mem = true → ∀ pa v, ea % n = 0 →
          s.place (s.team r.team).grid ea 1 = .mem pa v →
          ∃ t, exec (.st x) s = .next t ∧ PerformedMem s t r x [] [] ∧ Wrote s t pa (s.registerBytes r x.d.toNat n) ∧ SameGroupRegs s t
            ∧ (isHost pa = false → (t.lane r).sig = (s.lane r).sig.or (.lines [lineOf pa])
              ∧ (2 ≤ x.md.toNat % 4 → ∀ k, pa / 4 ≤ k → k ≤ (pa + n - 1) / 4 →
                Tab.find t.sigs k = some ((s.lane r).sig.or (.lines [lineOf pa]))))))

/-- LDL and STL in the own region read and write the bytes their local address reaches and nothing else; through the gang window the access is
sent to the member's region with the tag it has at issue, the lane goes on, and nothing has been read or written yet. When it arrives, it is
performed where the tag still stands; else it ends in LOCAL_BOUNDS, or in a helper lane's zeros, and no byte is touched (R22, R182, R183,
R203, R210). -/
def Obligations.LocalAccesses : Prop :=
  (∀ (x : XForm) r s,
    let n := widthBytes (widthOf x)
    let ea := s.localEa r x
    ea % n = 0 → ∀ u off, s.localPlace r.team ea n = some (u, off) →
      (bit ea 21 = false → Uncached s → s.waiters = [] →
        (Alone (.ldl x) x r s → (s.team u).localBad.contains (off / 64) = false →
          ∃ t, exec (.ldl x) s = .next t ∧ SameMemory s t ∧ SameGroupRegs s t
            ∧ PerformedMem s t r x (intoRegs x.d.toNat (loadedWords (widthOf x) (memGetN (s.team u).localMem off n))) [])
        ∧ (Alone (.stl x) x r s → s.isHelper r = false → Memory.wf (s.team u).localMem = true →
          ∃ t, exec (.stl x) s = .next t ∧ PerformedMem s t r x [] [] ∧ WroteLocal s t u off (s.registerBytes r x.d.toNat n)
            ∧ SameGroupRegs s t))
      ∧ (bit ea 21 = true → ∀ i, i = .ldl x ∨ (i = .stl x ∧ s.isHelper r = false) → Alone i x r s →
        ∃ t, exec i s = .next t ∧ Quiet s t ∧ WentOn s t r x
          ∧ ∃ o, Tab.find t.ops s.nextKey = some o ∧ o.lane = r ∧ o.slot = slotOf x ∧ o.late = none
            ∧ o.fill = (if i = .ldl x then some (x.d.toNat, widthOf x) else none)
            ∧ o.wait = .gang u off n (s.team u).tag (if i = .ldl x then [] else s.registerBytes r x.d.toNat n))
      ∧ (Alone (.stl x) x r s → s.isHelper r = true → ∃ t, exec (.stl x) s = .next t ∧ Performed s t r x [] [] ∧ Quiet s t))
  ∧ ∀ s k o u off n tag data, Tab.find s.ops k = some o → o.wait = .gang u off n tag data → o.late = none →
      s.ops.filter (fun e => e.2.issue == o.issue) = [(k, o)] →
      (∃ f, o.instr = some (if data = [] then .ldl f else .stl f)) → ((s.lane o.lane).cond = .running ∨ o.slot ≠ none) →
      (((s.team u).tag ≠ tag ∨ (s.team u).resident = false) → s.isHelper o.lane = false → o.together = false →
        ∃ t, exec (.operationCompletion k []) s = .next t ∧ SameMemory s t ∧ t.teams = s.teams
          ∧ Tab.find t.ops k = some { o with wait := .ready, late := some { o.info with code := 9 } })
      ∧ ((s.team u).tag = tag → (s.team u).resident = true → Uncached s → s.waiters = [] → o.together = false → o.phase = 0 →
          (Tab.find s.teams o.lane.team).isSome = true →
        (∀ d c, data = [] → o.fill = some (d, c) → d + widthRegs c ≤ 128 → (s.team u).localBad.contains (off / 64) = false →
          ∃ t, exec (.operationCompletion k []) s = .next t ∧ SameMemory s t ∧ Tab.find t.ops k = none
            ∧ ∀ w ∈ loadWrites d c (memGetN (s.team u).localMem off n), t.reg o.lane w.1 = w.2)
        ∧ (data ≠ [] → data.length = n → Memory.wf (s.team u).localMem = true → (Tab.find s.teams u).isSome = true → o.writes = [] →
          ∃ t, exec (.operationCompletion k []) s = .next t ∧ WroteLocal s t u off data ∧ Tab.find t.ops k = none))

/-- A misaligned access parks its lane with MISALIGNED and an untranslated or unpermitted one with its own code, the effective address in the
fault, and neither memory nor a register is changed; a helper lane's load delivers zeros instead (R22, R202, R207, R208). LD and ST of an
address in the fabric window send one request to the device it names, in the order of the stream, unless the peer table refuses it, which
parks the lane (R209, R436, R438, R439, R444, R445). -/
def Obligations.FaultsAndFabricAccesses : Prop :=
  (∀ (x : XForm) r s,
      let n := widthBytes (widthOf x)
      let ea := s.globalEa r x
      let le := s.localEa r x
      let parks (i : Instr) (code addr : Nat) : Prop :=
        HandlerReady s r → ∃ t, exec i s = .next t ∧ Parked s t r code 0 addr ∧ SameMemory s t ∧ SameGroupRegs s t
      let zeros (i : Instr) (counted : Bool) : Prop :=
        ∃ t, exec i s = .next t ∧ Performed s t r x (intoRegs x.d.toNat (loadedWords (widthOf x) [])) [] ∧ SameMemory s t ∧ SameGroupRegs s t
          ∧ (counted = false → Quiet s t)
      (Alone (.ld x) x r s → ea % n ≠ 0 → (s.isHelper r = false → parks (.ld x) 4 ea) ∧ (s.isHelper r = true → zeros (.ld x) false))
      ∧ (Alone (.ld x) x r s → ea % n = 0 → ∀ c ue, s.place (s.team r.team).grid ea 0 = .bad c ue →
          (s.isHelper r = false → parks (.ld x) c ea) ∧ (s.isHelper r = true → zeros (.ld x) ue))
      ∧ (Alone (.st x) x r s → s.isHelper r = false → ea % n ≠ 0 → parks (.st x) 4 ea)
      ∧ (Alone (.st x) x r s → s.isHelper r = false → ea % n = 0 → ∀ c ue, s.place (s.team r.team).grid ea 1 = .bad c ue → parks (.st x) c ea)
      ∧ (Alone (.ldl x) x r s → le % n ≠ 0 → (s.isHelper r = false → parks (.ldl x) 4 le) ∧ (s.isHelper r = true → zeros (.ldl x) false))
      ∧ (Alone (.ldl x) x r s → le % n = 0 → s.localPlace r.team le n = none →
          (s.isHelper r = false → parks (.ldl x) 9 le) ∧ (s.isHelper r = true → zeros (.ldl x) false))
      ∧ (Alone (.stl x) x r s → s.isHelper r = false → le % n ≠ 0 → parks (.stl x) 4 le)
      ∧ (Alone (.stl x) x r s → s.isHelper r = false → le % n = 0 → s.localPlace r.team le n = none → parks (.stl x) 9 le))
  ∧ (∀ (x : XForm) r s, s.isHelper r = false →
      let n := widthBytes (widthOf x)
      let ea := s.globalEa r x
      ea % n = 0 → s.fabricBusy (fabricPeer ea) = false →
        (Alone (.ld x) x r s → s.place (s.team r.team).grid ea 0 = .fabric →
          (s.fabricFault ea = none → s.sharedRead ea = none →
              ∃ t, exec (.ld x) s = .next t ∧ SentFor s t r x ea (.read n) [] false (some (x.d.toNat, widthOf x)))
            ∧ ∀ c, s.fabricFault ea = some c → HandlerReady s r →
              ∃ t, exec (.ld x) s = .next t ∧ Parked s t r c 0 ea ∧ SameMemory s t ∧ t.sent = s.sent)
        ∧ (Alone (.st x) x r s → s.place (s.team r.team).grid ea 1 = .fabric →
          (s.fabricFault ea = none → ∃ t, exec (.st x) s = .next t ∧ SentFor s t r x ea .write (s.registerBytes r x.d.toNat n)
              (decide (6 ≤ x.fs.toNat) && (decide (2 ≤ x.md.toNat % 4) || decide (6 ≤ (s.lane r).fenced))) none)
            ∧ ∀ c, s.fabricFault ea = some c → HandlerReady s r →
              ∃ t, exec (.st x) s = .next t ∧ Parked s t r c 0 ea ∧ SameMemory s t ∧ t.sent = s.sent))

/-- A flip makes a FULL, unpinned page's incoming frame its settled one, with the incoming version, drops the L1 copies of both frames and
changes no memory; an entry is created and destroyed by the host's programming (R401, R413 to R417). LDV delivers the settled frame's
bytes and a set status predicate once the page's version has reached the floor, is held while it has not, and faults in deterministic mode
where the version is past the floor or a timeout is asked for. A held LDV whose timeout expires clears its status predicate and goes on,
or faults where it names none (R212, R213, R217). VPIN adds a pin of the lane's version to its team, within 255 for a version and eight
versions, and to the version's entry with the team's first; VUNPIN gives one back, where there is one; neither asks the page for a
permission (R215, R414). -/
def Obligations.VersionedPages : Prop :=
  ((∀ s v x, Tab.find s.versions v = some x → x.state = 2 → x.pins = 0 → s.publications = [] → s.heldIn .ldv = [] →
      ∃ t, exec (.versionFlip v) s = .next t ∧ SameMemory s t
        ∧ Tab.find t.versions v = some { x with sel := !x.sel, version := x.incoming, state := 0 }
        ∧ (∀ u, u ≠ v → Tab.find t.versions u = Tab.find s.versions u)
        ∧ (∀ e ∈ t.l1, e ∈ s.l1 ∧ ¬ (s.settled v ≤ e.2.pa ∧ e.2.pa < s.settled v + 2 ^ 21)
            ∧ ¬ (s.incoming v ≤ e.2.pa ∧ e.2.pa < s.incoming v + 2 ^ 21)))
    ∧ (∀ s v x, Tab.find s.versions v = some x → (x.state ≠ 2 ∨ x.pins ≠ 0) → exec (.versionFlip v) s = .next s)
    ∧ ∀ s v, (∀ f0 f1 sel n, v < 4096 → f0 < 24576 → f1 < 24576 → Tab.find s.versions v = none →
        let x : Version := { version := n % 2 ^ 32, incoming := 0, pins := 0, state := 0, sel := sel, frame0 := f0, frame1 := f1 }
        exec (.versionEntryCreate v f0 f1 sel n) s = .next { s with versions := Tab.set s.versions v x })
      ∧ (s.heldIn .ldv = [] → ∃ t, exec (.versionEntryDestroy v) s = .next t ∧ Tab.find t.versions v = none ∧ SameMemory s t
        ∧ ∀ u, u ≠ v → Tab.find t.versions u = Tab.find s.versions u))
  ∧ ((∀ (x : XForm) r s, Alone (.ldv x) x r s → Uncached s → s.bad = [] → s.marks = [] → (s.l1 = [] ∨ 4 ≤ x.fs.toNat) →
      let n := widthBytes (widthOf x)
      let ea := s.reg64 r x.a.toNat
      let floor := (s.reg r x.c.toNat).toNat
      let timeout := (s.reg r (x.c.toNat + 1)).toNat
      let det := (s.gridOf r.team).det
      ∀ pa v, ea % n = 0 → s.place (s.team r.team).grid ea 0 = .mem pa (some v) →
        let ahead := versionDiff (s.versionOf v) floor
        ((det = false ∧ ahead < 2 ^ 31) ∨ (det = true ∧ timeout = 0 ∧ ahead = 0) →
          ∃ t, exec (.ldv x) s = .next t ∧ SameMemory s t ∧ SameGroupRegs s t
            ∧ PerformedMem s t r x (intoRegs x.d.toNat (loadedWords (widthOf x) (memGetN s.mem pa n)))
              (if x.b.toNat / 16 = 0 then [] else [(x.b.toNat / 16, true)]))
        ∧ (2 ^ 31 ≤ ahead → (det = true → timeout = 0) →
          ∃ t, exec (.ldv x) s = .next t ∧ Quiet s t ∧ HeldIn s t r
            { kind := .ldv, x := x, insn := s.cur.insn, ea := ea, pa := v, v1 := floor, v2 := 0,
              deadline := if timeout = 0 then none else some (s.cycle + timeout), order := s.nextKey, issue := s.cur.num })
        ∧ (det = true → (timeout ≠ 0 ∨ (0 < ahead ∧ ahead < 2 ^ 31)) → s.isHelper r = false → HandlerReady s r →
          ∃ t, exec (.ldv x) s = .next t ∧ Parked s t r 0x19 0 ea ∧ SameMemory s t))
    ∧ ∀ r s h d, (s.lane r).cond = .held h → h.kind = .ldv → h.deadline = some d → d ≤ s.cycle → (Tab.find s.teams r.team).isSome →
      let k := h.x.b.toNat / 16
      (k ≠ 0 → ∃ t, exec (.ldvTimeout r) s = .next t ∧ SameMemory s t ∧ t.lane r = ((s.lane r).putPred k false).letGo h.x s
          ∧ ∀ q, q ≠ r → t.lane q = s.lane q)
        ∧ (k = 0 → s.isHelper r = false → HandlerReady s r →
          ∃ t, exec (.ldvTimeout r) s = .next t ∧ SameMemory s t ∧ ParkedHeld s t r h 0x0E h.ea))
  ∧ (∀ (x : XForm) r s pa v, s.place (s.team r.team).grid (s.reg64 r x.a.toNat) 3 = .mem pa (some v) →
      let c := Tab.getD (s.team r.team).pins v 0
      let kinds := ((s.team r.team).pins.filter (fun e => e.2 != 0)).length
      let pinsOf (u : State) : Nat := Tab.getD (u.team r.team).pins v 0
      let entry (u : State) : Option Nat := (Tab.find u.versions v).map (·.pins)
      (Alone (.vpin x) x r s → c < 255 → (c ≠ 0 ∨ kinds < 8) →
        ∃ t, exec (.vpin x) s = .next t ∧ Performed s t r x [] [] ∧ SameMemory s t ∧ pinsOf t = c + 1
          ∧ entry t = if c = 0 then (entry s).map (· + 1) else entry s)
      ∧ (Alone (.vpin x) x r s → (c = 255 ∨ (c = 0 ∧ 8 ≤ kinds)) → HandlerReady s r →
        ∃ t, exec (.vpin x) s = .next t ∧ Parked s t r 0x0F 0 (s.reg64 r x.a.toNat) ∧ SameMemory s t ∧ pinsOf t = c)
      ∧ (Alone (.vunpin x) x r s → 0 < c →
        ∃ t, exec (.vunpin x) s = .next t ∧ Performed s t r x [] [] ∧ SameMemory s t ∧ pinsOf t = c - 1
          ∧ entry t = if c = 1 then (entry s).map (· - 1) else entry s)
      ∧ (Alone (.vunpin x) x r s → c = 0 → ∃ t, exec (.vunpin x) s = .next t ∧ Performed s t r x [] [] ∧ Quiet s t))

/-- PF goes on whatever its address and may leave a copy of the sector in the core's L1; the release part of FENCE widens the fence the lane's
later stores carry, its acquire part receives the signatures the lane's loads have met, and at scope 4 or wider applies them to the core's
copies; the acquire part of FENCEX at scope 4 or wider drops every copy of the core, which may hide what an engine wrote, and is received, and
FENCEX does nothing else to the lane; none of them changes memory (R211, R228, R229, R365, R366, R370). -/
def Obligations.PrefetchAndFences : Prop :=
  ∀ (x : XForm) r s, Uncached s →
    (Alone (.pf x) x r s →
      ∃ t, exec (.pf x) s = .next t ∧ Performed s t r x [] [] ∧ SameMemory s t ∧ SameGroupRegs s t
        ∧ ∀ pa v, s.globalEa r x % widthBytes (widthOf x) = 0 → s.place (s.team r.team).grid (s.globalEa r x) 0 = .mem pa v →
          x.b.toNat / 16 ≠ 2 → isHost pa = false → s.bad = [] → s.marks = [] → s.l1 = [] →
          t.l1.map Prod.snd =
            [{ core := (s.team r.team).gcore, pa := sectorOf pa, data := memGetN s.mem (sectorOf pa) 64, filled := s.cycle }])
    ∧ (Alone (.fence x) x r s →
      ∃ t, exec (.fence x) s = .next t ∧ PerformedMem s t r x [] [] ∧ SameMemory s t ∧ SameGroupRegs s t
        ∧ (t.lane r).fenced = (if 2 ≤ x.md.toNat % 4 then max (s.lane r).fenced x.fs.toNat else (s.lane r).fenced)
        ∧ (x.md.toNat % 2 = 1 → (t.lane r).sig = (s.lane r).sig.or (s.lane r).seen)
        ∧ (x.md.toNat % 2 = 1 → 4 ≤ x.fs.toNat → (t.lane r).seen = .lines []
            ∧ ∀ e, e ∈ t.l1 ↔ e ∈ s.l1 ∧ ¬ (e.2.core = (s.team r.team).gcore ∧ (s.lane r).seen.covers (lineOf e.2.pa) = true))
        ∧ (x.md.toNat % 2 = 0 → t.l1 = s.l1 ∧ (t.lane r).seen = (s.lane r).seen ∧ (t.lane r).sig = (s.lane r).sig)
        ∧ (x.fs.toNat < 4 → t.l1 = s.l1 ∧ (t.lane r).seen = (s.lane r).seen))
    ∧ (Alone (.fencex x) x r s →
      ∃ t, exec (.fencex x) s = .next t ∧ PerformedMem s t r x [] [] ∧ SameMemory s t ∧ SameGroupRegs s t
        ∧ (t.lane r).fenced = (s.lane r).fenced ∧ (t.lane r).seen = (s.lane r).seen
        ∧ (let crosses : Prop := x.md.toNat % 2 = 1 ∧ 4 ≤ x.fs.toNat
           (crosses → (t.lane r).sig = .all ∧ ∀ e, e ∈ t.l1 ↔ e ∈ s.l1 ∧ e.2.core ≠ (s.team r.team).gcore)
             ∧ (¬ crosses → (t.lane r).sig = (s.lane r).sig ∧ t.l1 = s.l1)))

/-! ### Atomics, chains and barriers -/

/-- ATOM and CAS, at a home, deliver the old value to d and leave the combined value, or the new one where the old equals the expected, in
memory and nothing else; in the fabric window they send one request. In deterministic mode at scope 4 or wider they fault with
DET_VIOLATION, and a helper lane does nothing (R22, R232 to R235, R242). -/
def Obligations.AtomicsAtHome : Prop :=
  ∀ (x : XForm) r s i, (i = .atom x ∨ i = .cas x) → Alone i x r s →
    let k := if x.c.toNat / 4 % 4 = 1 then 2 else 1
    let ea := s.reg64 r x.a.toNat
    let b := s.regRun r x.b.toNat k
    let new := if x.b.toNat < 192 then s.regRun r (x.b.toNat + k) k else 0
    let det := (s.gridOf r.team).det = true ∧ 4 ≤ x.fs.toNat
    (det → HandlerReady s r → ∃ t, exec i s = .next t ∧ Parked s t r 0x19 0 0 ∧ SameMemory s t ∧ SameGroupRegs s t)
    ∧ (¬ det → s.isHelper r = true → ∃ t, exec i s = .next t ∧ Performed s t r x [] [] ∧ Quiet s t)
    ∧ (¬ det → s.isHelper r = false → ea % (4 * k) ≠ 0 → HandlerReady s r →
        ∃ t, exec i s = .next t ∧ Parked s t r 4 0 ea ∧ SameMemory s t ∧ SameGroupRegs s t)
    ∧ (¬ det → s.isHelper r = false → ea % (4 * k) = 0 → Uncached s → s.bad = [] → s.marks = [] → s.waiters = [] →
        Memory.wf s.mem = true → ∀ pa v, s.place (s.team r.team).grid ea 1 = .mem pa v → isHost pa = false →
        let old := leNat (memGetN s.mem pa (4 * k))
        let res := atomicOp x.md.toNat (32 * k) old b
        ∃ t, exec i s = .next t ∧ PerformedMem s t r x (runWrites x.d.toNat old k) [] ∧ SameGroupRegs s t
          ∧ (i = .atom x → Wrote s t pa (leBytes (4 * k) res.1)
              ∧ (t.team r.team).terr = ((s.setFlags r.team (FpFlags.ofInv res.2)).team r.team).terr)
          ∧ (i = .cas x → (if old = b then Wrote s t pa (leBytes (4 * k) new) else SameMemory s t)
              ∧ (t.team r.team).terr = (s.team r.team).terr))
    ∧ (¬ det → s.isHelper r = false → ea % (4 * k) = 0 → s.place (s.team r.team).grid ea 1 = .fabric → s.fabricFault ea = none →
        s.fabricBusy (fabricPeer ea) = false →
        ∃ t, exec i s = .next t ∧ SentFor s t r x ea
          (if i = .atom x then .atomic x.md.toNat (32 * k) b else .cas (32 * k) b new) []
          (decide (6 ≤ x.fs.toNat) && (decide (2 ≤ x.c.toNat % 4) || decide (6 ≤ (s.lane r).fenced))) (some (x.d.toNat, if k = 2 then 5 else 4)))

/-- UPD merges its operand into its core's update-only copy of the line, from the operation's identity, and leaves memory as it is; an evicted
copy is combined into its words, and into nothing else (R162, R236 to R240, R242). CHAIN by the one lane of a team holds it and sends its
request, the contribution combined from the identity. At the home, a request whose turn is to come waits; one whose turn it is writes the
new value and the next turn, and its lanes go on with the old value combined with what stands before them (R243 to R245). -/
def Obligations.UpdatesAndChains : Prop :=
  ((∀ (x : XForm) r s pa v, Alone (.upd x) x r s → s.isHelper r = false → Uncached s → (s.gridOf r.team).det = false →
      let k := if x.c.toNat / 4 % 4 = 1 then 2 else 1
      let ea := s.reg64 r x.a.toNat
      let one := atomicOp x.md.toNat (32 * k) (atomicIdentity x.md.toNat (32 * k)) (s.regRun r x.b.toNat k)
      let rel := decide (2 ≤ x.c.toNat % 4) || decide (1 ≤ (s.lane r).fenced)
      ea % (4 * k) = 0 → s.place (s.team r.team).grid ea 1 = .mem pa v → isHost pa = false →
        ∃ t, exec (.upd x) s = .next t ∧ PerformedMem s t r x [] [] ∧ SameMemory s t ∧ SameGroupRegs s t
          ∧ t.upd.map Prod.snd =
              [{ core := (s.team r.team).gcore, line := lineOf pa, op := x.md.toNat, width := 32 * k, parts := [((pa - lineOf pa) / (4 * k), one.1)],
                 team := r.team, rel := rel,
                 sig := if rel then (s.lane r).sig.or (.lines [lineOf pa]) else .lines [] }]
          ∧ (t.team r.team).terr = ((s.setFlags r.team (FpFlags.ofInv one.2)).team r.team).terr)
    ∧ (∀ (x : XForm) r s, Alone (.upd x) x r s → s.isHelper r = true → (s.gridOf r.team).det = false →
        ∃ t, exec (.upd x) s = .next t ∧ Performed s t r x [] [] ∧ Quiet s t)
    ∧ ∀ s n c k v, s.upd = [(n, c)] → (∀ e ∈ s.teams, e.2.stash = []) → s.waiters = [] → s.bad = [] → Memory.wf s.mem = true →
      c.parts = [(k, v)] →
      let w := c.width / 8
      let res := atomicOp c.op c.width (leNat (memGetN s.mem (c.line + w * k) w)) v
      ∃ t, exec (.updCopyEviction n) s = .next t ∧ t.upd = [] ∧ Wrote s t (c.line + w * k) (leBytes w res.1) ∧ (∀ q, t.lane q = s.lane q)
        ∧ (t.team c.team).terr = ((s.setFlags c.team (FpFlags.ofInv res.2)).team c.team).terr)
  ∧ ((∀ (x : XForm) r s y z pa v, Alone (.chain x) x r s → s.isHelper r = false → (s.lane r).away = none → s.exited r = false →
      (s.team r.team).groups = [(r.g, y)] → y.lanes = [(r.l, z)] → s.chains = [] →
      let k := if x.c.toNat / 4 % 4 = 1 then 2 else 1
      let ea := s.reg64 r x.a.toNat
      let b := s.regRun r x.b.toNat k
      let f (p q : Nat) : Nat := (atomicOp x.md.toNat (32 * k) p q).1
      let e := atomicIdentity x.md.toNat (32 * k)
      ea % 16 = 0 → s.place (s.team r.team).grid ea 1 = .mem pa v → isHost pa = false → pa < 2 ^ 48 →
        ∃ t, exec (.chain x) s = .next t ∧ SameMemory s t ∧ SameGroupRegs s t
          ∧ HeldIn s t r { kind := .chain, x := x, insn := s.cur.insn, ea := ea, pa := pa, v1 := b, v2 := 0, deadline := none,
                           order := s.nextKey, issue := s.cur.num }
          ∧ t.chains.map Prod.snd =
              [{ team := r.team, pa := pa, op := x.md.toNat, width := 32 * k, total := f e (f e b), lanes := [(r, e, e)] }]
          ∧ (t.team r.team).terr = ((s.setFlags r.team (FpFlags.ofInv ((atomicOp x.md.toNat (32 * k) e b).2 ||
              (atomicOp x.md.toNat (32 * k) e (f e b)).2))).team r.team).terr)
    ∧ ∀ s n c r p q h, Tab.find s.chains n = some c → c.lanes = [(r, p, q)] → (s.lane r).cond = .held h → c.pa < 2 ^ 48 →
      (c.width = 32 ∨ c.width = 64) → (Tab.find s.teams r.team).isSome → Uncached s → s.bad = [] → s.marks = [] → Memory.wf s.mem = true →
      let o := leNat (memGetN s.mem c.pa 16)
      let turn := o / 2 ^ 64 % 2 ^ 32
      let old := o % 2 ^ c.width
      let res := atomicOp c.op c.width old c.total
      (chainWhen turn (s.team c.team).teamid = 2 → exec (.chainTurn n) s = .next s)
      ∧ (turn = (s.team c.team).teamid →
          ∃ t, exec (.chainTurn n) s = .next t
            ∧ (∀ a, memGet t.mem a =
                if c.pa ≤ a ∧ a < c.pa + c.width / 8 then (leBytes (c.width / 8) res.1).getD (a - c.pa) 0
                else if c.pa + 8 ≤ a ∧ a < c.pa + 12 then (leBytes 4 ((turn + 1) % 2 ^ 32)).getD (a - (c.pa + 8)) 0 else memGet s.mem a)
            ∧ (∀ k a, memGet (t.team k).localMem a = memGet (s.team k).localMem a)
            ∧ Tab.find t.chains n = none
            ∧ Answered s t r h (runWrites h.x.d.toNat (atomicOp c.op c.width (atomicOp c.op c.width old p).1 q).1 (c.width / 32)) []
            ∧ ∀ u, u ≠ r → t.lane u = s.lane u))

/-- The barrier instructions on an object of this device, in global memory or a region, where no lane waits on it: BINIT writes the initial
object, BARR counts an arrival and gives the phase, BWAIT and BTESTP test without writing, BARW arrives and waits for the next phase,
BDROP withdraws; a refused operation ends in OBJECT_BROKEN with the object as it is; in a helper lane BINIT, BARR, BARW and BDROP do nothing.
Through the gang window the operation is sent to the member's region with the tag it has at issue, a BWAIT or BARW holding its lane, and acts
when it arrives (R22, R183, R246 to R255). TBAR by the one lane of a team
completes at once; while another counted lane of the team runs on, the arrived lane waits (R256). -/
def Obligations.Barriers : Prop :=
  (∀ (x : XForm) r s o, s.isHelper r = false → Uncached s → s.waiters = [] → s.barPlace r x = .ok (some o) → s.objectKept o →
      (bit x.md.toNat 0 && bit (s.barEa r x) 21) = false →
      let n := s.objectBits o 16
      let b := (s.reg r x.b.toNat).toNat
      let phase (n : Nat) : List (Nat × Word) := runWrites x.d.toNat (barPhase n) 1
      let done (i : Instr) (ws : List (Nat × Word)) (ps : List (Nat × Bool)) (m : Option Nat) : Prop :=
        ∃ t, exec i s = .next t ∧ PerformedMem s t r x ws ps ∧ SameGroupRegs s t
          ∧ match m with | some m => WroteObject s t o (leBytes 16 m) | none => SameMemory s t
      let held (i : Instr) (k : HoldKind) (goal past : Nat) (m : Option Nat) : Prop :=
        ∃ t, exec i s = .next t ∧ (t.lane r).pc = (s.lane r).pc ∧ (∀ q, q ≠ r → t.lane q = s.lane q)
          ∧ (t.lane r).cond = .held { kind := k, x := x, insn := s.cur.insn, ea := s.barEa r x, pa := o.key, v1 := goal, v2 := past,
                                      deadline := none, order := s.nextKey, issue := s.cur.num }
          ∧ t.waiters.map Prod.snd = [o.waiter r k]
          ∧ match m with | some m => WroteObject s t o (leBytes 16 m) | none => SameMemory s t
      let broken (i : Instr) : Prop :=
        ∃ t k q, exec i s = .next t ∧ WentOn s t r x ∧ SameMemory s t ∧ Tab.find t.ops k = some q ∧ q.lane = r
          ∧ q.late = some (s.faultHere 0x10 0 0)
      (Alone (.binit x) x r s → done (.binit x) [] [] (some (barInit b)))
      ∧ (Alone (.barr x) x r s → (∀ m, barArrive n = some m → done (.barr x) (phase n) [] (some m)) ∧ (barArrive n = none → broken (.barr x)))
      ∧ (Alone (.bwait x) x r s →
          (barOk n = true → barPassed n (b % 2 ^ 16) = true → done (.bwait x) (phase n) [] none)
            ∧ (barOk n = true → barPassed n (b % 2 ^ 16) = false → held (.bwait x) .bwait (b % 2 ^ 16) 0 none)
            ∧ (barOk n = false → broken (.bwait x)))
      ∧ (Alone (.barw x) x r s →
          let goal := (barPhase n + 1) % 2 ^ 16
          (∀ m, barArrive n = some m → barPassed m goal = true → done (.barw x) (phase m) [] (some m))
            ∧ (∀ m, barArrive n = some m → barPassed m goal = false → held (.barw x) .barw goal (barPhase n) (some m))
            ∧ (barArrive n = none → broken (.barw x)))
      ∧ (Alone (.btestp x) x r s →
          (barOk n = true → done (.btestp x) [] [(x.d.toNat, barPhase n % 2 == b % 2)] none) ∧ (barOk n = false → broken (.btestp x)))
      ∧ (Alone (.bdrop x) x r s → (∀ m, barWithdraw n b = some m → done (.bdrop x) [] [] (some m)) ∧ (barWithdraw n b = none → broken (.bdrop x))))
  ∧ (∀ (x : XForm) r s u off i, s.isHelper r = false → s.barPlace r x = .ok (some (.loc u off)) → bit x.md.toNat 0 = true →
      bit (s.barEa r x) 21 = true → Alone i x r s →
      let b := (s.reg r x.b.toNat).toNat
      let sent (slot : Option Nat) (data : List Byte) (t : State) : Prop :=
        Quiet s t ∧ ∃ o, Tab.find t.ops s.nextKey = some o ∧ o.lane = r ∧ o.slot = slot ∧ o.late = none
          ∧ o.wait = .gang u off 16 (s.team u).tag data
      let waits (k : HoldKind) (goal : Nat) : Hold :=
        { kind := k, x := x, insn := s.cur.insn, ea := s.barEa r x, pa := localKey u off, v1 := goal, v2 := 0, deadline := none,
          order := s.nextKey, issue := s.cur.num }
      (i = .binit x → ∃ t, exec i s = .next t ∧ WentOn s t r x ∧ sent (slotOf x) (leBytes 16 (barInit b)) t)
      ∧ (i = .barr x → ∃ t, exec i s = .next t ∧ WentOn s t r x ∧ sent (slotOf x) (leBytes 4 0) t)
      ∧ (i = .btestp x ∨ i = .bdrop x → ∃ t, exec i s = .next t ∧ WentOn s t r x ∧ sent (slotOf x) (leBytes 4 b) t)
      ∧ (i = .bwait x → ∃ t, exec i s = .next t ∧ HeldIn s t r (waits .bwait (b % 2 ^ 16)) ∧ sent none (leBytes 4 (b % 2 ^ 16)) t)
      ∧ (i = .barw x → ∃ t, exec i s = .next t ∧ HeldIn s t r (waits .barw 0) ∧ sent none (leBytes 4 0) t))
  ∧ (∀ s k o u off tag data, Tab.find s.ops k = some o → o.wait = .gang u off 16 tag data → o.late = none → o.together = false → o.phase = 0 →
      s.ops.filter (fun e => e.2.issue == o.issue) = [(k, o)] → (s.team u).tag = tag → (s.team u).resident = true → Uncached s →
      s.waiters = [] → s.objectKept (.loc u off) → s.isHelper o.lane = false → (Tab.find s.teams o.lane.team).isSome = true →
      let n := s.objectBits (.loc u off) 16
      let b := leNat data
      (∀ x, o.instr = some (.barr x) → (s.lane o.lane).cond = .running → x.d.toNat < 128 →
        (∀ m, barArrive n = some m → ∃ t, exec (.operationCompletion k []) s = .next t ∧ WroteObject s t (.loc u off) (leBytes 16 m)
          ∧ Tab.find t.ops k = none ∧ t.reg o.lane x.d.toNat = BitVec.ofNat 32 (barPhase n))
        ∧ (barArrive n = none → ∃ t, exec (.operationCompletion k []) s = .next t ∧ SameMemory s t
          ∧ Tab.find t.ops k = some { o with wait := .ready, late := some { o.info with code := 0x10, addr := 0 } }))
      ∧ ∀ x h, o.instr = some (.bwait x) → (s.lane o.lane).cond = .held h → barOk n = true →
        (barPassed n b = true → ∃ t, exec (.operationCompletion k []) s = .next t ∧ SameMemory s t ∧ Tab.find t.ops k = none
          ∧ Answered s t o.lane h (runWrites x.d.toNat (barPhase n) 1) [])
        ∧ (barPassed n b = false → ∃ t, exec (.operationCompletion k []) s = .next t ∧ SameMemory s t ∧ Tab.find t.ops k = none
          ∧ (t.lane o.lane).cond = .held { h with v1 := b, v2 := 0 }
          ∧ t.waiters.map Prod.snd = [(ObjAt.loc u off).waiter o.lane h.kind]))
  ∧ (∀ (x : XForm) r s i, (i = .binit x ∨ i = .barr x ∨ i = .barw x ∨ i = .bdrop x) → Alone i x r s → s.isHelper r = true →
      ∃ t, exec i s = .next t ∧ Performed s t r x [] [] ∧ Quiet s t)
  ∧ (∀ (x : XForm) r s, Alone (.tbar x) x r s → s.isHelper r = false → (s.lane r).away = none → (s.lane r).cond = .running → r.l < 32 →
      r.g < 32 → s.exited r = false →
      (∀ y z, (s.team r.team).groups = [(r.g, y)] → y.lanes = [(r.l, z)] → s.cur.len = 4 →
        ∃ t, exec (.tbar x) s = .next t ∧ InFlight s t r x [] [] ∧ t.lane r = { ((s.lane r).slotRaised x).passed s with sig := (t.lane r).sig }
          ∧ SameMemory s t ∧ (t.team r.team).tbarSet x.c.toNat r.g = 0)
      ∧ (∀ q ∈ s.teamLanes r.team, q ≠ r → s.exited q = false → s.isHelper q = false → (s.lane q).cond = .running →
        ((s.team r.team).tbarSet x.c.toNat q.g).getLsbD q.l = false →
        (∀ u ∈ s.teamLanes r.team, (s.lane u).cond = .running) → s.chains = [] → (s.teamLanes r.team).Nodup → r ∈ s.teamLanes r.team →
        ∃ t, exec (.tbar x) s = .next t ∧ InFlight s t r x [] [] ∧ SameMemory s t
          ∧ t.lane r = { (s.lane r).slotRaised x with cond := .tbar x.c.toNat }
          ∧ ((t.team r.team).tbarSet x.c.toNat r.g).getLsbD r.l = true))

/-! ### Queues and the Pricker -/

/-- QINIT writes an empty OPEN block of a new generation, or parks its lane where a parameter is bad; QSTAT reads one field; QCLOSE sets
CLOSED. Nothing else in memory changes, and in a helper lane no queue instruction does anything (R22; R259 to R264, R268, R273, R274). -/
def Obligations.QueueBlocks : Prop :=
  (∀ (x : XForm) r s i, (i = .qinit x ∨ i = .qstat x ∨ i = .qclose x ∨ i = .enq x ∨ i = .deq x) → Alone i x r s → s.isHelper r = true →
      (∀ y, i = .enq y → s.badReads r (s.uses r i).reads = (none, none)) →
      ∃ t, exec i s = .next t ∧ Performed s t r x [] [] ∧ Quiet s t)
  ∧ ∀ (x : XForm) r s pa, s.isHelper r = false → Uncached s → s.waiters = [] → s.bad = [] → Memory.wf s.mem = true → s.queueCtl r x = .ok pa →
    let old := leNat (memGetN s.mem pa 64)
    let base := s.regRun r x.b.toNat 2
    let cap := (s.reg r (x.b.toNat + 2)).toNat
    let esize := (s.reg r (x.b.toNat + 3)).toNat
    (Alone (.qinit x) x r s →
      (qParamBad (s.reg64 r x.a.toNat) base cap esize = false →
        ∃ t, exec (.qinit x) s = .next t ∧ PerformedMem s t r x [] [] ∧ SameGroupRegs s t
          ∧ Wrote s t pa (leBytes 64 (qEncode (qMake base cap esize (dieOfPa pa) ((old / 2 ^ 224 + 1) % 2 ^ 16)))))
        ∧ (qParamBad (s.reg64 r x.a.toNat) base cap esize = true → HandlerReady s r →
          ∃ t, exec (.qinit x) s = .next t ∧ Parked s t r 0x12 0 0 ∧ SameMemory s t))
    ∧ (Alone (.qstat x) x r s →
        ∃ t, exec (.qstat x) s = .next t ∧ Performed s t r x (runWrites x.d.toNat (s.queueField pa old x.b.toNat) 1) [] ∧ SameMemory s t
          ∧ SameGroupRegs s t)
    ∧ ∀ q, Alone (.qclose x) x r s → s.queueAt pa q →
        ∃ t, exec (.qclose x) s = .next t ∧ PerformedMem s t r x [] [] ∧ SameGroupRegs s t
          ∧ Wrote s t pa (leBytes 64 (qEncode { q with state := 1 }))

/-- ENQ reserves the next index, stores its element in the slot and awaits its commit; DEQ takes the head's element; an empty queue holds a
DEQ in its line, or fails its .NB form with the status EMPTY, and a closed one fails it with CLOSED; a queue with no free index holds an ENQ, or
fails its .NB form with FULL, and a closed one fails it, or faults with QUEUE_CLOSED where no status is named; in deterministic mode a wide
scope, the .NB form or a timeout faults with DET_VIOLATION, with no effect (R261, R262, R266 to R272, R277). A commit that reaches the home makes its index
visible in turn and its lane's operation ready; a waiter whose time is up leaves the line with its status clear, a DEQ with TIMEOUT in d,
or faults where it names no status; a host write of a queue window enqueues its bytes, or is counted as a drop, and a read gives FREE, STATE,
DROPS or CTL (R262, R270, R272, R279). -/
def Obligations.QueueElements : Prop :=
  (∀ (x : XForm) r s pa q, s.isHelper r = false → Uncached s → s.waiters = [] → s.bad = [] → s.marks = [] → Memory.wf s.mem = true →
      s.queueCtl r x = .ok pa → s.queueAt pa q → (s.team r.team).grid ≠ 0 →
      ¬ ((s.gridOf r.team).det = true ∧ (4 ≤ x.fs.toNat ∨ bit x.md.toNat 0 = true ∨ s.reg r x.c.toNat ≠ 0)) →
      let g := (s.team r.team).grid
      let stp := x.md.toNat / 2
      let held (k : HoldKind) (t : State) : Prop :=
        SameMemory s t ∧ t.waiters.map Prod.snd = [{ lane := r, kind := k, pa := pa, localTo := 0 }]
          ∧ HeldIn s t r { kind := k, x := x, insn := s.cur.insn, ea := s.reg64 r x.a.toNat, pa := pa, v1 := 0, v2 := 0,
                           deadline := if s.reg r x.c.toNat = 0 then none else some (s.cycle + (s.reg r x.c.toNat).toNat),
                           order := s.nextKey, issue := s.cur.num }
      let preds (b : Bool) : List (Nat × Bool) := if stp = 0 then [] else [(stp, b)]
      (∀ pe, Alone (.enq x) x r s → s.badReads r (s.uses r (.enq x)).reads = (none, none) → q.state = 0 → 0 < q.free → q.resv < 256 → s.commits = [] →
        (x.b.toNat < 192 → runFits (s.gridOf r.team) x.b.toNat (q.esize / 4) = true) →
        let i := (q.tail + q.resv) % 2 ^ 32
        (∀ k, k < q.esize / 4 → (s.tlbHit g (q.slotAddr i + 4 * k)).isSome = true ∧ isHost (pe + 4 * k) = false
          ∧ ∃ v, s.place g (q.slotAddr i + 4 * k) 1 = .mem (pe + 4 * k) v) →
        ∃ t gs, exec (.enq x) s = .next t ∧ WentOnKnowing s t r x ∧ SameGroupRegs s t
          ∧ (∀ a, memGet t.mem a =
              if pe ≤ a ∧ a < pe + q.esize then (s.registerBytes r x.b.toNat q.esize).getD (a - pe) 0
              else if pa ≤ a ∧ a < pa + 64 then (leBytes 64 (qEncode { q with resv := q.resv + 1, free := q.free - 1 })).getD (a - pa) 0
              else memGet s.mem a)
          ∧ (∀ k a, memGet (t.team k).localMem a = memGet (s.team k).localMem a)
          ∧ t.commits.map Prod.snd = [{ lane := r, ctl := pa, index := i, gen := q.gen, sig := gs, op := s.nextKey, bad := false }]
          ∧ ∃ o, Tab.find t.ops s.nextKey = some o ∧ o.lane = r ∧ o.wait = .commit s.nextKey ∧ o.preds = preds true ∧ o.late = none)
      ∧ (∀ pe, Alone (.deq x) x r s → q.visible ≠ 0 → (x.d.toNat < 192 → runFits (s.gridOf r.team) x.d.toNat (q.esize / 4) = true) →
        (∀ k, k < q.esize / 4 → isHost (pe + 4 * k) = false ∧ ∃ v, s.place g (q.slotAddr q.head + 4 * k) 1 = .mem (pe + 4 * k) v) →
        ∃ t, exec (.deq x) s = .next t ∧ SameGroupRegs s t ∧ Wrote s t pa (leBytes 64 (qEncode { q with head := (q.head + 1) % 2 ^ 32, free := q.free + 1 }))
          ∧ PerformedMem s t r x (runWrites x.d.toNat (leNat (memGetN s.mem pe q.esize)) (q.esize / 4)) (preds true))
      ∧ (Alone (.deq x) x r s → q.visible = 0 → q.state = 0 →
        (bit x.md.toNat 0 = false → ∃ t, exec (.deq x) s = .next t ∧ held .deq t)
        ∧ (bit x.md.toNat 0 = true → stp ≠ 0 →
            ∃ t, exec (.deq x) s = .next t ∧ Performed s t r x (runWrites x.d.toNat 1 1) [(stp, false)] ∧ Quiet s t))
      ∧ (Alone (.deq x) x r s → q.visible = 0 → q.state = 1 → q.resv = 0 → stp ≠ 0 →
          ∃ t, exec (.deq x) s = .next t ∧ Performed s t r x (runWrites x.d.toNat 3 1) [(stp, false)] ∧ Quiet s t)
      ∧ (Alone (.enq x) x r s → s.badReads r (s.uses r (.enq x)).reads = (none, none) → q.state = 0 → q.free = 0 ∨ q.resv = 256 →
        (x.b.toNat < 192 → runFits (s.gridOf r.team) x.b.toNat (q.esize / 4) = true) →
        (bit x.md.toNat 0 = false → ∃ t, exec (.enq x) s = .next t ∧ held .enq t)
        ∧ (bit x.md.toNat 0 = true → stp ≠ 0 →
            ∃ t, exec (.enq x) s = .next t ∧ Performed s t r x [] [(stp, false)] ∧ Quiet s t))
      ∧ (Alone (.enq x) x r s → s.badReads r (s.uses r (.enq x)).reads = (none, none) → q.state = 1 →
        (stp ≠ 0 → ∃ t, exec (.enq x) s = .next t ∧ Performed s t r x [] [(stp, false)] ∧ Quiet s t)
        ∧ (stp = 0 → ∃ t k o, exec (.enq x) s = .next t ∧ WentOn s t r x ∧ Quiet s t ∧ Tab.find t.ops k = some o ∧ o.lane = r
            ∧ o.late = some (s.faultHere 0x14 0 0))))
  ∧ (∀ (x : XForm) r s i, (i = .enq x ∨ i = .deq x) → Alone i x r s → s.badReads r (s.uses r i).reads = (none, none) → s.isHelper r = false →
      (s.gridOf r.team).det = true → 4 ≤ x.fs.toNat ∨ bit x.md.toNat 0 = true ∨ s.reg r x.c.toNat ≠ 0 → HandlerReady s r →
      ∃ t, exec i s = .next t ∧ Parked s t r 0x19 0 0 ∧ SameMemory s t ∧ SameGroupRegs s t)
  ∧ ((∀ s n c q o, Tab.find s.commits n = some c → s.migrations = [] → Uncached s → s.waiters = [] → s.bad = [] → Memory.wf s.mem = true →
      s.queueAt c.ctl q → q.gen = c.gen → Tab.find s.ops c.op = some o →
      ∃ t, exec (.commit n) s = .next t ∧ Wrote s t c.ctl (leBytes 64 (qEncode (q.commit c.index))) ∧ Tab.find t.commits n = none
        ∧ Tab.find t.ops c.op = some { o with wait := .ready } ∧ ∀ r, t.lane r = s.lane r)
    ∧ (∀ s r h d k, (s.lane r).cond = .held h → (h.kind = .enq ∨ h.kind = .deq) → h.deadline = some d → d ≤ s.cycle → s.mates r h.order = [r] →
      s.waiters = [(k, { lane := r, kind := h.kind, pa := h.pa, localTo := 0 })] → (Tab.find s.teams r.team).isSome →
      (h.x.md.toNat / 2 ≠ 0 →
        ∃ t, exec (.timeout r) s = .next t ∧ t.waiters = [] ∧ SameMemory s t ∧ (∀ q, q ≠ r → t.lane q = s.lane q)
          ∧ Answered s t r h (if h.kind = .deq then runWrites h.x.d.toNat 2 1 else []) [(h.x.md.toNat / 2, false)])
        ∧ (h.x.md.toNat / 2 = 0 → HandlerReady s r →
          ∃ t, exec (.timeout r) s = .next t ∧ t.waiters = [] ∧ SameMemory s t ∧ ParkedHeld s t r h 0x13 0))
    ∧ ∀ s win w bytes, Tab.find s.windows win = some w →
      (∀ off, off ≠ 0 → off < 0x100 → exec (.qwData win off (.store bytes)) s =
          .next { s with windows := Tab.set s.windows win { w with drops := (w.drops + 1) % 2 ^ 32 } })
      ∧ (∀ off pa q, Uncached s → s.bad = [] → s.queuePlace w.grid w.ctl 0 = .ok pa → qDecode (leNat (memGetN s.mem pa 64)) = q →
          ∃ t, exec (.qwData win off (.load 4)) s = .next t ∧ SameMemory s t ∧ t.windows = s.windows ∧ (∀ r, t.lane r = s.lane r)
            ∧ t.outgoing = s.outgoing ++ [.aperture (leBytes 4
                (if off = 0x800 then q.free else if off = 0x804 then q.gen * 2 ^ 16 + q.state else if off = 0x808 then w.drops
                 else if off = 0x810 then w.ctl % 2 ^ 32 else if off = 0x814 then w.ctl / 2 ^ 32 else 0))])
      ∧ ∀ pa pe q, Uncached s → s.waiters = [] → s.bad = [] → Memory.wf s.mem = true → w.grid ≠ 0 → s.queuePlace w.grid w.ctl 1 = .ok pa →
        s.queueAt pa q → q.state = 0 → 0 < q.free → q.resv < 256 → bytes.length = q.esize →
        let i := (q.tail + q.resv) % 2 ^ 32
        (∀ k, k < q.esize / 4 → (s.tlbHit w.grid (q.slotAddr i + 4 * k)).isSome = true ∧ isHost (pe + 4 * k) = false
          ∧ ∃ v, s.place w.grid (q.slotAddr i + 4 * k) 1 = .mem (pe + 4 * k) v) →
        (pe + q.esize ≤ pa ∨ pa + 64 ≤ pe) →
        ∃ t, exec (.qwData win 0 (.store bytes)) s = .next t ∧ t.windows = s.windows ∧ (∀ r, t.lane r = s.lane r)
          ∧ ∀ a, memGet t.mem a =
              if pe ≤ a ∧ a < pe + q.esize then bytes.getD (a - pe) 0
              else if pa ≤ a ∧ a < pa + 64 then
                (leBytes 64 (qEncode ({ q with resv := q.resv + 1, free := q.free - 1 }.commit i))).getD (a - pa) 0
              else memGet s.mem a)

/-- QRND, QRNDF, QRND2 and QBERN give the point of a dimension, fixed or cached, for an index under the team's %qseed, as a word, a fraction,
a pair of dimensions or a threshold test; a dimension beyond the table parks the lane. QLDT sets the context's table and drops what is
cached of it, or parks its lane where N or P is out of range, P is misaligned or the mode is deterministic; a fetch caches the 32 words of a dimension (R281 to R293). -/
def Obligations.PrickerPoints : Prop :=
  (∀ (x : XForm) r s v w,
    let t := s.team r.team
    let i := (s.reg r x.a.toNat).toNat
    let d := (s.reg r x.b.toNat).toNat
    let n := (s.gridOf r.team).qtabN
    let dirs (d : Nat) (vs : List Nat) : Prop := (d < 2 ∧ vs = fixedDir d) ∨ (2 ≤ d ∧ s.cachedDir t.gcore t.grid d = some vs)
    let p := pointOf v d i t.qseed.toNat
    let done (j : Instr) (ws : List (Nat × Word)) (ps : List (Nat × Bool)) : Prop :=
      ∃ u, exec j s = .next u ∧ Performed s u r x ws ps ∧ SameMemory s u ∧ SameGroupRegs s u
    dirs d v →
      (Alone (.qrnd x) x r s → d ≤ n + 1 → done (.qrnd x) (runWrites x.d.toNat p 1) [])
      ∧ (Alone (.qrndf x) x r s → d ≤ n + 1 → done (.qrndf x) (runWrites x.d.toNat (unitFloat p) 1) [])
      ∧ (Alone (.qbern x) x r s → d ≤ n + 1 → done (.qbern x) [] [(x.d.toNat, decide (p < (s.reg r x.c.toNat).toNat))])
      ∧ (Alone (.qrnd2 x) x r s → d + 1 ≤ n + 1 → dirs (d + 1) w → (s.qcache.filter (fun e => e.1 == t.gcore)).length ≤ 64 →
          done (.qrnd2 x) (runWrites x.d.toNat (p + pointOf w (d + 1) i t.qseed.toNat * 2 ^ 32) 2) []))
  ∧ (∀ (x : XForm) r s i dims, (i = .qrnd x ∧ dims = 1 ∨ i = .qrndf x ∧ dims = 1 ∨ i = .qbern x ∧ dims = 1 ∨ i = .qrnd2 x ∧ dims = 2) →
      Alone i x r s → (s.gridOf r.team).qtabN + 1 < (s.reg r x.b.toNat).toNat + dims - 1 → HandlerReady s r →
      ∃ u, exec i s = .next u ∧ Parked s u r 0x15 0 0 ∧ SameMemory s u)
  ∧ (∀ (x : XForm) r s, Alone (.qldt x) x r s → s.isHelper r = false → s.cur.formation = false →
      let p := s.regRun r x.a.toNat 2
      let n := (s.reg r x.b.toNat).toNat
      let g := (s.team r.team).grid
      ((s.grid g).det = false → n ≤ 4094 → (n = 0 ∨ (p < 2 ^ 56 ∧ p % 128 = 0)) →
        ∃ t, exec (.qldt x) s = .next t ∧ Performed s t r x [] [] ∧ SameMemory s t ∧ t.grid g = { s.grid g with qtabP := p, qtabN := n }
          ∧ (∀ h, h ≠ g → t.grid h = s.grid h) ∧ ∀ e, e ∈ t.qcache ↔ e ∈ s.qcache ∧ e.2.1 ≠ g)
      ∧ ((s.grid g).det = false → (4094 < n ∨ (0 < n ∧ 2 ^ 56 ≤ p)) → HandlerReady s r →
        ∃ t, exec (.qldt x) s = .next t ∧ Parked s t r 0x16 0 0 ∧ t.qcache = s.qcache)
      ∧ ((s.grid g).det = false → n ≤ 4094 → 0 < n → p < 2 ^ 56 → p % 128 ≠ 0 → HandlerReady s r →
        ∃ t, exec (.qldt x) s = .next t ∧ Parked s t r 4 0 0 ∧ t.qcache = s.qcache ∧ t.grid g = s.grid g)
      ∧ ((s.grid g).det = true → HandlerReady s r → ∃ t, exec (.qldt x) s = .next t ∧ Parked s t r 0x19 0 0 ∧ t.qcache = s.qcache))
  ∧ ∀ s core grid d pa v, 2 ≤ d → d ≤ (s.grid grid).qtabN + 1 → s.place grid ((s.grid grid).qtabP + 128 * (d - 2)) 0 = .mem pa v →
      Uncached s → s.bad = [] →
      ∃ t, exec (.tableFetch core grid d) s = .next t ∧ SameMemory s t ∧ (∀ r, t.lane r = s.lane r)
        ∧ t.cachedDir core grid d = some ((List.range 32).map (fun k => leNat (memGetN s.mem (pa + 4 * k) 4)))

/-! ### Tiles, the stash and command rings -/

/-- TALLOC gives the lowest free entry, or 0xFFFFFFFF where there is none; TFREE frees an entry on which no work remains, and waits while some
does; TWAIT waits until its chunks are set; TSTATE reads the entry's summary; a name the team does not hold is TILE_INVALID to TFREE and
TWAIT, and so is a TALLOC of KIND 1 where the gang does not hold the Last; a bad request word is TILE_RANGE (R187, R188, R221 to R225). ACP16
and ACPS16 read 16 bytes, at once or word by word, and post their landing, with the tile FILLING; a landing writes its bytes at their place in
the tile, counts them in their chunk, and makes its operation ready (R189 to R191, R226, R227). -/
def Obligations.Tiles : Prop :=
  (∀ (x : XForm) r s,
      let core := (s.team r.team).gcore
      (Alone (.talloc x) x r s →
        let q := (s.reg r x.b.toNat).toNat
        let base := q / 2 ^ 12 % 2 ^ 10
        let n := q % 2 ^ 8
        let kind := bit x.md.toNat 0
        let good : Prop := q < 2 ^ 22 ∧ q / 2 ^ 8 % 2 ^ 4 = 0 ∧ 0 < n ∧ n ≤ 128 ∧ (base + n) * 512 ≤ (if kind then 2 ^ 19 else s.regionSize r.team)
        let mayHold : Prop := kind = true → s.holdsLast r.team = true
        (mayHold → good → ∀ e, (List.range 64).find? (fun e => (Tab.find s.tiles (tileKey core e)).isNone) = some e →
          ∃ t, exec (.talloc x) s = .next t ∧ Performed s t r x [(x.d.toNat, BitVec.ofNat 32 e)] [] ∧ SameMemory s t
            ∧ Tab.find t.tiles (tileKey core e) =
                some { Tile.zero with team := r.team, slot := (s.team r.team).slot, kind := kind, size := n - 1, base := base }
            ∧ ∀ k, k ≠ tileKey core e → Tab.find t.tiles k = Tab.find s.tiles k)
        ∧ (mayHold → good → (∀ e, e < 64 → (Tab.find s.tiles (tileKey core e)).isSome) →
          ∃ t, exec (.talloc x) s = .next t ∧ Performed s t r x [(x.d.toNat, 0xFFFFFFFF#32)] [] ∧ Quiet s t)
        ∧ (¬ mayHold → HandlerReady s r → ∃ t, exec (.talloc x) s = .next t ∧ Parked s t r 0x0B 0 0 ∧ t.tiles = s.tiles ∧ SameMemory s t)
        ∧ (mayHold → ¬ good → HandlerReady s r → ∃ t, exec (.talloc x) s = .next t ∧ Parked s t r 0x0C 0 0 ∧ t.tiles = s.tiles ∧ SameMemory s t))
      ∧ (∀ e y, s.tileName r x.a.toNat = some e → s.heldTile r.team e = some y →
          let k := tileKey core e
          (Alone (.tfree x) x r s → Single s r → y.users = 0 → y.drains = 0 → s.landings = [] →
            (s.team r.team).ring.started = [] →
            ∃ t, exec (.tfree x) s = .next t ∧ t.lane r = ((s.lane r).slotRaised x).letGo x s ∧ Tab.find t.tiles k = none ∧ SameMemory s t)
          ∧ (Alone (.tfree x) x r s → 0 < y.users →
            ∃ t, exec (.tfree x) s = .next t ∧ Quiet s t ∧ t.tiles = s.tiles ∧ HeldIn s t r
              { kind := .tfree, x := x, insn := s.cur.insn, ea := k, pa := 0, v1 := 0, v2 := 0, deadline := none, order := s.nextKey,
                issue := s.cur.num })
          ∧ (Alone (.tstate x) x r s → ∃ t, exec (.tstate x) s = .next t ∧ Performed s t r x [(x.d.toNat, y.summary)] [] ∧ Quiet s t)
          ∧ ∀ m, m = s.regRun r x.b.toNat 4 → m < 2 ^ (y.size + 1) →
            (Alone (.twait x) x r s → y.bitmap &&& m = m → ∃ t, exec (.twait x) s = .next t ∧ Performed s t r x [] [] ∧ Quiet s t)
            ∧ (Alone (.twait x) x r s → y.bitmap &&& m ≠ m →
              ∃ t, exec (.twait x) s = .next t ∧ Quiet s t ∧ HeldIn s t r
                { kind := .twait, x := x, insn := s.cur.insn, ea := k, pa := 0, v1 := m, v2 := 0, deadline := none, order := s.nextKey,
                  issue := s.cur.num }))
      ∧ (∀ e, s.tileName r x.a.toNat = some e → s.heldTile r.team e = none →
          (Alone (.tstate x) x r s → ∃ t, exec (.tstate x) s = .next t ∧ Performed s t r x [(x.d.toNat, 0)] [] ∧ Quiet s t)
          ∧ (∀ i, (i = .tfree x ∨ i = .twait x) → Alone i x r s → HandlerReady s r →
              ∃ t, exec i s = .next t ∧ Parked s t r 0x0B 0 0 ∧ SameMemory s t ∧ t.tiles = s.tiles))
      ∧ (s.tileName r x.a.toNat = none → ∀ i, (i = .tfree x ∨ i = .twait x ∨ i = .tstate x) → Alone i x r s → HandlerReady s r →
          ∃ t, exec i s = .next t ∧ Parked s t r 0x0B 0 0 ∧ SameMemory s t ∧ t.tiles = s.tiles)
      ∧ ∀ h k y, (s.lane r).cond = .held h → h.kind = .tfree → h.ea = k → Single s r → Tab.find s.tiles k = some y → y.users = 0 → y.drains = 0 →
          s.landings = [] → (s.team r.team).ring.started = [] →
          ∃ t, exec (.tileEntryFree r) s = .next t ∧ t.lane r = (s.lane r).letGo h.x s ∧ Tab.find t.tiles k = none ∧ SameMemory s t)
  ∧ ((∀ (x : XForm) r s i e y pas, (i = .acp16 x ∨ i = .acps16 x) → Alone i x r s → s.isHelper r = false → Uncached s → s.bad = [] →
      s.marks = [] → s.l1 = [] → s.landings = [] →
      let src := s.reg64 r x.a.toNat
      let off := (s.reg r x.b.toNat).toNat
      src % (if i = .acps16 x then 4 else 16) = 0 → s.tileName r x.d.toNat = some e → s.heldTile r.team e = some y → off % 16 = 0 →
      off + 16 ≤ (y.size + 1) * 512 → (y.state = 0 ∨ y.state = 1) → bit src 56 = false → s.wordPlaces (s.team r.team).grid src = .ok pas →
      ∃ t, exec i s = .next t ∧ WentOn s t r x ∧ SameMemory s t
        ∧ Tab.find t.tiles (tileKey (s.team r.team).gcore e) = some { y with state := 1 }
        ∧ (∃ o, Tab.find t.ops (s.nextKey + 1) = some o ∧ o.lane = r ∧ o.wait = .landing s.nextKey ∧ o.late = none)
        ∧ t.landings.map Prod.snd =
            [{ core := (s.team r.team).gcore, entry := some e, team := r.team, g := r.g, tag := (s.team r.team).tag, off := off,
               data := if i = .acps16 x then pas.flatMap (fun pa => memGetN s.mem pa 4) else memGetN s.mem (pas.headD 0) 16,
               closing := bit x.md.toNat 0, op := some (s.nextKey + 1), cmd := none, order := s.nextKey }])
    ∧ ∀ s n l e y o p, s.landings = [(n, l)] → l.data ≠ [] → l.entry = some e → l.cmd = none → l.op = some o → Tab.find s.ops o = some p →
      Tab.find s.tiles (tileKey l.core e) = some y → y.team = l.team → (s.team l.team).tag = l.tag → y.kind = false →
      Uncached s → s.waiters = [] → (Tab.find s.teams l.team).isSome → Memory.wf (s.team l.team).localMem = true →
      s.tileWaiters (tileKey l.core e) = [] →
      ∃ t, exec (.tileLanding n) s = .next t ∧ t.landings = [] ∧ WroteLocal s t l.team (y.base * 512 + l.off) l.data
        ∧ Tab.find t.tiles (tileKey l.core e) = some (y.landed (l.off / 512) l.data.length l.closing)
        ∧ Tab.find t.ops o = some { p with wait := .ready, late := none } ∧ ∀ r, t.lane r = s.lane r)

/-- SMAP adds a mapping of a free, aligned range; SUNMAP takes one away whose sectors are CLEAN; SFLUSH writes a DIRTY sector of its range to
its line and leaves it CLEAN; SINV makes every sector of its range INVALID (R184 to R186, R218 to R220). -/
def Obligations.Stash : Prop :=
  ∀ (x : XForm) r s,
    let l := (s.reg r x.a.toNat).toNat
    let n := (s.reg r x.c.toNat).toNat
    let ga := s.reg64 r x.b.toNat
    let maps := (s.team r.team).stash
    let inRange : Prop := l % 256 = 0 ∧ n % 256 = 0 ∧ l < 2 ^ 19 ∧ l + n ≤ s.regionSize r.team
    (Alone (.smap x) x r s → inRange → n ≠ 0 → ga % 256 = 0 → bit ga 56 = false → bit (ga + n - 1) 56 = false → maps = [] → s.coreMappings (s.team r.team).gcore < 32 →
      ∃ t, exec (.smap x) s = .next t ∧ Performed s t r x [] [] ∧ SameMemory s t
        ∧ (t.team r.team).stash = [{ laddr := l, gaddr := ga, len := n, sectors := [] }])
    ∧ (Alone (.smap x) x r s → inRange → n ≠ 0 → (∃ m ∈ maps, m.laddr < l + n ∧ l < m.laddr + m.len) → HandlerReady s r →
      ∃ t, exec (.smap x) s = .next t ∧ Parked s t r 0x0A 0 0 ∧ SameMemory s t ∧ (t.team r.team).stash = maps)
    ∧ (∀ m, Alone (.sunmap x) x r s → maps = [m] → m.laddr = l → m.len = n →
        (∀ e ∈ m.sectors, ∃ pa, e.2 = .clean pa) → (∀ k, k < n / 64 → ∃ pa, Tab.find m.sectors k = some (.clean pa)) →
      ∃ t, exec (.sunmap x) s = .next t ∧ Performed s t r x [] [] ∧ SameMemory s t ∧ (t.team r.team).stash = [])
    ∧ (∀ m k pa p v, Alone (.sflush x) x r s → x.fs = 0 → inRange → n ≠ 0 → maps = [m] → m.sectors = [(k, .dirty pa)] →
        l ≤ m.laddr + 64 * k → m.laddr + 64 * k < l + n → s.place (s.team r.team).grid (m.gaddr + 64 * k) 1 = .mem p v → isHost p = false →
        (s.team r.team).localBad = [] → Memory.wf s.mem = true →
      ∃ t, exec (.sflush x) s = .next t ∧ Performed s t r x [] [] ∧ Wrote s t pa (memGetN (s.team r.team).localMem (m.laddr + 64 * k) 64)
        ∧ (t.team r.team).stash = [{ m with sectors := [(k, .clean pa)] }])
    ∧ (Alone (.sinv x) x r s → inRange → n ≠ 0 →
      ∃ t, exec (.sinv x) s = .next t ∧ Performed s t r x [] [] ∧ SameMemory s t
        ∧ (t.team r.team).stash = maps.map (fun m => { m with sectors := m.sectors.filter (fun e =>
            decide (m.laddr + 64 * e.1 < l) || decide (l + n ≤ m.laddr + 64 * e.1)) }))

/-- The ring engine: a TAIL store within the ring is taken and one beyond it halts the ring with code 6; a NOP starts with nothing to move and
a reserved kind halts the ring with code 1; FILL, COPYIN, COPYLOCAL and MCASTIN of one row send its bytes towards their places in local memory,
COPYOUT writes one row to global memory, each with HEAD raised and the command started; so do FILL, COPYIN and COPYLOCAL of any number of rows,
into local memory or into a tile, which then is FILLING, but a command waits for a DRAINING tile, and one whose tile the team does not hold or
that is READY, without REARM, halts the ring with code 4; a COPYOUT from a READY tile makes it DRAINING, and at its end READY, or EMPTY with CLR,
and it waits for a tile that is not yet READY; what a command has sent is written where it lands; a command all of whose words have landed and
been acknowledged completes, and DONE follows, but not past one that has failed (R189 to R199). -/
def Obligations.CommandRings : Prop :=
  ∀ s t, s.ringLive t = true → (s.team t).localBad = [] → Uncached s → s.waiters = [] → s.bad = [] → (Tab.find s.teams t).isSome →
    Memory.wf (s.team t).localMem = true → Memory.wf s.mem = true →
    let ring := (s.team t).ring
    let g := (s.team t).grid
    let next := (ring.head + 1) % 2 ^ 32
    let loc := (s.team t).localMem
    let at_ := 64 + 32 * (ring.head % 2 ^ (s.gridOf t).cring)
    let w (k : Nat) : Nat := leNat (memGetN loc (at_ + 8 * k) 8)
    let e := entryOf (w 0) (w 1) (w 2) (w 3)
    let halted (x : State) (code : Nat) : Prop :=
      (x.team t).ring = { ring with halted := true, err := 2 ^ 31 + code * 2 ^ 16 + ring.head % 2 ^ 16 }
        ∧ WroteLocal s x t 12 (leBytes 4 (2 ^ 31 + code * 2 ^ 16 + ring.head % 2 ^ 16))
    let started (x : State) : Prop :=
      (x.team t).ring = { ring with head := next, started := (x.team t).ring.started }
        ∧ (x.team t).ring.started.map (fun c => (c.index, c.complete)) = [(ring.head, false)] ∧ ∀ r, x.lane r = s.lane r
    let mine (l : Landing) : Prop := l.cmd = some (t, ring.head)
    let row (i : Instr) (u off : Nat) (bs : List Byte) : Prop :=
      ∃ x, exec i s = .next x ∧ started x ∧ WroteLocal s x t 4 (leBytes 4 next)
        ∧ (∀ f ∈ x.landings, f ∈ s.landings ∨ (mine f.2 ∧ f.2.team = u ∧ f.2.entry = none ∧ f.2.op = none ∧ f.2.tag = (s.team u).tag
            ∧ off ≤ f.2.off ∧ f.2.data = (bs.drop (f.2.off - off)).take f.2.data.length))
        ∧ ∀ k, k < bs.length → ∃ f ∈ x.landings, mine f.2 ∧ f.2.off ≤ off + k ∧ off + k < f.2.off + f.2.data.length
    let clear (u off : Nat) : Prop := u ≠ t ∨ off + e.len ≤ 4 ∨ 8 ≤ off
    let v := leNat (memGetN loc 0 4)
    ((v + (2 ^ 32 - ring.head)) % 2 ^ 32 ≤ 2 ^ (s.gridOf t).cring →
        exec (.tailObservation t) s = .next (s.modTeam t (fun y => { y with ring := { ring with tail := v } })))
    ∧ (2 ^ (s.gridOf t).cring < (v + (2 ^ 32 - ring.head)) % 2 ^ 32 → bit ring.err 31 = false →
          ∃ x, exec (.tailObservation t) s = .next x ∧ halted x 6)
    ∧ (ring.head ≠ ring.tail → ring.started = [] →
        (w 0 = 0 → w 1 = 0 → w 2 = 0 → w 3 = 0 → ∃ x, exec (.ringNop t) s = .next x ∧ started x ∧ WroteLocal s x t 4 (leBytes 4 next))
        ∧ (6 ≤ e.kind → bit ring.err 31 = false → ∃ x, exec (.ringNop t) s = .next x ∧ halted x 1)
        ∧ (e.formed = true → e.aligned = true → e.tv = false → e.rows = 1 → 0 < e.len →
            (∀ u off, s.rowPlace t e.laddr e.len true = some (u, off) →
              (e.kind = 5 → row (.fill t) u off ((List.range (e.len / 4)).flatMap (fun _ => leBytes 4 e.gaddr)))
              ∧ (∀ v src, e.kind = 3 → s.rowPlace t e.gaddr e.len false = some (v, src) → (s.team v).localBad = [] → clear v src →
                  row (.copylocal t) u off (memGetN (s.team v).localMem src e.len))
              ∧ ∀ pe, (∀ k, k < e.len / 4 → ∃ ver, s.place g (e.gaddr + 4 * k) 0 = .mem (pe + 4 * k) ver) →
                  (e.kind = 1 → row (.copyin t) u off (memGetN s.mem pe e.len))
                  ∧ (e.kind = 4 → (s.gridOf t).gangSize = 1 → s.gangMember t 0 = some t → (s.team t).gate = true → e.laddr < 2 ^ 19 →
                      row (.mcastin t) u off (memGetN s.mem pe e.len)))
            ∧ ∀ u off pe, e.kind = 2 → s.rowPlace t e.laddr e.len false = some (u, off) → (s.team u).localBad = [] → clear u off →
                (∀ k, k < e.len / 4 → (s.tlbHit g (e.gaddr + 4 * k)).isSome = true
                  ∧ ∃ ver, s.place g (e.gaddr + 4 * k) 1 = .mem (pe + 4 * k) ver) →
                ∃ x, exec (.copyout t) s = .next x ∧ started x
                  ∧ (∀ a, memGet x.mem a =
                      if pe ≤ a ∧ a < pe + e.len then (memGetN (s.team u).localMem off e.len).getD (a - pe) 0 else memGet s.mem a)
                  ∧ ∀ k a, memGet (x.team k).localMem a =
                      if k = t ∧ 4 ≤ a ∧ a < 8 then (leBytes 4 next).getD (a - 4) 0 else memGet (s.team k).localMem a))
    ∧ (ring.head ≠ ring.tail → ring.started = [] → e.formed = true → e.aligned = true → 0 < e.len →
        let key := tileKey (s.team t).gcore e.tile
        let inbound (i : Instr) : Prop := (i = .copyin t ∧ e.kind = 1) ∨ (i = .copylocal t ∧ e.kind = 3) ∨ (i = .fill t ∧ e.kind = 5)
        (∀ i, inbound i ∨ (i = .copyout t ∧ e.kind = 2) → e.tv = true → s.heldTile t e.tile = none → bit ring.err 31 = false →
            ∃ x, exec i s = .next x ∧ halted x 4)
        ∧ (∀ rs, s.entryRows t e (s.entryTile t e) = some rs →
            (∀ i (src : Nat → List Byte), inbound i →
              (∀ y, e.tv = true → s.heldTile t e.tile = some y → y.state = 0 ∨ y.state = 1 ∨ (y.state = 2 ∧ e.rearm = true ∧ y.users = 0)) →
              (e.tv = true → (s.heldTile t e.tile).isSome = true) →
              (∀ j, j < e.rows → (src j).length = e.len
                ∧ (e.kind = 5 → src j = (List.range (e.len / 4)).flatMap (fun _ => leBytes 4 e.gaddr))
                ∧ (e.kind = 3 → ∃ v o, s.rowPlace t (e.grow j) e.len false = some (v, o) ∧ (s.team v).localBad = []
                    ∧ clear v o ∧ src j = memGetN (s.team v).localMem o e.len)
                ∧ (e.kind = 1 → 0 ≤ e.grow j ∧ ∃ pe, src j = memGetN s.mem pe e.len
                    ∧ ∀ k, k < e.len / 4 → ∃ ver, s.place g ((e.grow j).toNat + 4 * k) 0 = .mem (pe + 4 * k) ver)) →
              ∃ x, exec i s = .next x ∧ started x ∧ WroteLocal s x t 4 (leBytes 4 next)
                ∧ (∀ y, e.tv = true → s.heldTile t e.tile = some y → Tab.find x.tiles key =
                    some { (if y.state = 2 then { y with bitmap := 0, counts := [], clr := false } else y) with state := 1 })
                ∧ ∀ j (p : RowAt), rs[j]? = some p → ∀ k, k < e.len → ∃ f ∈ x.landings, mine f.2 ∧ f.2.op = none
                    ∧ (match p with
                       | .tile off => f.2.entry = some e.tile ∧ f.2.team = t ∧ f.2.off ≤ off + k ∧ off + k < f.2.off + f.2.data.length
                           ∧ f.2.data.getD (off + k - f.2.off) 0 = (src j).getD k 0
                       | .region u off => f.2.entry = none ∧ f.2.team = u ∧ f.2.off ≤ off + k ∧ off + k < f.2.off + f.2.data.length
                           ∧ f.2.data.getD (off + k - f.2.off) 0 = (src j).getD k 0))
            ∧ (∀ i y, inbound i → e.tv = true → s.heldTile t e.tile = some y →
                (∀ j, j < e.rows → e.kind = 3 → (s.rowPlace t (e.grow j) e.len false).isSome = true) →
                (y.state = 3 → exec i s = .next s)
                ∧ (y.state = 2 → e.rearm = false → bit ring.err 31 = false → ∃ x, exec i s = .next x ∧ halted x 4))
            ∧ ∀ y off pe, e.kind = 2 → e.rows = 1 → e.tv = true → s.heldTile t e.tile = some y → rs = [.tile off] →
                (y.state ≠ 2 → y.state ≠ 3 → exec (.copyout t) s = .next s)
                ∧ (y.state = 2 ∨ y.state = 3 → (s.last (s.team t).cluster).mbBad = [] → (y.kind = false → clear t (y.base * 512 + off)) →
                  (∀ k, k < e.len / 4 → (s.tlbHit g (e.gaddr + 4 * k)).isSome = true
                    ∧ ∃ ver, s.place g (e.gaddr + 4 * k) 1 = .mem (pe + 4 * k) ver) →
                  let src := if y.kind then memGetN (s.last (s.team t).cluster).mb (y.base * 512 + off) e.len
                    else memGetN loc (y.base * 512 + off) e.len
                  ∃ x, exec (.copyout t) s = .next x ∧ started x
                    ∧ Tab.find x.tiles key = some { y with state := 3, drains := y.drains + 1, clr := y.clr || e.clr }
                    ∧ ∀ a, memGet x.mem a = if pe ≤ a ∧ a < pe + e.len then src.getD (a - pe) 0 else memGet s.mem a)))
    ∧ (∀ n l c, s.landings = [(n, l)] → l.data ≠ [] → l.entry = none → l.cmd = some c → l.op = none → l.team = t → l.tag = (s.team t).tag →
        ∃ x, exec (.tileLanding n) s = .next x ∧ x.landings = [] ∧ WroteLocal s x t l.off l.data ∧ ∀ r, x.lane r = s.lane r)
    ∧ ∀ c n, ring.started = [c] → c.index = n → c.complete = false → ring.done = n →
        (∀ f ∈ s.landings, f.2.cmd ≠ some (t, n)) → (∀ f ∈ s.sent, f.2.cmd ≠ some (t, n)) →
        (∀ y, bits c.w0 3 0 = 2 → bit c.w0 21 = true → s.heldTile t (bits c.w0 27 22) = some y →
          ∃ x, exec (.commandCompletion t n) s = .next x ∧ Tab.find x.tiles (tileKey (s.team t).gcore (bits c.w0 27 22)) = some (
            if y.drains ≤ 1 then
              (if y.clr = true ∧ y.users = 0 then { y with state := 0, bitmap := 0, counts := [], clr := false, drains := 0 }
               else { y with drains := 0, state := 2 })
            else { y with drains := y.drains - 1 })) ∧
        (c.failed = false → ∃ x, exec (.commandCompletion t n) s = .next x ∧ (x.team t).ring = { ring with done := (n + 1) % 2 ^ 32, started := [] }
          ∧ WroteLocal s x t 8 (leBytes 4 ((n + 1) % 2 ^ 32)) ∧ ∀ r, x.lane r = s.lane r)
        ∧ (c.failed = true → ∃ x, exec (.commandCompletion t n) s = .next x ∧ (x.team t).ring = { ring with started := [] } ∧ SameMemory s x
          ∧ ∀ r, x.lane r = s.lane r)

/-! ### The Last and the Treadle -/

/-- The matrix instructions of a member of the holding gang post one request, in which their lane is held until acceptance; a team that does
not hold the Last faults with TILE_INVALID, and an operand tile that is not READY leaves the lane where it is (R319, R326, R340, R343 to
R349, R352). A Last accepts a posted request that passes its checks: its lane goes on with an operation in flight until the request has
executed, and an LSWAP advances GL; a bad MZERO is dropped and its lane faults (R325, R326, R344, R348). -/
def Obligations.MatrixRequests : Prop :=
  (∀ (x : XForm) r s, s.isHelper r = false → r.l < 32 →
      let cl := (s.team r.team).cluster
      let posted (i : Instr) (k : ReqKind) (p : Req → Prop) : Prop :=
        ∃ t q, exec i s = .next t ∧ SameMemory s t
          ∧ HeldIn s t r { kind := .request, x := x, insn := s.cur.insn, ea := cl, pa := 0, v1 := s.nextKey, v2 := 0, deadline := none,
                           order := s.nextKey, issue := s.nextKey }
          ∧ Tab.find (t.last cl).table s.nextKey = some q ∧ t.last cl = { s.last cl with table := (t.last cl).table }
          ∧ q.kind = k ∧ q.x = x ∧ q.team = r.team ∧ q.g = r.g ∧ q.lanes = [r] ∧ q.accepted = false ∧ p q
      let ctl := (s.reg r x.b.toNat).toNat
      (s.holdsLast r.team = true →
        (Alone (.lswap x) x r s → posted (.lswap x) .lswap (fun _ => True))
        ∧ (Alone (.mstat x) x r s → posted (.mstat x) .mstat (fun _ => True))
        ∧ (Alone (.mzero x) x r s → posted (.mzero x) .mzero (fun q => q.ctl = ctl))
        ∧ (Alone (.mdrn x) x r s → ((s.gridOf r.team).det = true → slotRnd ((s.gridOf r.team).slot x.fs.toNat) = 4 → (s.gridOf r.team).ngroups = 1) → ctl < 2 ^ 15 → bit ctl 7 = false → ctl % 2 ^ 7 + x.c.toNat ≤ 128 →
            posted (.mdrn x) .mdrn (fun q => q.ctls = [(ctl, if bit x.md.toNat 0 then (s.reg r x.d.toNat).toNat else 0)]))
        ∧ ∀ a b, s.matSource r x.a.toNat = some a →
          (Alone (.last x) x r s → s.matSource r x.b.toNat = some b → s.sourceReady r.team a = true → s.sourceReady r.team b = true →
            (a.2.2 = 0 ∨ 32768 ≤ a.2.1) →
            (let slot := (s.gridOf r.team).slot x.fs.toNat
             slotMx slot = true → 1024 * x.c.toNat + 4 * planeK (slotFmt slot) ≤ if b.2.2 = 0 then 32768 else b.2.1) →
            posted (.last x) .last (fun q => q.src = a ∧ q.scale = b))
          ∧ (Alone (.last x) x r s → s.matSource r x.b.toNat = some b → s.sourceReady r.team a = false → exec (.last x) s = .next s)
          ∧ (Alone (.mstr x) x r s → s.matSource r x.c.toNat = some b → s.sourceReady r.team a = true → s.sourceReady r.team b = true →
            posted (.mstr x) .mstr (fun q => q.src = a ∧ q.scale = b ∧ q.ctl = ctl ∧ q.quarter = r.l / 8 ∧ q.gen = ctl / 2 ^ 16)))
      ∧ (s.holdsLast r.team = false → HandlerReady s r → ∀ i, (i = .last x ∨ i = .lswap x ∨ i = .mstr x ∨ i = .mdrn x ∨ i = .mzero x ∨ i = .mstat x) →
          Alone i x r s → ∃ t, exec i s = .next t ∧ Parked s t r 0x0B 0 0 ∧ SameMemory s t ∧ t.lasts = s.lasts))
  ∧ (∀ s cl n q r, (s.last cl).table = [(n, q)] → q.accepted = false → q.lanes = [r] → (Tab.find s.teams r.team).isSome →
      let zeroOk := bits q.ctl 31 15 = 0 ∧ bit q.ctl 7 = false ∧ ctlRow q.ctl + ctlLow q.ctl ≤ 127
      ((q.kind = .last ∨ q.kind = .lswap ∨ q.kind = .mstat ∨ (q.kind = .mzero ∧ zeroOk)
          ∨ (q.kind = .mstr ∧ ∃ b, s.mstrCheck (s.last cl) q = .ok b)
          ∨ (q.kind = .mdrn ∧ ∃ c, q.ctls = [c] ∧ s.drainFault q r c.2 = none)) →
        ∃ t p, exec (.requestAcceptance cl) s = .next t ∧ (t.last cl).table = [(n, p)] ∧ p.accepted = true ∧ p.kind = q.kind ∧ p.lanes = [r]
          ∧ (t.last cl).gl = (if q.kind = .lswap then ((s.last cl).gl + 1) % 2 ^ 16 else (s.last cl).gl)
          ∧ t.lane r = { s.lane r with cond := .running, pc := (s.lane r).pc + 8, since := s.cycle + 1, released := none }
          ∧ (∀ u, u ≠ r → t.lane u = s.lane u) ∧ SameMemory s t
          ∧ ∃ k o, Tab.find t.ops k = some o ∧ o.lane = r ∧ o.wait = .request cl n ∧ o.slot = slotOf q.x ∧ o.late = none)
      ∧ ∀ h, q.kind = .mzero → ¬ zeroOk → (s.lane r).cond = .held h → HandlerReady s r →
        ∃ t, exec (.requestAcceptance cl) s = .next t ∧ (t.last cl).table = [] ∧ ParkedHeld s t r h 0x0C 0 ∧ SameMemory s t)

/-- Accepted requests as they execute: LAST loads the shadow plane, LSWAP swaps the planes and advances GA, a pass adds each column's product
to its accumulator word, or RES63 element, and touches no other row, MZERO clears its rows, MDRN and MSTAT give their lanes the drained
elements and the status, an MDRN under RS carrying the advance of the dither phase to its completion; each leaves the table, its operation
ready (R58, R322, R323, R326 to R333, R343 to R352). -/
def Obligations.MatrixEngine : Prop :=
  ∀ s cl n q r k o, (s.last cl).table = [(n, q)] → q.accepted = true → q.lanes = [r] → s.ops = [(k, o)] → o.wait = .request cl n →
    o.lane = r → o.late = none → o.phase = 0 → (s.last cl).mbBad = [] →
    let l := s.last cl
    let slot := s.reqSlot q
    let doneAt (phase : Nat) (t : State) (ws : List (Nat × Word)) : Prop :=
      (t.last cl).table = [] ∧ t.ops = [(k, { o with wait := .ready, writes := ws, phase := phase })] ∧ SameMemory s t
        ∧ ∀ u, t.lane u = s.lane u
    let done := doneAt 0
    (q.kind = .last → ∃ t, exec (.lastExecute cl n) s = .next t ∧ done t o.writes
      ∧ t.last cl = { l with table := [], shv := true, shadow := loadPlane l.mb q.src.1 (q.scale.1 + 1024 * q.x.c.toNat) slot })
    ∧ (q.kind = .lswap → ∃ t, exec (.lswapExecute cl n) s = .next t ∧ done t o.writes
      ∧ t.last cl = { l with table := [], shv := false, active := l.shadow, shadow := l.active, ga := (l.ga + 1) % 2 ^ 16 })
    ∧ (q.kind = .mstr →
        let a := accTile q.x.d
        let m := ctlRow q.ctl + r.l % 8
        let row := q.ctl % 256 + r.l % 8
        let w := fmtWidth (slotFmt slot)
        let base := q.src.1 + row * rowBytes (planeK l.active.fmt) (slotFmt slot)
        let sbase := q.scale.1 + row * (planeK l.active.fmt / 32)
        m < 128 →
        ∃ t, exec (.mstrPass cl [n]) s = .next t ∧ done t o.writes ∧ (t.last cl).active = l.active ∧ (t.last cl).mb = l.mb
          ∧ (q.res = false → (∀ c, c < 128 → (t.last cl).accWord a m c =
                (passColumn l.active (fun i => sourceVal (slotFmt slot) (slotFtz slot) (elementAt l.mb base w i))
                  (fun b => if slotMx slot then (memGet l.mb (sbase + b)).toNat else 0x7F) c (l.accWord a m c)).1)
              ∧ ∀ a' m' c, m' < 128 → c < 128 → (a', m') ≠ (a, m) → (t.last cl).accWord a' m' c = l.accWord a' m' c)
          ∧ (q.res = true → (∀ c, c < 128 → (t.last cl).accRes a m c =
                resAdd (l.accRes a m c) (resEncode (intColumn l.active (fun i => signedOf 8 (elementAt l.mb base 8 i)) c)))
              ∧ (t.last cl).count a m = l.count a m + planeK l.active.fmt
              ∧ ∀ a' m' c, m' < 128 → c < 128 → (a', m') ≠ (a, m) → (a', m') ≠ (a + 1, m) →
                  (t.last cl).accWord a' m' c = l.accWord a' m' c))
    ∧ (q.kind = .mzero → (∀ e ∈ q.rows, e.2 < 128) →
        ∃ t, exec (.mzeroExecute cl n) s = .next t ∧ done t o.writes
          ∧ ∀ a m c, m < 128 → c < 128 → (t.last cl).accWord a m c = if (a, m) ∈ q.rows then 0 else l.accWord a m c)
    ∧ (∀ c, q.kind = .mdrn → bit q.x.md.toNat 0 = false → q.ctls = [c] → o.writes ≠ [] →
        (∀ e ∈ s.drainElements l q c.1, e.trap = false) →
        ∃ t, exec (.mdrnExecute cl n) s = .next t
          ∧ doneAt (if slotRnd slot = 4 then 1 else 0) t
              (runWrites q.x.d.toNat (packElements (fmtWidth (slotFmt slot)) (s.drainElements l q c.1)) (s.drainBytes q / 4))
          ∧ (t.team q.team).dphase = (s.team q.team).dphase)
    ∧ (q.kind = .mstat → o.writes ≠ [] →
        ∃ t, exec (.mstatExecute cl n) s = .next t ∧ done t (runWrites q.x.d.toNat (s.statusWord cl n q) 2) ∧ t.last cl = { l with table := [] })

/-- TWALK registers a walk under the lowest free id, or gives 0xFFFFFFFF where there is none, TWNEXT hands out a tuple not yet handed out, in
row-major order in deterministic mode, and clears its status once all are out, TWDONE ends the walk (R335, R336, R353 to R355). -/
def Obligations.TreadleWalks : Prop :=
  ∀ (x : XForm) r s, s.isHelper r = false → s.holdsLast r.team = true →
    let cl := (s.team r.team).cluster
    let id := (s.reg r x.a.toNat).toNat
    let p := x.md.toNat / 2
    let value (es : List Nat) (n : Nat) : Nat :=
      let c := tupleAt es n
      c.getD 0 0 + c.getD 1 0 * 2 ^ 32 + c.getD 2 0 * 2 ^ 64 + c.getD 3 0 * 2 ^ 96
    (∀ k, Alone (.twalk x) x r s →
      let a := s.reg64 r x.a.toNat
      let b := (s.reg r x.b.toNat).toNat
      let tiles := (List.range 4).filterMap (fun i => if bit b (8 * i + 7) then some (bits b (8 * i + 5) (8 * i)) else none)
      walkBad x.c.toNat a b = false → (∀ e ∈ tiles, (s.heldTile r.team e).isSome) →
      ((∀ j, j < 16 → (Tab.find (s.last cl).walks j).isSome) →
        ∃ t, exec (.twalk x) s = .next t ∧ Performed s t r x (runWrites x.d.toNat 0xFFFFFFFF 1) [] ∧ Quiet s t)
      ∧ ((List.range 16).find? (fun k => (Tab.find (s.last cl).walks k).isNone) = some k →
      ∃ t, exec (.twalk x) s = .next t ∧ Performed s t r x (runWrites x.d.toNat k 1) [] ∧ SameMemory s t
        ∧ Tab.find (t.last cl).walks k =
            some { grid := (s.team r.team).grid, teamid := (s.team r.team).teamid, levels := x.c.toNat, extents := walkExtents a, bindings := tiles,
                   handed := [] }))
    ∧ ∀ w, s.walkOf r.team id = some w →
      (Alone (.twnext x) x r s → w.handed.length < w.total →
        ∃ t n, exec (.twnext x) s = .next t ∧ n < w.total ∧ n ∉ w.handed ∧ SameMemory s t
          ∧ Performed s t r x (runWrites x.d.toNat (value w.extents n) 4) [(p, true)]
          ∧ Tab.find (t.last cl).walks id = some { w with handed := n :: w.handed }
          ∧ ((s.gridOf r.team).det = true → ∀ m, m < n → m ∈ w.handed))
      ∧ (Alone (.twnext x) x r s → w.total ≤ w.handed.length →
        ∃ t, exec (.twnext x) s = .next t ∧ Performed s t r x [] [(p, false)] ∧ Quiet s t)
      ∧ (Alone (.twdone x) x r s →
        ∃ t, exec (.twdone x) s = .next t ∧ Performed s t r x [] [] ∧ SameMemory s t ∧ Tab.find (t.last cl).walks id = none)

/-! ### The Heel, time and collectives -/

/-- HSTEP advances %step to its target, gives it to d, and is held while a peer lags too far; HREAD reads an entry; a heartbeat goes out every
10 µs, in class CONTROL, and one that arrives renews its sender's entry; peers unheard become LATE and SILENT (R472 to R479). GETTIME gives the device time
to d once its target is reached, at once where there is none or it is more than 2^36 ns ahead; else the lane is held, and goes on when the
time comes; into an s-register it does nothing where no active lane is real (R390, R392). -/
def Obligations.HeelAndTime : Prop :=
  ((∀ (x : XForm) r s, s.heldIn .hstep = [] →
      let goal := if x.a = 255 then (s.heelStep + 1) % 2 ^ 32 else (s.reg r x.a.toNat).toNat
      (Alone (.hstep x) x r s → s.isHelper r = false →
        (newer goal s.heelStep = false →
          ∃ t, exec (.hstep x) s = .next t ∧ Performed s t r x (runWrites x.d.toNat s.heelStep 1) [] ∧ Quiet s t)
        ∧ (newer goal s.heelStep = true → s.heelStalls goal = false →
          ∃ t, exec (.hstep x) s = .next t ∧ Performed s t r x (runWrites x.d.toNat goal 1) [] ∧ SameMemory s t ∧ t.heelStep = goal)
        ∧ (newer goal s.heelStep = true → s.heelStalls goal = true →
          ∃ t, exec (.hstep x) s = .next t ∧ Quiet s t ∧ HeldIn s t r
            { kind := .hstep, x := x, insn := s.cur.insn, ea := 0, pa := 0, v1 := goal, v2 := 0, deadline := none, order := s.cur.num,
              issue := s.cur.num }))
      ∧ (Alone (.hstep x) x r s → s.isHelper r = true → ∃ t, exec (.hstep x) s = .next t ∧ Performed s t r x [] [] ∧ Quiet s t)
      ∧ (Alone (.hread x) x r s →
        ∃ t, exec (.hread x) s = .next t ∧ Performed s t r x (runWrites x.d.toNat (s.heelEntry (s.reg r x.a.toNat).toNat) 4) [] ∧ Quiet s t))
    ∧ ∀ s c, s.cohort = some c →
      (s.lastHeartbeat + 10000 ≤ s.ns →
        ∃ t q, exec .heartbeatSend s = .next t ∧ t.lastHeartbeat = s.ns ∧ t.outgoing = s.outgoing ++ [.heartbeat c.ident c.own s.heelStep s.ns]
          ∧ Tab.find t.sent s.nextKey = some q ∧ q.cls = 3 ∧ SameMemory s t ∧ ∀ r, t.lane r = s.lane r)
      ∧ ∀ i e, s.heldIn .hstep = [] → i ≠ c.own → Tab.find c.entries i = some e →
        let entry (t : State) : Option HeelEntry := t.cohort.bind (fun c => Tab.find c.entries i)
        (∀ step, i < c.size → e.state ≠ 4 → ∃ t, exec (.heartbeat c.ident i step) s = .next t ∧ SameMemory s t ∧ (∀ r, t.lane r = s.lane r)
          ∧ entry t = some { heard := s.ns, step := if newer step e.step then step else e.step, state := 1 })
        ∧ (∀ ident step, ident ≠ c.ident → exec (.heartbeat ident i step) s = .next (s.count 6 0 3))
        ∧ (e.state = 1 → e.heard + c.tLate * 1000 < s.ns →
          ∃ t, exec (.peerLate i) s = .next t ∧ entry t = some { e with state := 2 } ∧ SameMemory s t)
        ∧ (e.state = 1 ∨ e.state = 2 → e.heard + c.tSilent * 1000 < s.ns →
          ∃ t, exec (.peerSilent i) s = .next t ∧ entry t = some { e with state := 3 } ∧ SameMemory s t))
  ∧ ((∀ (x : XForm) r s, Alone (.gettime x) x r s → s.heldIn .gettime = [] →
      let goal := s.reg64 r x.a.toNat
      let group := 128 ≤ x.d.toNat ∧ x.d.toNat < 192
      (s.isHelper r = true → group → ∃ t, exec (.gettime x) s = .next t ∧ Performed s t r x [] [] ∧ SameMemory s t)
      ∧ ((s.isHelper r = true → ¬ group) → (x.a = 255 ∨ goal ≤ s.ns ∨ s.ns + 2 ^ 36 < goal) →
        ∃ t, exec (.gettime x) s = .next t ∧ Performed s t r x (pairWrites x.d.toNat s.ns) [] ∧ SameMemory s t)
      ∧ ((s.isHelper r = true → ¬ group) → x.a ≠ 255 → s.ns < goal → goal ≤ s.ns + 2 ^ 36 →
        ∃ t, exec (.gettime x) s = .next t ∧ SameMemory s t ∧ HeldIn s t r
          { kind := .gettime, x := x, insn := s.cur.insn, ea := 0, pa := 0, v1 := goal, v2 := 0, deadline := none, order := s.cur.num,
            issue := s.cur.num }))
    ∧ ∀ s r h, (s.lane r).cond = .held h → h.kind = .gettime → (Tab.find s.teams r.team).isSome →
      (h.x.a ≠ 255 → s.ns < h.v1 → h.v1 ≤ s.ns + 2 ^ 36 → exec (.gettimeRelease r) s = .next s)
      ∧ (h.v1 ≤ s.ns → s.heldIn .gettime = [(r, h)] →
        ∃ t o, exec (.gettimeRelease r) s = .next t ∧ SameMemory s t
          ∧ t.lane r = { s.lane r with cond := .running, pc := (s.lane r).pc + 8, since := s.cycle + 1, released := none }
          ∧ Tab.find t.ops s.nextKey = some o ∧ o.lane = r ∧ o.wait = .ready ∧ o.writes = pairWrites h.x.d.toNat s.ns))

/-- COL posts a contribution to the first hop of its route, CWAIT gives a completion word once it meets the floor and else holds its lane,
whose timeout gives the word as last read, and SLOTQ puts a message into a send queue (R458 to R462, R480 to R482). -/
def Obligations.CollectivePosts : Prop :=
  (∀ (x : XForm) r s bs ds h hs, Alone (.col x) x r s → s.isHelper r = false → Uncached s → s.bad = [] →
    let ea := s.reg64 r x.a.toNat
    let g := (s.team r.team).grid
    let hdr := leNat (bs.take 8)
    let src := leNat ((bs.drop 8).take 8)
    let n := bits hdr 19 16
    let words := (List.range 8).map (fun i => leNat ((bs.drop (16 + 4 * i)).take 4))
    let e := s.groupEntry (bits hdr 31 24)
    ea % 64 = 0 → isFabric ea = false → s.spanRead g ea 64 = .ok (bs, false, s) →
    bits hdr 23 20 = 0 → bits hdr 15 0 = 0 → n ≠ 0 → n ≤ 8 → (∀ w ∈ words.drop n, w = 0) → (∀ b ∈ bs.drop 48, b = 0) →
    src % 16 = 0 → isFabric src = false → geV e = true → words.take n = h :: hs → s.routeOk (h :: hs) = true → s.sealConflict (h :: hs) = false →
    ((s.gridOf r.team).det = true → geK e = geExpect e ∧ geT e = 0
      ∧ (geRes e = true ∨ (routePartial (h :: hs) = false ∧ (h :: hs).any hopSw = false ∧ geFmt e ≠ 3))) →
    s.outgoing.length < 64 → s.spanRead g src (geNelem e * geBytes e) = .ok (ds, false, s) →
    ∃ t tail, exec (.col x) s = .next t ∧ Performed s t r x (runWrites x.d.toNat 0 1) [] ∧ SameMemory s t
      ∧ t.outgoing = s.outgoing ++ .contribution (hopPeer h)
          { group := bits hdr 31 24, step := bits hdr 63 32, src := s.ownIndex, isPartial := false, n := 1, wsum := 0x3F800000,
            data := (s.wire (bits hdr 31 24) (sourceData e ds)).1, det := (s.gridOf r.team).det, hops := h :: hs } :: tail
      ∧ (s.isLocalPeer (hopPeer h) = true → tail = []))
  ∧ (∀ (x : XForm) r s pa v, Alone (.cwait x) x r s → Uncached s → s.bad = [] → s.marks = [] →
    let ea := s.reg64 r x.a.toNat
    let floor := (s.reg r x.d.toNat).toNat
    let tmo := (s.reg r x.c.toNat).toNat
    let w := leNat (memGetN s.mem pa 8)
    ea % 8 = 0 → isFabric ea = false → ((s.gridOf r.team).det = false ∨ tmo = 0) → s.place (s.team r.team).grid ea 0 = .mem pa v →
    (cwordMet w floor = true →
      ∃ t, exec (.cwait x) s = .next t ∧ PerformedMem s t r x (pairWrites x.d.toNat w) [] ∧ SameMemory s t ∧ SameGroupRegs s t)
    ∧ (cwordMet w floor = false →
      ∃ t, exec (.cwait x) s = .next t ∧ SameMemory s t ∧ SameGroupRegs s t ∧ HeldIn s t r
        { kind := .cwait, x := x, insn := s.cur.insn, ea := ea, pa := pa, v1 := floor, v2 := w,
          deadline := if tmo = 0 then none else some (s.cycle + tmo), order := s.nextKey, issue := s.cur.num }))
  ∧ (∀ s r h d pa v, (s.lane r).cond = .held h → h.kind = .cwait → h.deadline = some d → d ≤ s.cycle → (Tab.find s.teams r.team).isSome →
    Uncached s → s.bad = [] → s.place (s.team r.team).grid h.ea 0 = .mem pa v →
    ∃ t, exec (.cwaitTimeout r) s = .next t ∧ SameMemory s t ∧ (∀ q, q ≠ r → t.lane q = s.lane q)
      ∧ Answered s t r h (pairWrites h.x.d.toNat (leNat (memGetN s.mem pa 8))) [])
  ∧ ∀ (x : XForm) r s bs ds p, Alone (.slotq x) x r s → s.isHelper r = false → Uncached s → s.bad = [] →
    let ea := s.reg64 r x.a.toNat
    let g := (s.team r.team).grid
    let src := leNat (bs.take 8)
    let dst := leNat ((bs.drop 8).take 8)
    let len := leNat ((bs.drop 16).take 4)
    let notify := leNat ((bs.drop 24).take 8)
    let qn := (s.reg r x.b.toNat).toNat
    ea % 32 = 0 → isFabric ea = false → s.spanRead g ea 32 = .ok (bs, false, s) → leNat ((bs.drop 20).take 4) = 0 → qn < 64 →
    src % 4 = 0 → isFabric src = false → dst % 4 = 0 → 4 ≤ len → len ≤ 65536 → len % 4 = 0 → notify % 4 = 0 →
    (s.sendQueue qn).peer = some p → s.slotTable.accepts qn len = true → (s.sendQueue qn).full len = false →
    s.spanRead g src len = .ok (ds, false, s) →
    ∃ t, exec (.slotq x) s = .next t ∧ Performed s t r x (runWrites x.d.toNat 0 1) [] ∧ SameMemory s t
      ∧ (t.sendQueue qn).msgs = (s.sendQueue qn).msgs ++ [{ queue := qn, team := r.team, dst := dst, notify := notify, bytes := ds }]

/-- A hop's work on a packet, one from elsewhere or one this device has sent itself: FWD passes it on with the rest of its route. A partial
reducer, where the packet is no duplicate and from no peer withdrawn, adds a contribution to what it has gathered and forwards the sum, marked
partial, once it stands for PARTK contributions or its time is up; it passes on alone one that comes after, and the device every one whose
reduction is the switch's. A final reducer counts an on-time contribution in its step and a late one, weighted, in the next step to close; it
drops one too new, withdrawn, repeated or too late; it closes the step at the quorum, or at its timer, and sends the result with its
completion word. A delivery or multicast hop writes the result at its group's destination and then its completion word, or brings it into the
incoming frame of an idle versioned page, and nothing else in memory; one without a group delivers nothing. A delivery hop passes it on, and
a multicast hop sends a copy to each logical peer of its range. The count of a packet against PARTK is the model's reading, log entry 27
(R417, R456, R461 to R469). -/
def Obligations.Reductions : Prop :=
  -- `o`, for a logical peer, is the next packet out, after `from_`; over a link it is sent in class 1
  let out (s t : State) (from_ : List Outgoing) (p : Nat) (o : Outgoing) : Prop :=
    ∃ tail, t.outgoing = from_ ++ o :: tail ∧ (s.isLocalPeer p = true → tail = [])
      ∧ (s.isLocalPeer p = false → ∃ q, Tab.find t.sent s.nextKey = some q ∧ q.peer = p ∧ q.cls = 1)
  let sum (s t : State) (from_ : List Outgoing) (c : Contribution) : Prop :=
    ∀ h rest, c.hops = h :: rest → out s t from_ (hopPeer h) (.contribution (hopPeer h) c)
  let result (s t : State) (from_ : List Outgoing) (r : ResultPacket) : Prop :=
    ∀ h rest, r.hops = h :: rest → out s t from_ (hopPeer h) (.result (hopPeer h)
      { r with data := (s.wire r.group r.data).1 })
  let ran (i : Instr) (s : State) (p : State → Prop) : Prop := ∃ t, exec i s = .next t ∧ (∀ q, t.lane q = s.lane q) ∧ p t
  -- what a partial reducer forwards
  let forwards (s t : State) (from_ : List Outgoing) (x : Partial_) : Prop :=
    sum s t from_ { group := x.group, step := x.step, src := s.ownIndex, isPartial := true, n := x.n, wsum := x.wsum,
                    data := (s.wire x.group x.acc).1, det := x.det, hops := x.hops }
  (∀ s c h rest, c.hops = h :: rest →
    let left := if s.isLocalPeer (hopPeer h) then s.outgoing.erase (.contribution (hopPeer h) c) else s.outgoing
    let e := s.groupEntry c.group
    let final : Prop := ∀ p ∈ rest, hopAct p ≠ 0
    let alone (t : State) : Prop := SameMemory s t ∧ sum s t left { c with hops := rest }
    (hopAct h = 1 → ran (.fwd (.sum c)) s alone)
    ∧ (hopAct h = 0 → ¬ final → hopSw h = true → ran (.red c) s alone)
    ∧ (hopAct h = 0 → ¬ final → hopSw h = false →
        let k := stepKey c.group c.step
        let x := Tab.getD s.partials k (Partial_.zero c.group c.step e)
        let dropped : Prop := s.withdrawn c.src = true ∨ (c.isPartial = false ∧ c.src ∈ x.seen)
        let late : Prop := x.forwarded = true ∨ (0 < x.n ∧ x.det ≠ c.det)
        let y : Partial_ :=
          { x with first := if x.n = 0 then s.ns else x.first, det := c.det, hops := if x.n = 0 then rest else x.hops, n := x.n + c.n,
                   gathered := x.gathered + 1, wsum := addWeight one32 c.wsum x.wsum, acc := accumulate (geRes e) one32 x.acc c.data,
                   seen := if c.isPartial then x.seen else insertNew c.src x.seen }
        -- T has passed since the first of what is gathered, which is forwarded then, before this contribution
        let timeUp : Prop := 0 < x.n ∧ x.forwarded = false ∧ geT (s.groupEntry x.group) ≠ 0 ∧ x.first + geT (s.groupEntry x.group) * 1000 ≤ s.ns
        (timeUp → ran (.red c) s (fun t => SameMemory s t ∧ (Tab.getD t.partials k x).forwarded = true
          ∧ ∀ h₁ rest₁, x.hops = h₁ :: rest₁ → ∃ tail, t.outgoing = left ++ .contribution (hopPeer h₁)
              { group := x.group, step := x.step, src := s.ownIndex, isPartial := true, n := x.n, wsum := x.wsum,
                data := (s.wire x.group x.acc).1, det := x.det, hops := x.hops } :: tail
            ∧ (dropped → s.isLocalPeer (hopPeer h₁) = true → tail = [])
            ∧ ∀ h₂ rest₂, rest = h₂ :: rest₂ → ¬ dropped → .contribution (hopPeer h₂) { c with hops := rest } ∈ tail))
        ∧ (dropped → ¬ timeUp → ran (.red c) s (fun t => SameMemory s t ∧ t.partials = s.partials ∧ t.outgoing = left))
        ∧ (¬ dropped → ¬ timeUp → late → ran (.red c) s alone)
        ∧ (¬ dropped → ¬ timeUp → ¬ late → y.n < gePartk e → ran (.red c) s (fun t => SameMemory s t ∧ Tab.find t.partials k = some y ∧ t.outgoing = left))
        ∧ (¬ dropped → ¬ timeUp → ¬ late → gePartk e ≤ y.n →
            ran (.red c) s (fun t => SameMemory s t ∧ Tab.find t.partials k = some { y with forwarded := true, acc := [] }
              ∧ forwards s t left y)))
    ∧ (hopAct h = 0 → final → geV e = true → c.step < 2 ^ 32 →
        let g := c.group
        let cl := s.closedOf g
        let next := (cl + 1) % 2 ^ 32
        let d := (cl + 1 + (2 ^ 32 - c.step)) % 2 ^ 32
        let seen := (s.stepOf g c.step).seen
        let counted : Prop := newer c.step ((cl + 16) % 2 ^ 32) = false ∧ s.withdrawn c.src = false ∧ (c.isPartial = true ∨ c.src ∉ seen)
        let onTime : Prop := newer c.step cl = true
        let late : Prop := 1 ≤ d ∧ d ≤ geLmax e
        let ignored (t : State) : Prop := SameMemory s t ∧ t.steps = s.steps ∧ t.outgoing = left ∧ t.closedOf g = cl
        -- the step with the contribution of weight `w` in it
        let sums (x : StepState) (w : Nat) : List Nat × Nat × List Contribution :=
          if c.det then (x.acc, x.w, x.pending ++ [c]) else (accumulate (geRes e) w x.acc c.data, addWeight w c.wsum x.w, x.pending)
        let fits (x : StepState) : Prop := x.det = c.det ∨ x.holds = false
        let x := s.stepOf g c.step
        let y : StepState :=
          { x with det := c.det, non := x.non + c.n, first := some (x.first.getD s.ns), hops := if x.first.isNone then rest else x.hops,
                   acc := (sums x one32).1, w := (sums x one32).2.1, pending := (sums x one32).2.2,
                   seen := if c.isPartial then x.seen else insertNew c.src x.seen }
        let due : Prop := geT e ≠ 0 ∧ c.det = false ∧ y.first.getD 0 + geT e * 1000 ≤ s.ns
        let u := s.stepOf g next
        -- the step to close may close before this contribution counts
        let timeUp : Prop := geT e ≠ 0 ∧ u.det = false ∧ ∃ f, u.first = some f ∧ f + geT e * 1000 ≤ s.ns
        let stays : Prop := u.first = none ∨ (u.non < geKeff e ∧ ¬ timeUp)
        (u.group = g → u.step = next → timeUp → u.non < geKeff e → (s.stepOf g ((next + 1) % 2 ^ 32)).first = none → c.step = next →
          ran (.finalReduction c) s (fun t => SameMemory s t ∧ t.closedOf g = next
            ∧ result s t left { group := g, step := next, word := completionWord next true u.non u.nlate,
                                data := u.acc.map (resultElement e u.w), hops := u.hops }))
        ∧ (x.group = g → x.step = c.step → stays →
          (¬ counted ∨ (¬ onTime ∧ (c.det = true ∨ ¬ late)) → ran (.finalReduction c) s ignored)
          ∧ (counted → onTime → ¬ fits x → ran (.finalReduction c) s ignored)
          ∧ (counted → onTime → fits x → (if c.step = next then y.non < geKeff e ∧ ¬ due else (s.stepOf g next).first = none) →
              ran (.finalReduction c) s (fun t => SameMemory s t ∧ Tab.find t.steps (stepKey g c.step) = some y ∧ t.outgoing = left
                ∧ t.closedOf g = cl))
          ∧ (counted → onTime → fits x → c.step = next → geKeff e ≤ y.non → (s.stepOf g ((next + 1) % 2 ^ 32)).first = none →
              let z := closeSums e y
              ran (.finalReduction c) s (fun t => SameMemory s t ∧ t.closedOf g = next
                ∧ result s t left { group := g, step := next, word := completionWord next false y.non y.nlate,
                                    data := z.1.map (resultElement e z.2), hops := y.hops })))
        ∧ (let w := if geRes e then one32 else lateWeight (geLambda e) d
           x.group = g → x.step = c.step → stays → u.group = g → u.step = next → counted → ¬ onTime → c.det = false → late → (u.det = false ∨ u.holds = false) →
             ran (.finalReduction c) s (fun t => SameMemory s t ∧ t.outgoing = left ∧ t.closedOf g = cl
               ∧ Tab.find t.steps (stepKey g next) = some
                   { u with det := false, nlate := u.nlate + c.n, acc := accumulate (geRes e) w u.acc c.data, w := addWeight w c.wsum u.w }))))
  ∧ (∀ s n x, Tab.find s.partials n = some x → x.forwarded = false → x.n ≠ 0 → geT (s.groupEntry x.group) ≠ 0 →
      (s.ns < x.first + geT (s.groupEntry x.group) * 1000 → exec (.partialTimer n) s = .next s)
      ∧ (x.first + geT (s.groupEntry x.group) * 1000 ≤ s.ns →
          ran (.partialTimer n) s (fun t => SameMemory s t ∧ Tab.find t.partials n = some { x with forwarded := true, acc := [] }
            ∧ forwards s t s.outgoing x)))
  ∧ (∀ s g t0,
      let e := s.groupEntry g
      let next := (s.closedOf g + 1) % 2 ^ 32
      let x := s.stepOf g next
      x.group = g → x.step = next → x.first = some t0 → x.det = false → geT e ≠ 0 → x.non < geKeff e →
      (s.ns < t0 + geT e * 1000 → exec (.stepTimer g) s = .next s)
      ∧ (t0 + geT e * 1000 ≤ s.ns → (s.stepOf g ((next + 1) % 2 ^ 32)).first = none →
          ran (.stepTimer g) s (fun t => SameMemory s t ∧ t.closedOf g = next
            ∧ result s t s.outgoing { group := g, step := next, word := completionWord next true x.non x.nlate,
                                      data := x.acc.map (resultElement e x.w), hops := x.hops })))
  ∧ ∀ s r h rest, r.hops = h :: rest →
    let left := if s.isLocalPeer (hopPeer h) then s.outgoing.erase (.result (hopPeer h) r) else s.outgoing
    let e := s.groupEntry r.group
    let bs := resultBytes e r.data
    let copies := (List.range (geMcn e)).map (fun i => geMcbase e + i)
    let sends (i : Instr) (t : State) : Prop :=
      (rest = [] → t.outgoing = left) ∧ (i = .dlv r → result s t left { r with hops := rest })
      ∧ (∀ n ns, i = .mcast r → rest = n :: ns → geMcbase e + geMcn e ≤ 1024 →
          let copy (p : Nat) : Outgoing := .result p { r with data := (s.wire r.group r.data).1, hops := (n / 1024 * 1024 + p) :: ns }
          (∀ p ∈ copies, copy p ∈ t.outgoing) ∧ ((∀ p ∈ copies, s.isLocalPeer p = true) → t.outgoing = left ++ copies.map copy))
    (hopAct h = 1 → ran (.fwd (.result r)) s (fun t => SameMemory s t ∧ result s t left { r with hops := rest }))
    ∧ ∀ i, ((i = .dlv r ∧ hopAct h = 2) ∨ (i = .mcast r ∧ hopAct h = 3)) →
      (geV e = false → ran i s (fun t => SameMemory s t ∧ sends i t))
      ∧ (geV e = true → geVp e = false → Uncached s → s.waiters = [] → s.bad = [] → Memory.wf s.mem = true → ∀ pa pc v,
          (∀ k, k < bs.length → ∃ ver, s.place s.fabricGrid (geDest e + k) 1 = .mem (pa + k) ver) →
          geCword e % 8 = 0 → (s.tlbHit s.fabricGrid (geCword e)).isSome = true → s.place s.fabricGrid (geCword e) 1 = .mem pc v →
          ran i s (fun t => sends i t
            ∧ (∀ a, memGet t.mem a =
                if pc ≤ a ∧ a < pc + 8 then (leBytes 8 r.word).getD (a - pc) 0
                else if pa ≤ a ∧ a < pa + bs.length then bs.getD (a - pa) 0 else memGet s.mem a)
            ∧ ∀ k a, memGet (t.team k).localMem a = memGet (s.team k).localMem a))
      ∧ (∀ pa v y, geV e = true → geVp e = true → bs ≠ [] → s.place s.fabricGrid (geDest e) 0 = .mem pa (some v) → geDest e % 2 ^ 21 = 0 →
          Tab.find s.versions v = some y → y.state = 0 → newer r.step y.version = true → s.publications = [] → s.bad = [] →
          Memory.wf s.mem = true →
          ∃ t, exec i s = .next t ∧ (∀ q, t.lane q = s.lane q) ∧ Wrote s t (s.incoming v) bs
            ∧ Tab.find t.versions v = some { y with state := 2, incoming := r.step, deferred := decide (y.pins ≠ 0) }
            ∧ t.publications.map Prod.snd = [{ ver := v, step := r.step, data := [], cword := geCword e,
                                               word := r.word % 2 ^ 64 + r.group * 2 ^ 64 }])

/-- The cohort as the host sets it: SET_COHORT makes every peer LIVE, or is refused outside the limits of R472 to R474 (log entry 71); ROSTER
withdraws a peer or adds one, SET_GROUP replaces a group entry and its closed step where no step of it is open, and REG_OBJECT keeps at most
64 objects (R456, R475, R476). -/
def Obligations.CohortSetting : Prop :=
  ∀ s, s.heldIn .hstep = [] →
    let asked (op : Nat) : Prop := s.asks op [] = true
    let answered (t : State) (ws : List Nat) : State := { t with response := ws, doorbell := false }
    (∀ c : CohortCfg, asked 15 → cohortOk c = false → exec (.setCohort c) s = .next (answered s [1]))
    ∧ (∀ c : CohortCfg, asked 15 → cohortOk c = true → ∃ t k, exec (.setCohort c) s = .next t ∧ t.response = [0]
      ∧ t.cohort = some k ∧ t.heelStep = c.step ∧ SameMemory s t
      ∧ k.ident = c.ident ∧ k.own = c.own ∧ k.size = c.size ∧ k.lead = c.lead ∧ k.tLate = c.tLate ∧ k.tSilent = c.tSilent
      ∧ ∀ i, i < c.size → Tab.find k.entries i = some { heard := s.ns, step := c.step, state := 1 })
    ∧ (∀ c : RosterChange, asked 16 → s.cohort = none → exec (.roster [c]) s = .next (answered s [1]))
    ∧ (∀ (c : RosterChange) k e, asked 16 → s.cohort = some k → c.index ≠ k.own → c.index < k.size → Tab.find k.entries c.index = some e →
        s.groups = [] → s.objects = [] →
        let entry (t : State) : Option HeelEntry := t.cohort.bind (fun k => Tab.find k.entries c.index)
        ∃ t, exec (.roster [c]) s = .next t ∧ t.response = [0] ∧ SameMemory s t
          ∧ (c.add = false → entry t = some { e with state := 4 })
          ∧ (c.add = true → e.state = 4 → entry t = some { heard := s.ns, step := c.step, state := 1 })
          ∧ (c.add = true → e.state ≠ 4 → entry t = some { e with state := 1, step := if newer c.step e.step then c.step else e.step })
          ∧ ∀ i, i ≠ c.index → t.cohort.bind (fun k => Tab.find k.entries i) = Tab.find k.entries i)
    ∧ (∀ g entry start, asked 17 → (256 ≤ g ∨ groupBad entry = true → exec (.setGroup g entry start) s = .next (answered s [1]))
        ∧ (g < 256 → groupBad entry = false → s.steps = [] → s.partials = [] →
            exec (.setGroup g entry start) s =
              .next (answered { s with groups := Tab.set s.groups g entry, closed := Tab.set s.closed g ((start + (2 ^ 32 - 1)) % 2 ^ 32) } [0])))
    ∧ ∀ g a, asked 18 →
        exec (.regObject g a true) s = .next (answered { s with objects := s.objects.filter (fun o => decide (o ≠ (g, a))) } [0])
        ∧ ((Tab.find s.grids g).isSome → a % 16 = 0 → (g, a) ∉ s.objects → s.objects.length < 64 →
            exec (.regObject g a false) s = .next (answered { s with objects := s.objects ++ [(g, a)] } [0]))
        ∧ ((Tab.find s.grids g).isSome → a % 16 = 0 → (g, a) ∉ s.objects → 64 ≤ s.objects.length →
            exec (.regObject g a false) s = .next (answered s [1]))

/-! ### System instructions, traps and core events -/

/-- ASSERT passes a lane whose predicate holds, and a helper, and otherwise stops the context with ASSERT set, its lane standing; BRK goes on
and stops a context under a debugger; IDEMB opens a region of an idempotent launch and faults at another one's entry; IDEME closes it (R307,
R308, R311, R312, R314). LAUNCH puts a record's address on the launch queue of its die and gives 0, gives 1 where the queue is full, 2 where
it is not open, 3 where the address is no global one, and faults on one that is not aligned (R375, R391). -/
def Obligations.SystemInstructions : Prop :=
  (∀ (x : XForm) r s,
      let stop (cause addr : Nat) : StopInfo :=
        { cause := cause, place := (s.team r.team).die * 256 + (s.team r.team).core, teamid := (s.team r.team).teamid, pc := s.cur.pc.toNat,
          addr := addr, time := s.now / 100, where_ := r.g * 256 + r.l, count := 1, cycle := s.cycle,
          written := false }
      let y := s.team r.team
      (Undisturbed (.assert x) 0 false s → s.present = [r] → (Tab.find s.teams r.team).isSome →
        (s.isHelper r = true ∨ s.guard x.p x.pn r = true → ∃ t, exec (.assert x) s = .next t ∧ Performed s t r x [] [] ∧ Quiet s t)
        ∧ (s.isHelper r = false → s.guard x.p x.pn r = false → (s.gridOf r.team).stop = none →
            exec (.assert x) s = .next (s.setGrid y.grid { s.gridOf r.team with stop := some (stop (512 + 0x1D) (s.reg64 r x.a.toNat)) })))
      ∧ (Alone (.brk x) x r s →
          ((s.gridOf r.team).attached = false ∨ s.isHelper r = true → ∃ t, exec (.brk x) s = .next t ∧ Performed s t r x [] [] ∧ Quiet s t)
          ∧ ((s.gridOf r.team).attached = true → s.isHelper r = false → (s.gridOf r.team).stop = none →
            ∃ t, exec (.brk x) s = .next t ∧ Performed s t r x [] [] ∧ SameMemory s t ∧ SameGroupRegs s t
              ∧ t.grids = Tab.set s.grids y.grid { s.gridOf r.team with stop := some (stop (x.c.toNat * 2 ^ 16 + 0x1C) 0) }))
      ∧ (Alone (.idemb x) x r s →
          ((s.gridOf r.team).idem = false ∨ (y.inRegion = true ∧ y.idemEntry = s.cur.pc) →
            ∃ t, exec (.idemb x) s = .next t ∧ Performed s t r x [] [] ∧ Quiet s t)
          ∧ ((s.gridOf r.team).idem = true → y.inRegion = false →
            ∃ t, exec (.idemb x) s = .next t ∧ Performed s t r x [] [] ∧ SameMemory s t ∧ SameGroupRegs s t
              ∧ t.team r.team =
                  { y with groups := (t.team r.team).groups, inRegion := true, idemEntry := s.cur.pc, issuedAtIdem := y.issued })
          ∧ ((s.gridOf r.team).idem = true → y.inRegion = true → y.idemEntry ≠ s.cur.pc → HandlerReady s r →
            ∃ t, exec (.idemb x) s = .next t ∧ Parked s t r 0x1F 0 0 ∧ SameMemory s t ∧ SameGroupRegs s t))
      ∧ (Alone (.ideme x) x r s →
          ∃ t, exec (.ideme x) s = .next t ∧ Performed s t r x [] [] ∧ SameMemory s t ∧ SameGroupRegs s t
            ∧ t.team r.team =
                { y with groups := (t.team r.team).groups, inRegion := if (s.gridOf r.team).idem then false else y.inRegion }))
  ∧ (∀ (x : XForm) r s, Alone (.launch x) x r s → s.isHelper r = true → ∃ t, exec (.launch x) s = .next t ∧ Performed s t r x [] [] ∧ Quiet s t)
  ∧ (∀ (x : XForm) r s, Alone (.launch x) x r s → s.isHelper r = false →
      let a := s.reg64 r x.a.toNat
      let ctl := Tab.getD s.launchCtl (s.team r.team).die 0
      (a % 256 ≠ 0 → HandlerReady s r → ∃ t, exec (.launch x) s = .next t ∧ Parked s t r 4 0 a ∧ SameMemory s t)
      ∧ (a % 256 = 0 → 2 ^ 56 ≤ a → ∃ t, exec (.launch x) s = .next t ∧ Performed s t r x (runWrites x.d.toNat 3 1) [] ∧ Quiet s t)
      ∧ (∀ q pa v, a % 256 = 0 → s.place (s.team r.team).grid a 0 = .mem pa v → bits a 63 56 = 0 → Uncached s → s.bad = [] →
          s.queueAt ctl q → q.state ≠ 0 → ∃ t, exec (.launch x) s = .next t ∧ Performed s t r x (runWrites x.d.toNat 2 1) [] ∧ Quiet s t)
      ∧ ∀ q pa v, a % 256 = 0 → s.place (s.team r.team).grid a 0 = .mem pa v → bits a 63 56 = 0 → Uncached s → s.waiters = [] → s.bad = [] →
          Memory.wf s.mem = true → s.queueAt ctl q → q.state = 0 → q.esize = 16 →
          let i := (q.tail + q.resv) % 2 ^ 32
          let e := q.slotAddr i
          (0 < q.free → q.resv < 256 → (e + 16 ≤ ctl ∨ ctl + 64 ≤ e) →
            ∃ t, exec (.launch x) s = .next t ∧ PerformedMem s t r x (runWrites x.d.toNat 0 1) [] ∧ SameGroupRegs s t
              ∧ ∀ b, memGet t.mem b =
                  if e ≤ b ∧ b < e + 16 then (leBytes 16 a).getD (b - e) 0
                  else if ctl ≤ b ∧ b < ctl + 64 then
                    (leBytes 64 (qEncode ({ q with resv := q.resv + 1, free := q.free - 1 }.commit i))).getD (b - ctl) 0
                  else memGet s.mem b)
          ∧ (q.free = 0 → ∃ t, exec (.launch x) s = .next t ∧ Performed s t r x (runWrites x.d.toNat 1 1) [] ∧ Quiet s t))

/-- Taking an exception: a parked lane with a staged fault saves its PC, the faulting PC, the cause, address and instruction, is in handler
and stands at the handler. Returning: RTRAP in handler goes on at TRAP_PC, under SKIP past the instruction unless the fault was deferred,
and takes the oldest pending fault at once; outside a handler it is illegal (R301, R302, R305, R306, R313, R489). CTXR reads a trap
register or a context register; CTXW writes TRAP_PC or a scratch register of a lane in handler, and is illegal outside one; a fault in
handler stops the context with DOUBLE and leaves its lane (R303, R305, R306, R316, R317). -/
def Obligations.Traps : Prop :=
  ((∀ s r i d, (s.lane r).staged = some (i, d) → (s.gridOf r.team).handler ≠ 0 → (Tab.find s.teams r.team).isSome →
      let y := s.lane r
      exec (.handlerEntry r) s = .next (s.withLanes [r] (fun _ =>
        { y with
          staged := none, since := s.cycle + 1, released := none, cond := .running, pc := BitVec.ofNat 64 (s.gridOf r.team).handler,
          trap := { y.trap with
            pc := y.pc, fpc := BitVec.ofNat 64 i.fpc, addr := BitVec.ofNat 64 i.addr, insn := BitVec.ofNat 64 i.insn,
            cause := BitVec.ofNat 32 (i.detail % 2 ^ 16 * 2 ^ 16 + i.len * 2 ^ 12 + (if d then 512 else 0) + 256 + i.code) } })))
    ∧ (∀ s r, (s.lane r).staged = none → exec (.handlerEntry r) s = .next s)
    ∧ ∀ (x : XForm) r s, Alone (.rtrap x) x r s →
      let y := s.lane r
      let skip := bit x.md.toNat 0 && !y.trap.cause.getLsbD 9
      let out : Lane :=
        { y.slotRaised x with
          pc := if skip then y.trap.pc + BitVec.ofNat 64 (2 * (y.trap.cause.toNat / 2 ^ 12 % 2 ^ 4)) else y.trap.pc,
          parked := false, faultCode := 0, since := s.cycle + 1, released := none, cond := .running,
          trap := { y.trap with cause := y.trap.cause &&& ~~~ 256#32 }, deferred := y.deferred.tail }
      (y.inHandler = true → y.deferred = [] →
        ∃ t, exec (.rtrap x) s = .next t ∧ t.lane r = out ∧ InFlight s t r x [] [] ∧ Quiet s t ∧ ∀ q, q ≠ r → t.lane q = s.lane q)
      ∧ (∀ i is, y.inHandler = true → y.deferred = i :: is → y.away = none → (s.gridOf r.team).handler ≠ 0 →
        ∃ t, exec (.rtrap x) s = .next t ∧ SameMemory s t ∧ SameGroupRegs s t ∧ (∀ q, q ≠ r → t.lane q = s.lane q)
          ∧ t.lane r = { out with parked := true, faultCode := i.code, staged := some (i, true), back := none })
      ∧ (HandlerReady s r → ∃ t, exec (.rtrap x) s = .next t ∧ Parked s t r 1 0 0 ∧ SameMemory s t))
  ∧ (∀ (x : XForm) r s,
      let n := x.c.toNat
      let y := s.lane r
      let gone : Lane := (y.slotRaised x).passed s
      let wrote (t : TrapRegs) : Prop :=
        ∃ u, exec (.ctxw x) s = .next u ∧ InFlight s u r x [] [] ∧ u.lane r = { gone with trap := t } ∧ (∀ q, q ≠ r → u.lane q = s.lane q)
          ∧ SameMemory s u ∧ SameGroupRegs s u
      (Alone (.ctxr x) x r s →
        let flags : Nat := (if (s.gridOf r.team).idem then 2 else 0) + (if (s.team r.team).inRegion then 1 else 0)
        let value : Nat :=
          [y.trap.pc.toNat, y.trap.cause.toNat, y.trap.addr.toNat, y.trap.insn.toNat, y.trap.fpc.toNat, (s.gridOf r.team).handler, flags,
           (s.team r.team).idemEntry.toNat, y.trap.scr0.toNat, y.trap.scr1.toNat, y.trap.scr2.toNat, y.trap.scr3.toNat].getD n 0
        ∃ t, exec (.ctxr x) s = .next t ∧ Quiet s t
          ∧ Performed s t r x (runWrites x.d.toNat value (if n = 0 ∨ n = 2 ∨ n = 3 ∨ n = 4 ∨ n = 5 ∨ n = 7 then 2 else 1)) [])
      ∧ (Alone (.ctxw x) x r s → y.inHandler = true →
          (n = 0 → wrote { y.trap with pc := BitVec.ofNat 64 (s.regRun r x.a.toNat 2 / 2 * 2) })
          ∧ (n = 8 → wrote { y.trap with scr0 := s.reg r x.a.toNat })
          ∧ (n = 9 → wrote { y.trap with scr1 := s.reg r x.a.toNat })
          ∧ (n = 10 → wrote { y.trap with scr2 := s.reg r x.a.toNat })
          ∧ (n = 11 → wrote { y.trap with scr3 := s.reg r x.a.toNat }))
      ∧ (1 ≤ n → n < 8 → s.cur.lanes.Nodup → s.present = [r] → s.guardLost x.p r = false → s.guard x.p x.pn r = true → s.cur.team = r.team →
          (Tab.find s.teams r.team).isSome → y.inHandler = true → y.away = none → (s.gridOf r.team).stop = none →
          ∃ t, exec (.ctxw x) s = .next t ∧ (∀ q, t.lane q = s.lane q) ∧ SameMemory s t
            ∧ (t.gridOf r.team).stop.map StopInfo.cause = some (256 + 1))
      ∧ (Alone (.ctxw x) x r s → HandlerReady s r →
          ∃ t, exec (.ctxw x) s = .next t ∧ Parked s t r 1 0 0 ∧ SameMemory s t ∧ SameGroupRegs s t))

/-- A completed operation writes its v-registers and predicates, lowers its slot, advances the dither phase by what it consumed and leaves
flight. The parts of an instruction that writes an s-register complete in one event, once every lane of the issue has its result: the register
then holds the result of the last lane in lane order, and until then nothing is written. A reply of the fabric brings a load its data, or a
refusal the PERMISSION fault; a request no lane waits for is acknowledged, which frees its stored flits; no reply counts past the bound (R58,
R170, R171, R436, R439, R447, R448, R487). A fault found after issue parks
its lane at the faulting instruction if the lane has issued nothing since, parks it where it stands, deferred, if it has, and is held pending
where the lane is parked already; an exited lane does not take it. Its operation ends (R16, R75, R172, R489). -/
def Obligations.OperationsEnd : Prop :=
  ((∀ s n o rep, Tab.find s.ops n = some o → o.late = none → o.wait = .ready → (Tab.find s.teams o.lane.team).isSome →
      let r := o.lane
      let y : Lane := { s.lane r with sb := match o.slot with
        | some k => Tab.set (s.lane r).sb k ((s.lane r).slotCount k - 1)
        | none => (s.lane r).sb }
      (o.together = false → (∀ w ∈ o.writes, w.1 < 128) → (∀ p ∈ o.preds, p.1 < 8) →
        ∃ t, exec (.operationCompletion n rep) s = .next t ∧ Tab.find t.ops n = none ∧ SameMemory s t ∧ SameGroupRegs s t
          ∧ (∀ q, q ≠ r → t.lane q = s.lane q)
          ∧ (t.team r.team).dphase = (s.team r.team).dphase + BitVec.ofNat 5 o.phase
          ∧ t.lane r = o.preds.foldl (fun z p => z.putPred p.1 p.2) (o.writes.foldl (fun z w => z.put w.1 w.2) y))
      ∧ (∀ k w, o.together = true → s.ops = [(n, o)] → (∀ q ∈ s.teamLanes r.team, (s.lane q).cond = .running) →
          o.writes = [(128 + k, w)] → k < 64 → o.preds = [] →
        ∃ t, exec (.operationCompletion n rep) s = .next t ∧ t.ops = [] ∧ SameMemory s t
          ∧ (t.group r).s = Tab.set (s.group r).s k w ∧ t.lane r = y ∧ ∀ q, q ≠ r → t.lane q = s.lane q)
      ∧ (∀ m o' k w w', o.together = true → o'.together = true → s.ops = [(n, o), (m, o')] → n < m → o'.issue = o.issue →
          o'.lane.team = r.team → o'.lane.g = r.g → r.l < o'.lane.l → r.l < 32 → o'.lane.l < 32 → o'.late = none → o'.wait = .ready →
          (∀ q ∈ s.teamLanes r.team, (s.lane q).cond = .running) →
          o.writes = [(128 + k, w)] → o'.writes = [(128 + k, w')] → k < 64 → o.preds = [] → o'.preds = [] →
        ∃ t, exec (.operationCompletion n rep) s = .next t ∧ exec (.operationCompletion m rep) s = .next t ∧ t.ops = [] ∧ SameMemory s t
          ∧ (t.group r).s = Tab.set (Tab.set (s.group r).s k w) k w')
      ∧ (o.together = true → (∃ e ∈ s.ops, e.1 ≠ n ∧ e.2.together = true ∧ e.2.issue = o.issue ∧ e.2.lane.team = r.team
            ∧ (e.2.wait ≠ .ready ∨ e.2.late.isSome = true)) →
          ∃ t, exec (.operationCompletion n rep) s = .next t ∧ t = { s with ops := t.ops } ∧ Tab.find t.ops n = some o))
    ∧ (∀ s n o p q data d w, Tab.find s.ops n = some o → o.late = none → o.wait = .fabric p → Tab.find s.sent p = some q → o.info.code = 0 →
      (∀ e ∈ s.sent, e.2.waits = false) → s.overdue q = false → (∀ e ∈ s.ops, e.1 ≠ n → e.2.wait ≠ o.wait) →
      o.together = false → o.phase = 0 → o.preds = [] → o.fill = some (d, w) → d < 120 → w ≤ 7 → data.length = widthBytes w → s.landings = [] →
      (s.lane o.lane).cond = .running → (Tab.find s.teams o.lane.team).isSome → (∀ j, decodeBits o.info.len o.info.insn = .ok j → (ordering j).1 % 2 = 0) →
      let r := o.lane
      let y : Lane := { s.lane r with sb := match o.slot with
        | some k => Tab.set (s.lane r).sb k ((s.lane r).slotCount k - 1)
        | none => (s.lane r).sb }
      (∃ t, exec (.operationCompletion n (0 :: data)) s = .next t ∧ Tab.find t.ops n = none ∧ Tab.find t.sent p = none ∧ SameMemory s t ∧ SameGroupRegs s t
        ∧ t.lane r = { (intoRegs d (loadedWords w data)).foldl (fun z w => z.put w.1 w.2) y with seen := (t.lane r).seen }
        ∧ ∀ u, u ≠ r → t.lane u = s.lane u)
      ∧ (s.isHelper r = false → ∃ t, exec (.operationCompletion n [1]) s = .next t ∧ Tab.find t.sent p = none ∧ (∀ u, t.lane u = s.lane u)
        ∧ Tab.find t.ops n =
            some { o with wait := .ready, late := some { o.info with code := 6, addr := 2 ^ 56 + q.peer * 2 ^ 46 + q.offset } }))
    ∧ ∀ s n q rep, Tab.find s.ops n = none → Tab.find s.sent n = some q → q.op = none → q.cmd = none → (∀ e ∈ s.sent, e.2.waits = false) →
      (s.overdue q = true → exec (.operationCompletion n rep) s = .next s)
      ∧ (s.overdue q = false →
        (rep = [] ∨ q.queue = none → exec (.operationCompletion n rep) s = .next { s with
          sent := Tab.erase s.sent n,
          txLinks := s.txLinks.map (fun e => (e.1, { e.2 with store := e.2.store.filter (fun (f : StoredFlit) => f.packet != n) })) })
        ∧ (rep ≠ [] → q.queue.isSome = true →
          exec (.operationCompletion n rep) s = .next { s with sent := Tab.set s.sent n { q with waits := true } })))
  ∧ (∀ s n o i, Tab.find s.ops n = some o → o.late = some i → o.wait = .ready → (Tab.find s.teams o.lane.team).isSome →
      let r := o.lane
      let y : Lane := { s.lane r with sb := match o.slot with
        | some k => Tab.set (s.lane r).sb k ((s.lane r).slotCount k - 1)
        | none => (s.lane r).sb }
      let becomes (z : Lane) : Prop :=
        ∃ t, exec (.deferredFault n) s = .next t ∧ t.lane r = z ∧ (∀ q, q ≠ r → t.lane q = s.lane q) ∧ Tab.find t.ops n = none
          ∧ SameMemory s t ∧ SameGroupRegs s t
      (s.exited r = true → becomes y)
      ∧ (s.exited r = false → y.parked = true → becomes { y with deferred := y.deferred ++ [i] })
      ∧ (s.exited r = false → y.parked = false → y.cond = .running → y.away = none → y.back = none → HandlerReady s r → (s.gridOf r.team).stop = none →
          (y.issues = o.mark → becomes { y with pc := BitVec.ofNat 64 i.fpc, parked := true, faultCode := i.code, staged := some (i, false) })
          ∧ (y.issues ≠ o.mark → becomes { y with parked := true, faultCode := i.code, staged := some (i, true) })))

/-- A bin whose oldest thread has waited the age threshold becomes a formation; the formation that has waited longest takes a free context of
the partition with the fewest formations, its threads ready from the next cycle (R154, R169). A fetch brings the first sector that an
instruction still needs into the core's cache as memory holds it, or parks the lane that would issue what cannot be fetched; a page walk
caches the leaf at the end of its levels, or nothing where an entry is not valid; an L1 copy may be dropped at any time (R64, R365, R404 to
R409). -/
def Obligations.FormationsFetchesAndWalks : Prop :=
  (∀ s n b, Tab.find s.bins n = some b →
      (b.formed = false → b.members ≠ [] →
        (s.binSince b + s.ageLimit b.core ≤ s.cycle → ∃ t, exec (.formation n) s = .next t
          ∧ t = { s with bins := Tab.set s.bins n { b with formed := true }, counters := t.counters })
        ∧ (s.cycle < s.binSince b + s.ageLimit b.core → exec (.formation n) s = .next s))
      ∧ (b.formed = true → b.place = none → (∀ e ∈ s.bins, e.2.core = b.core → e.2.place = none) →
        ((∀ e ∈ s.bins, e.2.core = b.core → e.2.formed = true → s.binSince b ≤ s.binSince e.2) → (∀ r ∈ b.members, (Tab.find s.teams r.team).isSome) →
          ∃ t, exec (.formationPlacement n) s = .next t ∧ t.bins = Tab.set s.bins n { b with place := some (0, 12) } ∧ SameMemory s t
            ∧ (∀ r ∈ b.members, t.lane r = { s.lane r with since := s.cycle + 1 }) ∧ ∀ r, r ∉ b.members → t.lane r = s.lane r)
        ∧ ((∃ e ∈ s.bins, e.2.core = b.core ∧ e.2.formed = true ∧ s.binSince e.2 < s.binSince b) → exec (.formationPlacement n) s = .next s)))
  ∧ ((∀ s core g pc t y va pa v, s.teams.find? (fun e => e.2.gcore == core && e.2.grid == g) = some (t, y) → s.fetch t pc = .miss va →
      Uncached s → s.bad = [] → s.inIcache core g va = false → (s.icache.filter (fun c => c.core == core)).length < 1024 →
      bits va 63 56 = 0 → s.place g (va / 64 * 64) 2 = .mem pa v → isHost pa = false →
      exec (.instructionFetch core g pc) s =
        .next { s with icache := s.icache ++ [{ core := core, grid := g, va := va / 64 * 64, bytes := memGetN s.mem pa 64 }] })
    ∧ (∀ s core g pc t y len w, s.teams.find? (fun e => e.2.gcore == core && e.2.grid == g) = some (t, y) → s.fetch t pc = .insn len w →
      exec (.instructionFetch core g pc) s = .next s)
    ∧ (∀ s pc r y a, Single s r → s.teams = [(r.team, y)] → s.mayIssue r.team = true → s.runs r = true → (s.lane r).pc.toNat = pc →
      (s.lane r).since ≤ s.cycle → s.fetch r.team pc = .miss a →
      (bits a 63 56 ≠ 0 ∨ (∃ c, s.place y.grid (a / 64 * 64) 2 = .bad c false) ∨ ∃ pa v, s.place y.grid (a / 64 * 64) 2 = .mem pa v ∧ isHost pa = true) →
      HandlerReady s r →
      ∃ t, exec (.instructionFetch y.gcore y.grid pc) s = .next t ∧ SameMemory s t ∧ (∀ q, q ≠ r → t.lane q = s.lane q)
        ∧ t.lane r = { s.lane r with parked := true, faultCode := 7, cond := .running, away := none, back := none,
                                     staged := some ({ code := 7, detail := 0, len := 0, addr := a, insn := 0, fpc := pc }, false) })
    ∧ (∀ s g va, va < 2 ^ 56 → (Tab.find s.grids g).isSome → s.tlbHit g va = none → Uncached s → s.bad = [] → s.tlb.length < 65536 →
      let word (a : Nat) : Nat := leNat (memGetN s.mem a 8)
      let next (e : Nat) : Nat := e / 2 ^ 8 % 2 ^ 40 * 256
      let e4 := word ((s.grid g).root + 8 * (va / 2 ^ 48 % 2 ^ 8))
      let e3 := word (next e4 + 8 * (va / 2 ^ 39 % 2 ^ 9))
      let e2 := word (next e3 + 8 * (va / 2 ^ 30 % 2 ^ 9))
      let e1 := word (next e2 + 8 * (va / 2 ^ 21 % 2 ^ 9))
      let pointer (l e : Nat) : Prop := entryFault s l e = false ∧ bit e 1 = false
      let leaf (l e : Nat) : Prop := entryFault s l e = false ∧ bit e 1 = true
      let cached (size e : Nat) : Prop :=
        exec (.pageWalk g va) s = .next { s with tlb := s.tlb ++ [{ grid := g, va := va / size * size, size := size, pte := e }] }
      (pointer 4 e4 → pointer 3 e3 → leaf 2 e2 → cached (2 ^ 30) e2)
      ∧ (pointer 4 e4 → pointer 3 e3 → pointer 2 e2 → leaf 1 e1 → cached (2 ^ 21) e1)
      ∧ (pointer 4 e4 → pointer 3 e3 → pointer 2 e2 → pointer 1 e1 → leaf 0 (word (next e1 + 8 * (va / 2 ^ 16 % 2 ^ 5))) →
          cached (2 ^ 16) (word (next e1 + 8 * (va / 2 ^ 16 % 2 ^ 5))))
      ∧ (entryFault s 4 e4 = true → exec (.pageWalk g va) s = .next s))
    ∧ ∀ s n, exec (.l1CopyExpire n) s = .next { s with l1 := Tab.erase s.l1 n })

/-! ### Launch, binding, pre-emption and retirement -/

/-- Trara takes a request from a launch queue, or drops one whose second doubleword is not zero; it drops a record it cannot reach, refuses
one that fails a check with its end time and then the lowest reason in DONE, keeps one waiting while no context is free, and otherwise makes
its grid, with the time of acceptance in the status area (R375 to R382, R385). Trara binds the lowest unbound team to the lowest free slot of
a core and reserves its image; a core admits the team whose turn and time have come with every lane at the entry, the record's and the
arguments' addresses in s0 to s3 and its helper lanes marked (R13, R14, R21, R166, R180, R386 to R388). -/
def Obligations.LaunchAndAdmission : Prop :=
  (∀ s die, Uncached s → s.waiters = [] → s.bad = [] → s.tlb = [] → Memory.wf s.mem = true →
      (∀ ctl q, Tab.find s.launchCtl die = some ctl → s.accepting = [] → s.queueAt ctl q →
        let at_ := q.base + q.head % q.cap * q.esize
        let a := leNat (memGetN s.mem at_ 8)
        (q.visible = 0 → exec (.launchRequest die) s = .next s)
        ∧ (q.visible ≠ 0 → ∃ x, exec (.launchRequest die) s = .next x
            ∧ Wrote s x ctl (leBytes 64 (qEncode { q with head := (q.head + 1) % 2 ^ 32, free := q.free + 1 })) ∧ (∀ r, x.lane r = s.lane r)
            ∧ (leNat (memGetN s.mem (at_ + 8) 8) = 0 → a % 256 = 0 → a < 2 ^ 56 → x.accepting = [(die, a)])
            ∧ (leNat (memGetN s.mem (at_ + 8) 8) ≠ 0 → x.accepting = [])))
      ∧ ∀ a, s.accepting = [(die, a)] →
        let root := Tab.getD s.roots die 0
        (∀ c ue, s.rootPlace root a 0 = .bad c ue →
          ∃ x, exec (.gridAcceptance die) s = .next x ∧ x = { s with accepting := [], counters := x.counters })
        ∧ ∀ pa pd v w, s.rootPlace root a 0 = .mem pa v →
          let b := memGetN s.mem pa 256
          let g : Grid := { gridOfRecord a root b with die := die }
          g.status ≠ 0 → g.status % 128 = 0 → s.rootPlace root g.status 1 = .mem pd w →
            (∀ n pe we, refusal g b (s.now / 100) = some n → s.rootPlace root (g.status + 0x18) 1 = .mem pe we →
              ∃ m x, exec (.gridAcceptance die) s = .next x ∧ x.accepting = [] ∧ x.grids = s.grids
              ∧ Wrote s m pe (leBytes 8 (s.now / 100)) ∧ Wrote m x pd (leBytes 8 (n * 2 ^ 8 + 3)) ∧ x.outgoing = s.outgoing ++ (if bit g.flags 3 then [.interrupt 0] else []))
            ∧ (refusal g b (s.now / 100) = none → s.freeContexts g = none → exec (.gridAcceptance die) s = .next s)
            ∧ ∀ pt u n, refusal g b (s.now / 100) = none → s.grids = [] → s.nextGrid = n → 0 < n → n < 2 ^ 32 →
                s.rootPlace root (g.status + 8) 1 = .mem pt u →
                ∃ x, exec (.gridAcceptance die) s = .next x ∧ x.accepting = [] ∧ Wrote s x pt (leBytes 8 (s.now / 100))
                  ∧ x.grids = [(n, { g with
                      contexts := g.dies.map (fun d => (d, 0)), t0 := if g.start = 0 ∨ g.start ≤ s.now / 100 then s.now / 100 else g.start, acceptedAt := s.nextKey,
                      lastBind := s.now / 100, nextTeam := 0, liveTeams := if g.nteams = 0 then 2 ^ 32 else g.nteams })])
  ∧ ((∀ s g x die core, s.ready = true → s.grids = [(g, x)] → x.stop = none → die ∈ x.dies → die < 4 → core < 208 → x.nextTeam < x.teamCount →
      x.gangSize = 1 → x.det = false → x.matrix = false → s.teams = [] → s.images = [] →
      (s.saveSize = 0 ∨ s.saveUsed + x.imageSize ≤ s.saveSize) →
      let y : Team :=
        { Team.zero with
          grid := g, teamid := x.nextTeam, die := die, core := core, slot := 0, phase := .bound,
          release := x.t0 + x.stagger * min x.nextTeam 65535, backed := s.saveSize != 0 }
      ∃ u, exec (.bindRecord g die core) s = .next u ∧ u.teams = [(s.nextKey, y)]
        ∧ u.grids = [(g, { x with lastBind := s.now / 100, nextTeam := x.nextTeam + 1 })] ∧ u.mem = s.mem
        ∧ u.saveUsed = if s.saveSize = 0 then s.saveUsed else s.saveUsed + x.imageSize)
    ∧ ∀ s t y, s.teams = [(t, y)] → y.phase = .bound → y.resume = false → y.action = 0 →
      let g := s.grid y.grid
      g.stop = none → s.admits = [] → 0 < s.param 5 → g.first = true → g.localSize ≤ 393216 →
        (y.release ≤ s.now / 100 → ∃ u, exec (.teamAdmit t) s = .next u ∧ u.mem = s.mem
          ∧ (∀ a, memGet (u.team t).localMem a = 0) ∧ (u.team t).phase = .running ∧ (u.team t).base = 0 ∧ (u.team t).tag ≠ 0 ∧ (u.team t).gate = true ∧ (u.team t).groups.length = g.ngroups
          ∧ ∀ k, k < g.ngroups →
            let n := min 32 (g.lanes - 32 * k)
            let z := (u.team t).group k
            z.s = [(0, BitVec.ofNat 32 g.record), (1, BitVec.ofNat 32 (g.record / 2 ^ 32)), (2, BitVec.ofNat 32 g.args),
                   (3, BitVec.ofNat 32 (g.args / 2 ^ 32))]
            ∧ (∀ l, l < (n + 3) / 4 * 4 → z.exited.getLsbD l = false
                ∧ z.lane l = { Lane.zero with pc := BitVec.ofNat 64 (if y.inRegion then y.idemEntry.toNat else g.entry),
                                              helper := decide (n ≤ l), since := s.cycle + 1, sig := y.carry })
            ∧ ∀ l, (n + 3) / 4 * 4 ≤ l → l < 32 → z.exited.getLsbD l = true)
        ∧ (s.now / 100 < y.release → exec (.teamAdmit t) s = .next s))

/-- A group whose lanes have all exited, with nothing in flight, retires, and with the last one its team enters stage 1 and closes its gate; a
quiet team gives up its mappings and then its tiles, its memory, its slot and its reservation; a grid whose teams have all retired writes
its end time and DONE, with the interrupt it asks for (R174 to R176, R200, R384). From the cycle after the event a stopping context first stops its running teams; once
it is quiet its stop record is written and the host notified, and unless BREAKPOINT stopped it no team of it is bound any more (R307,
R308). -/
def Obligations.RetirementAndStops : Prop :=
  ((∀ s t y g z, s.teams = [(t, y)] → y.groups = [(g, z)] → y.phase = .running →
      (s.groupDone t g = false → exec (.groupRetire t g) s = .next s)
      ∧ (z.retired = false → (∀ e ∈ z.lanes, z.exited.getLsbD e.1 = true ∧ e.2.away = none ∧ e.2.parked = false ∧ e.2.inHandler = false
            ∧ ∀ k ∈ e.2.sb, k.2 = 0) → s.ops = [] → s.chains = [] → y.ring.head = y.ring.tail →
          ∃ u, exec (.groupRetire t g) s = .next u ∧ SameMemory s u ∧ (u.team t).phase = .stage1 ∧ (u.team t).gate = false
            ∧ ((u.team t).group g).retired = true))
    ∧ (∀ s t y, s.teams = [(t, y)] → y.phase = .stage1 →
        (s.quiet t = false → exec (.teamRetireStage2 t) s = .next s)
        ∧ (s.quiet t = true → y.stash = [] →
            exec (.teamRetireStage2 t) s = .next { s with teams := [(t, { y with stash := [], phase := .stage2 })] }))
    ∧ (∀ s t y, s.teams = [(t, y)] → y.phase = .stage2 → y.pins = [] → y.action = 0 → (s.grid y.grid).requests = [] → s.images = [] →
        s.waiters = [] →
        let g := s.grid y.grid
        ∃ u, exec (.teamRetireStage3 t) s = .next u ∧ u.teams = [] ∧ u.mem = s.mem ∧ (∀ e, e ∈ u.tiles ↔ e ∈ s.tiles ∧ e.2.team ≠ t)
          ∧ u.grid y.grid = { g with liveTeams := g.liveTeams - 1 }
          ∧ (s.holdsLast t = true → Tab.find u.lasts y.cluster = none)
          ∧ u.saveUsed = if y.backed then s.saveUsed - (g.imageSize + (if g.matrix then gangImageSize else 0)) else s.saveUsed)
    ∧ ∀ s g x, Tab.find s.grids g = some x → Uncached s → s.bad = [] → s.waiters = [] → Memory.wf s.mem = true →
        (x.liveTeams ≠ 0 → exec (.gridComplete g) s = .next s)
        ∧ ∀ p q v w, x.liveTeams = 0 → (∀ e ∈ s.teams, e.2.grid ≠ g) → x.stop = none → s.place g (x.status + 0x18) 1 = .mem p v →
            s.place g x.status 1 = .mem q w → (s.tlbHit g x.status).isSome →
            ∃ u, exec (.gridComplete g) s = .next u ∧ Tab.find u.grids g = none
              ∧ u.outgoing = s.outgoing ++ (if bit x.flags 3 then [.interrupt g] else [])
              ∧ (∀ e, e ∈ u.marks ↔ e ∈ s.marks ∧ e.2 ≠ g) ∧ (∀ e, e ∈ u.tlb ↔ e ∈ s.tlb ∧ e.grid ≠ g)
              ∧ ∀ a, memGet u.mem a =
                  if q ≤ a ∧ a < q + 8 then (leBytes 8 (g * 2 ^ 32 + 1)).getD (a - q) 0
                  else if p ≤ a ∧ a < p + 8 then (leBytes 8 (s.now / 100)).getD (a - p) 0 else memGet s.mem a)
  ∧ (∀ s g x st, Tab.find s.grids g = some x → x.stop = some st →
      (st.written = true ∨ s.cycle ≤ st.cycle → exec (.contextStop g) s = .next s)
      ∧ (∀ t y, st.written = false → st.cycle < s.cycle → s.teams = [(t, y)] → y.grid = g → y.phase = .running →
          (∀ r ∈ s.teamLanes t, (s.lane r).cond = .running ∧ (s.lane r).away = none) →
          ∃ u, exec (.contextStop g) s = .next u ∧ (u.team t).phase = .stopping ∧ (∀ r, u.lane r = s.lane r) ∧ SameMemory s u
            ∧ u.grids = s.grids)
      ∧ ∀ pa v, st.written = false → st.cycle < s.cycle → s.teams = [] → s.images = [] → s.place g (x.status + 0x40) 1 = .mem pa v → Uncached s → s.bad = [] →
          s.waiters = [] → Memory.wf s.mem = true →
          ∃ u, exec (.contextStop g) s = .next u ∧ u.outgoing = s.outgoing ++ [.stopNotice g]
            ∧ Wrote s u pa (leBytes 4 st.cause ++ leBytes 4 st.where_ ++ leBytes 4 st.teamid ++ leBytes 4 g ++ leBytes 8 st.pc ++ leBytes 8 st.addr
                ++ leBytes 8 st.time ++ leBytes 4 st.place ++ leBytes 4 st.count ++ zeros 16)
            ∧ u.grid g = (if st.cause % 256 = 0x1C then { x with stop := some { st with written := true } }
                else { x with stop := some { st with written := true }, nextTeam := x.teamCount, liveTeams := 0 }))

/-- A request that names DRAIN, SAVE or FLUSH for a team is counted in PREEMPTS and gives the team its action and the request its bit of
LASTPRE; SAVE and FLUSH stop the team and close its gate; a team whose lanes have all exited takes no action, and one not yet admitted is
unbound. A DRAIN still running 2 × D_DRAIN on is decided again and becomes a SAVE. A saved team leaves its core with its image kept; a
flushed team is bound anew to start at IDEM_ENTRY, once the requests that the Last has accepted have executed, and the Last takes its reset
values; with its last team's action a request, of a SAVE as of a FLUSH, writes its LASTPRE (R315, R319, R382, R383, R394 to R398). -/
def Obligations.Preemptions : Prop :=
  ∀ s t y, s.teams = [(t, y)] →
    let x := s.grid y.grid
    let plain : Prop := ∀ r ∈ s.teamLanes t, (s.lane r).cond = .running ∧ (s.lane r).away = none
    let memory : Prop := Uncached s ∧ s.bad = [] ∧ s.waiters = [] ∧ Memory.wf s.mem = true
    let acted (u : State) (n a : Nat) (p : Phase) (gate : Bool) : Prop :=
      u.team t = { y with groups := (u.team t).groups, action := a, actionAt := s.now / 100, redecide := false, request := n, phase := p,
                          gate := gate } ∧ ∀ r, u.lane r = s.lane r
    (∀ n pa v, y.phase = .running → y.action = 0 → x.requests = [] → plain → s.place y.grid (x.status + 0x20) 1 = .mem pa v → memory →
      let pre := (x.preempts + 1) % 2 ^ 32
      let reached (u : State) : Prop := (u.grid y.grid).preempts = pre ∧ Wrote s u pa (leBytes 4 pre)
      (s.allExited t = false → (n = 1 ∨ (n = 2 ∧ y.backed = true) ∨ (n = 3 ∧ x.idem = true ∧ y.inRegion = true)) →
        ∃ u, exec (.preemption [t] n) s = .next u ∧ reached u
          ∧ acted u s.nextKey n (if n = 1 then .running else if n = 2 then .saving else .flushing) (if n = 1 then y.gate else false)
          ∧ Tab.find (u.grid y.grid).requests s.nextKey = some (2 ^ n))
      ∧ (1 ≤ n → n ≤ 3 → s.allExited t = true →
        ∃ u, exec (.preemption [t] n) s = .next u ∧ reached u ∧ (u.team t).phase = .running ∧ (∀ r, u.lane r = s.lane r)
          ∧ Tab.find (u.grid y.grid).requests s.nextKey = some 1))
    ∧ (∀ n, 1 ≤ n → n ≤ 3 → y.phase = .bound → y.action = 0 →
        ∃ u, exec (.preemption [t] n) s = .next u ∧ u.teams = [] ∧ Tab.find u.images t = some y)
    ∧ (s.policyAllows t = false → exec (.preemption [t] 0) s = .next s)
    ∧ (y.phase = .running → y.action = 1 → y.redecide = true → plain → s.allExited t = false → y.backed = true → x.idem = false →
        (s.now / 100 < y.actionAt + 2000 * s.param 0 → exec (.drainRedecision t) s = .next s)
        ∧ (y.actionAt + 2000 * s.param 0 ≤ s.now / 100 →
            ∃ u, exec (.drainRedecision t) s = .next u ∧ acted u y.request 2 .saving false ∧ SameMemory s u
              ∧ ∀ b, Tab.find x.requests y.request = some b → Tab.find (u.grid y.grid).requests y.request = some (Nat.lor b 4)))
    ∧ (y.phase = .saving → y.stash = [] →
        (s.quiet t = false → exec (.saveComplete t) s = .next s)
        ∧ (s.quiet t = true →
          let saved (u : State) : Prop :=
            exec (.saveComplete t) s = .next u ∧ u.teams = []
              ∧ Tab.find u.images t = some { y with phase := .saved, resume := true, action := 0, redecide := false, stash := [] }
              ∧ ∀ e, e ∈ u.tiles ↔ e ∈ s.tiles ∧ e.2.team ≠ t
          (x.requests = [] → ∃ u, saved u ∧ u.mem = s.mem)
          ∧ ∀ b pa v, x.requests = [(y.request, b)] → s.place y.grid (x.status + 0x24) 1 = .mem pa v → memory →
              ∃ u, saved u ∧ (u.grid y.grid).lastPre = b ∧ (u.grid y.grid).requests = []
                ∧ ∀ a, memGet u.mem a = if pa ≤ a ∧ a < pa + 4 then (leBytes 4 b).getD (a - pa) 0 else memGet s.mem a))
    ∧ (y.phase = .flushing → y.pins = [] → s.quiet t = true → (y.backed = true ∨ s.saveSize = 0) →
        (s.holdsLast t = true → (s.last y.cluster).table ≠ [] → exec (.flushAndRestart t) s = .next s)
        ∧ ((s.holdsLast t = true → (s.last y.cluster).table = []) →
          let z : Team :=
            { Team.zero with
              grid := y.grid, teamid := y.teamid, die := y.die, core := y.core, slot := y.slot, phase := .bound, backed := y.backed,
              inRegion := true, idemEntry := y.idemEntry, terr := y.terr, carry := y.unreleased }
          let restarted (u : State) : Prop :=
            exec (.flushAndRestart t) s = .next u ∧ (∀ e, e ∈ u.tiles ↔ e ∈ s.tiles ∧ e.2.team ≠ t) ∧ u.teams = [(s.nextKey, z)]
              ∧ (s.holdsLast t = true → u.last y.cluster = { Last.zero with holder := (s.last y.cluster).holder })
          (x.requests = [] → ∃ u, restarted u ∧ u.mem = s.mem)
          ∧ ∀ b pa v, x.requests = [(y.request, b)] → s.place y.grid (x.status + 0x24) 1 = .mem pa v → memory →
              ∃ u, restarted u ∧ (u.grid y.grid).lastPre = b ∧ (u.grid y.grid).requests = []
                ∧ ∀ a, memGet u.mem a = if pa ≤ a ∧ a < pa + 4 then (leBytes 4 b).getD (a - pa) 0 else memGet s.mem a))

/-! ### Bring-up, power and the mailbox -/

/-- The bring-up sequence: each step acts only in its turn and a step that fails halts it with the die that failed; every rail ramps; of
each die the Trara image and the microcode are taken with a true signature, the fused key and no older version, and the digests of the boot
ROM, the two images and the fuses are kept; initialisation leaves zeros in device memory; READY comes with an empty,
open launch queue of 256 elements of 16 bytes on each die, and a doorbell rung before for an operation that no request has is answered then
(R375, R423, R428, R434). Power and the aperture: a rail out of its band resets the package, fuses and host memory apart; power is sampled
every 100 µs, and issue is withheld while the mean over 1 ms exceeds PLIMIT, and for 1 µs after an overcurrent; a host access through BAR2 is
made at its home (R423, R425, R426, R433). -/
def Obligations.BringUpAndPower : Prop :=
  (∀ s,
      let halt (die : Nat) : State := { s with boot := .failed, bootFail := some (die % 4), ready := false }
      (∀ rails, (s.boot ≠ .off → exec (.powerUp rails) s = .next s)
        ∧ (s.boot = .off → rails = [true, true, true, true, true] → exec (.powerUp rails) s = .next { s with boot := .rails })
        ∧ (s.boot = .off → rails.length = 5 → false ∈ rails → exec (.powerUp rails) s = .next (halt 0)))
      ∧ (∀ b, (s.boot ≠ .rails → exec (.perstDeassert b) s = .next s)
        ∧ (s.boot = .rails → exec (.perstDeassert b) s = .next (if b then { s with boot := .clocks } else halt 0)))
      ∧ (∀ imgs : List BootImage,
          let good (i : BootImage) : Prop :=
            Config.lmsVerify i.image i.signature i.key = true ∧ Config.sha256 i.key = s.fuseDigest ∧ s.fuseVersion ≤ i.version
          (s.boot ≠ .clocks → exec (.bootVerify imgs) s = .next s)
          ∧ (∀ a b rest, s.boot = .clocks → imgs = a :: b :: rest → rest.length = 6 → (∀ i ∈ imgs, good i) →
              exec (.bootVerify imgs) s = .next { s with
                boot := .verified,
                bootDigests := [Config.sha256 Config.bootRom, Config.sha256 a.image, Config.sha256 b.image,
                                Config.sha256 (Config.fuseImage s.fuseDigest s.fuseVersion.toNat)] })
          ∧ ∀ k i, s.boot = .clocks → imgs.length = 8 → imgs[k]? = some i → ¬ good i → (∀ m j, m < k → imgs[m]? = some j → good j) →
              exec (.bootVerify imgs) s = .next (halt (k / 2)))
      ∧ (∀ trained, (s.boot ≠ .verified → exec (.memoryInit trained) s = .next s)
        ∧ (s.boot = .verified → trained = [true, true, true, true] → ∃ t, exec (.memoryInit trained) s = .next t ∧ t.boot = .initialised ∧ t.bad = []
            ∧ ∀ a, memGet t.mem a = if isHost a then memGet s.mem a else 0)
        ∧ ∀ k, s.boot = .verified → trained.length = 4 → trained[k]? = some false → (∀ m, m < k → trained[m]? = some true) →
            exec (.memoryInit trained) s = .next (halt k))
      ∧ (s.boot ≠ .initialised → exec .ready s = .next s)
      ∧ (s.boot = .initialised → Memory.wf s.mem = true → ∃ t, exec .ready s = .next t ∧ t.boot = .ready ∧ t.ready = true
          ∧ (s.doorbell = true → (Tab.getD s.request 0 0 = 0 ∨ 0x12 < Tab.getD s.request 0 0) → t.response = [1] ∧ t.doorbell = false)
          ∧ ∀ die, die < 4 → ∃ ctl q, Tab.find t.launchCtl die = some ctl ∧ t.queueAt ctl q ∧ q.state = 0 ∧ q.cap = 256 ∧ q.esize = 16
              ∧ q.free = 256 ∧ q.visible = 0 ∧ q.resv = 0))
  ∧ ((∀ s die rail mv, rail < 5 →
      let band := [(728, 772), (825, 875), (1067, 1133), (1140, 1260), (1710, 1890)].getD rail (0, 0)
      (band.1 ≤ mv → mv ≤ band.2 → exec (.railOutOfTolerance die rail mv) s = .next s)
      ∧ ((mv < band.1 ∨ band.2 < mv) → ∃ t, exec (.railOutOfTolerance die rail mv) s = .next t ∧ t.boot = .off ∧ t.ready = false ∧ t.teams = []
          ∧ t.grids = [] ∧ t.fuseDigest = s.fuseDigest ∧ t.fuseVersion = s.fuseVersion ∧ t.now = 0 ∧ ∀ a, isHost a = true → memGet t.mem a = memGet s.mem a))
    ∧ (∀ s mw,
        let ns := s.now / 100
        let log := (ns, mw) :: s.powerLog.filter (fun e => decide (ns < e.1 + 1000000))
        let sum := (log.map Prod.snd).sum
        let hold : Bool :=
          if 1000 * s.param 4 * log.length < sum then true else if sum < 1000 * s.param 4 * log.length then false else s.powerHold
        ((∃ e ∈ s.powerLog, ns < e.1 + 100000) → exec (.powerSample mw) s = .next s)
        ∧ ((∀ e ∈ s.powerLog, e.1 + 100000 ≤ ns) → exec (.powerSample mw) s = .next { s with powerLog := log, powerHold := hold }))
    ∧ (∀ s die rail ma, rail < 5 → exec (.railOvercurrent die rail ma) s = .next (
        if [700000, 120000, 60000, 20000, 5000].getD rail 0 < ma then { s with withheld := Tab.set s.withheld die (s.now / 100 + 1000) } else s))
    ∧ (∀ s die, (Tab.getD s.withheld die 0 ≤ s.now / 100 → exec (.withholdEnd die) s = .next { s with withheld := Tab.erase s.withheld die })
        ∧ (s.now / 100 < Tab.getD s.withheld die 0 → exec (.withholdEnd die) s = .next s))
    ∧ ∀ s off len,
        let pa := s.aperture + off
        s.ready = true → 0 < len → off + len ≤ 2 ^ 36 → isHost pa = false → physValid pa = true → physValid (pa + len - 1) = true → Uncached s →
          s.waiters = [] → s.bad = [] → Memory.wf s.mem = true →
          (∀ bs, bs.length = len → ∃ t, exec (.apertureAccess off len (some bs)) s = .next t ∧ Wrote s t pa bs ∧ ∀ r, t.lane r = s.lane r)
          ∧ exec (.apertureAccess off len none) s = .next { s with outgoing := s.outgoing ++ [.aperture (memGetN s.mem pa len)] })

/-- A request is served once the host has submitted it: before READY, with the doorbell down, or with another operation or other arguments in
the request words, nothing happens; one that is served clears the
doorbell. Counters are read, frozen and cleared unit by unit, those of a die's TLB as free values while they run (log entry 80), a
parameter is set within its limits, and the windows and regions of the package are set (R178, R399, R426, R427, R434). The mailbox on
contexts: ATTEST gives a report over nonce, digests and index under the next signature of its tree; ATTACH and DETACH set BRK's debugger;
RESUME lets a context stopped by BREAKPOINT go on; PREEMPT makes one request for a grid's teams (R307, R312, R394, R429, R434). -/
def Obligations.MailboxRequests : Prop :=
  (∀ s,
      let answered (t : State) (ws : List Nat) : State := { t with response := ws, doorbell := false }
      (∀ i, s.ready = false ∨ s.doorbell = false → ((∃ a b c d, i = .readCounter a b c d) ∨ (∃ a b, i = .freeze a b) ∨ (∃ a b, i = .clear a b)
          ∨ (∃ a b, i = .setParam a b) ∨ (∃ a, i = .attest a) ∨ (∃ a, i = .attach a) ∨ (∃ a, i = .detach a) ∨ (∃ a, i = .resume a)
          ∨ (∃ a b, i = .preempt a b) ∨ (∃ a b c, i = .migrate a b c) ∨ (∃ a b, i = .setSaveRegion a b) ∨ (∃ a, i = .setAperture a)
          ∨ (∃ a b c, i = .invalidate a b c) ∨ (∃ a b c d, i = .setLinkKey a b c d) ∨ (∃ a, i = .setCohort a) ∨ (∃ a, i = .roster a) ∨ (∃ a b c, i = .setGroup a b c) ∨ (∃ a b c, i = .regObject a b c)) →
        exec i s = .next s)
      ∧ ((∀ cls idx num part,
          let args := [cls, idx, num] ++ (if cls = 0 ∧ (num = 1 ∨ num = 2) then [part] else [])
          (s.asks 1 args = false → exec (.readCounter cls idx num part) s = .next s)
          ∧ (s.asks 2 [cls, idx] = false → exec (.freeze cls idx) s = .next s) ∧ (s.asks 3 [cls, idx] = false → exec (.clear cls idx) s = .next s))
        ∧ (∀ cls idx num part,
          let args := [cls, idx, num] ++ (if cls = 0 ∧ (num = 1 ∨ num = 2) then [part] else [])
          let unit := [(832, 64), (256, 32), (208, 32), (4, 32), (1, 10), (16, 32), (1, 32)].getD cls (0, 0)
          (s.asks 1 args = true → unit.1 ≤ idx ∨ unit.2 ≤ num ∨ (cls = 0 ∧ (num = 1 ∨ num = 2) ∧ 4 ≤ part) → exec (.readCounter cls idx num part) s = .next (answered s [1]))
          ∧ (s.asks 1 args = true → idx < unit.1 → num < unit.2 → ¬ (cls = 0 ∧ num < 3) → ¬ (cls = 3 ∧ num < 3) →
              let v := Tab.getD s.counters (counterKey cls idx num 0) 0
              exec (.readCounter cls idx num part) s = .next (answered s [0, v % 2 ^ 32, v / 2 ^ 32]))
          ∧ (s.asks 1 args = true → cls = 0 → idx < 832 → num = 0 → s.isFrozen 0 idx = false →
              let v := (s.cycle - Tab.getD s.cyclesBase idx 0) % 2 ^ 48
              exec (.readCounter cls idx num part) s = .next (answered s [0, v % 2 ^ 32, v / 2 ^ 32]))
          ∧ (s.asks 1 args = true → cls = 0 → idx < 832 → num = 1 ∨ num = 2 → part < 4 →
              let v := Tab.getD s.counters (counterKey 0 idx num part) 0
              exec (.readCounter cls idx num part) s = .next (answered s [0, v % 2 ^ 32, v / 2 ^ 32]))
          ∧ (s.asks 1 args = true → cls = 3 → idx < 4 → num < 3 →
              let v := if s.isFrozen 3 idx then Tab.getD s.counters (counterKey 3 idx num 0) 0 else Config.freeValue (s.freeCount + num) % 2 ^ 48
              exec (.readCounter cls idx num part) s = .next (answered { s with freeCount := s.freeCount + 3 } [0, v % 2 ^ 32, v / 2 ^ 32]))
          ∧ (idx < unit.1 →
              (s.asks 2 [cls, idx] = true → ∃ t, exec (.freeze cls idx) s = .next t ∧ t.response = [0] ∧ t.doorbell = false
                ∧ (∀ k, k ∈ t.frozen ↔ k ∈ s.frozen ∨ k = cls * 1024 + idx)
                ∧ (cls ≠ 0 → cls ≠ 3 → t.counters = s.counters)
                ∧ (cls = 3 → s.isFrozen 3 idx = false → ∀ n, n < 3 →
                    Tab.getD t.counters (counterKey 3 idx n 0) 0 = Config.freeValue (s.freeCount + n) % 2 ^ 48)
                ∧ (cls = 0 → s.isFrozen 0 idx = false →
                    Tab.getD t.counters (counterKey 0 idx 0 0) 0 = (s.cycle - Tab.getD s.cyclesBase idx 0) % 2 ^ 48))
              ∧ (s.asks 3 [cls, idx] = true → ∃ t, exec (.clear cls idx) s = .next t ∧ t.response = [0] ∧ t.doorbell = false
                ∧ (∀ n p, n < 64 → p < 4 → Tab.getD t.counters (counterKey cls idx n p) 0 = 0)
                ∧ (∀ k, k / 256 ≠ cls * 1024 + idx → Tab.find t.counters k = Tab.find s.counters k)
                ∧ (cls = 0 → Tab.getD t.cyclesBase idx 0 = s.cycle))))
        ∧ (∀ n v,
            let lim := [(0, 10000), (0, 2 ^ 32 - 1), (10, 10 ^ 6), (100, 10 ^ 7), (600, 2400), (1, 1024)].getD n (1, 0)
            s.asks 4 [] = true → exec (.setParam n v) s = .next (if lim.1 ≤ v ∧ v ≤ lim.2 then answered { s with params := Tab.set s.params n v } [0] else answered s [1]))
        ∧ (∀ base size, s.asks 12 [] = true →
            (s.saveUsed = 0 → s.images = [] → s.gangImages = [] →
              exec (.setSaveRegion base size) s = .next (answered { s with saveBase := base, saveSize := size } [0]))
            ∧ (s.saveUsed ≠ 0 ∨ s.images ≠ [] ∨ s.gangImages ≠ [] → exec (.setSaveRegion base size) s = .next (answered s [2])))
        ∧ ∀ base, s.asks 13 [] = true → exec (.setAperture base) s = .next (if base % 2 ^ 36 = 0 then answered { s with aperture := base } [0] else answered s [1])))
  ∧ (∀ s,
      let answered (t : State) (ws : List Nat) : State := { t with response := ws, doorbell := false }
      (∀ nonce : List Byte, s.asks 5 [] = true → nonce.length = 32 → s.bootDigests.flatten.length = 128 →
        let body := nonce ++ s.bootDigests.flatten ++ leBytes 4 s.attestLeaf ++ zeros 28
        let report := body ++ (Config.lmsSign s.identity s.attestLeaf body ++ zeros 1612).take 1612
        (s.attestLeaf < 32768 → exec (.attest nonce) s =
            .next (answered { s with attestLeaf := s.attestLeaf + 1 } (0 :: (List.range 451).map (fun k => leNat ((report.drop (4 * k)).take 4)))))
        ∧ (32768 ≤ s.attestLeaf → exec (.attest nonce) s = .next (answered s [3])))
      ∧ (∀ g, Tab.find s.grids g = none → ∀ i, ((i = .attach g ∧ s.asks 6 [] = true) ∨ (i = .detach g ∧ s.asks 7 [] = true)
            ∨ (i = .resume g ∧ s.asks 8 [] = true) ∨ (i = .preempt g 1 ∧ s.asks 9 [] = true)) →
          exec i s = .next (answered s [1]))
      ∧ ∀ g x, Tab.find s.grids g = some x →
        (s.asks 6 [] = true → exec (.attach g) s = .next (answered (s.setGrid g { x with attached := true }) [0]))
        ∧ (s.asks 7 [] = true → exec (.detach g) s = .next (answered (s.setGrid g { x with attached := false }) [0]))
        ∧ (∀ st, s.asks 8 [] = true → x.stop = some st → st.cause % 256 = 0x1C → st.written = true →
            ∃ t, exec (.resume g) s = .next t ∧ t.response = [0] ∧ t.grid g = { x with stop := none } ∧ SameMemory s t ∧ (∀ r, t.lane r = s.lane r)
              ∧ ∀ k y, Tab.find s.teams k = some y → y.grid = g → y.phase = .stopping → (t.team k).phase = .running ∧ (t.team k).gate = true)
        ∧ (s.asks 8 [] = true → (∀ st, x.stop = some st → st.cause % 256 ≠ 0x1C) → exec (.resume g) s = .next (answered s [1]))
        ∧ ∀ t y pa v, s.asks 9 [] = true → s.teams = [(t, y)] → y.grid = g → y.phase = .running → y.action = 0 → x.requests = [] → s.allExited t = false →
            s.place g (x.status + 0x20) 1 = .mem pa v → Uncached s → s.bad = [] → s.waiters = [] → Memory.wf s.mem = true →
            ∃ u, exec (.preempt g 1) s = .next u ∧ u.response = [0] ∧ u.doorbell = false ∧ Wrote s u pa (leBytes 4 ((x.preempts + 1) % 2 ^ 32)) ∧ (∀ r, u.lane r = s.lane r)
              ∧ (u.team t).action = 1 ∧ (u.grid g).preempts = (x.preempts + 1) % 2 ^ 32 ∧ Tab.find (u.grid g).requests s.nextKey = some 2)

/-- An invalidation waits for the commits that used an earlier translation and leaves no TLB entry that touches its range; MIGRATE copies a page
to its new frame, changes its leaf to name it and drops its translations in every context, a queue's control block that comes to another die
names that die as its OWNER, and the requests answered RETRY follow; a versioned page is MIGRATING from IDLE alone, and its entry then comes
to its new index with VERSION and PINS, those of saved teams too (R263, R410 to R412, R420; how a request names a new entry and its frames is the
model's, log entry 34). -/
def Obligations.MigrationsAndInvalidations : Prop :=
  (∀ s g lo hi, s.asks 10 [] = true → (Tab.find s.grids g).isSome → exec (.invalidate g lo hi) s =
    .next { s with invals := Tab.set s.invals s.nextKey (g, lo, hi), nextKey := s.nextKey + 1, response := [0], doorbell := false })
  ∧ (∀ s n g lo hi, Tab.find s.invals n = some (g, lo, hi) →
      let old (c : Nat × Commit) : Prop :=
        (s.team c.2.lane.team).grid = g ∧ ∃ o, Tab.find s.ops c.2.op = some o ∧ lo ≤ o.info.addr ∧ o.info.addr < hi
      ((∃ c ∈ s.commits, old c) → exec (.invalidationComplete n) s = .next s)
      ∧ ((∀ c ∈ s.commits, ¬ old c) → s.waiters = [] → Uncached s → ∃ t, exec (.invalidationComplete n) s = .next t
        ∧ t = { s with tlb := t.tlb, invals := Tab.erase s.invals n }
        ∧ ∀ e, e ∈ t.tlb ↔ e ∈ s.tlb ∧ ¬ (e.grid = g ∧ e.va < hi ∧ lo < e.va + e.size)))
  ∧ (∀ s g x va pa e size leaf level, s.asks 11 [] = true → Tab.find s.grids g = some x → va < 2 ^ 56 → s.walkVa g va = .leaf e size →
      leafAddr s va 4 (x.root + 8 * levelIndex 4 va) = some (leaf, level) → Uncached s → s.bad = [] → s.waiters = [] → Memory.wf s.mem = true →
      let old := e / 2 ^ 8 % 2 ^ 40 * 256
      bit e 6 = false → pa % size = 0 → physValid pa = true → isHost pa = false → isHost old = false → (leaf + 8 ≤ pa ∨ pa + size ≤ leaf) →
      ∃ t, exec (.migrate g va pa) s = .next t ∧ t.response = [0]
        ∧ (dieOfPa old = dieOfPa pa → ∀ a, memGet t.mem a =
            if leaf ≤ a ∧ a < leaf + 8 then (leBytes 8 (e - old + pa)).getD (a - leaf) 0
            else if pa ≤ a ∧ a < pa + size then memGet s.mem (a - pa + old) else memGet s.mem a)
        ∧ (∀ off q, dieOfPa old ≠ dieOfPa pa → off % 64 = 0 → off < size → s.queueAt (old + off) q →
            (leaf + 8 ≤ pa + off ∨ pa + off + 64 ≤ leaf) → t.queueAt (pa + off) { q with owner := dieOfPa pa })
        ∧ (∀ q, (t.lane q).pc = (s.lane q).pc ∧ (t.lane q).v = (s.lane q).v)
        ∧ ∀ e ∈ t.tlb, ¬ (e.grid = g ∧ e.va < va / size * size + size ∧ va / size * size < e.va + e.size)
          ∧ (bit e.pte 6 = false → e.pte / 2 ^ 8 % 2 ^ 40 * 256 + e.size ≤ old ∨ old + size ≤ e.pte / 2 ^ 8 % 2 ^ 40 * 256))
  ∧ (∀ s g x va w e size leaf level v, s.asks 11 [] = true → Tab.find s.grids g = some x → va < 2 ^ 56 → s.walkVa g va = .leaf e size →
      leafAddr s va 4 (x.root + 8 * levelIndex 4 va) = some (leaf, level) → bit e 6 = true → Tab.find s.versions (e / 2 ^ 8 % 2 ^ 12) = some v →
      let old := e / 2 ^ 8 % 2 ^ 12
      let f0 := w / 2 ^ 12 % 2 ^ 15
      let f1 := w / 2 ^ 27 % 2 ^ 15
      let fits : Prop := w < 2 ^ 42 ∧ Tab.find s.versions (w % 2 ^ 12) = none ∧ f0 < 24576 ∧ f1 < 24576 ∧ f0 ≠ f1
        ∧ (w % 2 ^ 12 / 2 ^ 10 ≠ old / 2 ^ 10 ∨ (f0 ≠ v.frame0 ∧ f0 ≠ v.frame1 ∧ f1 ≠ v.frame0 ∧ f1 ≠ v.frame1))
      (¬ fits → exec (.migrate g va w) s = .next { s with response := [1], doorbell := false })
      ∧ (fits → v.state ≠ 0 → exec (.migrate g va w) s = .next { s with response := [2], doorbell := false })
      ∧ (fits → v.state = 0 → exec (.migrate g va w) s = .next { s with
          versions := Tab.set s.versions old { v with state := 3 }, nextKey := s.nextKey + 1, response := [0], doorbell := false,
          migrations := Tab.set s.migrations s.nextKey
            { grid := g, va := va / size * size, size := size, old := old, new := w, retries := 0, versioned := true } }))
  ∧ ∀ s n m, Tab.find s.migrations n = some m →
      (m.versioned = false → ∃ t, exec (.migrationRetry n) s = .next t ∧ Tab.find t.migrations n = none
        ∧ t = { s with migrations := t.migrations, commits := t.commits, counters := t.counters }
        ∧ t.commits = s.commits.map (fun c => (c.1, { c.2 with
            ctl := if m.old ≤ c.2.ctl ∧ c.2.ctl < m.old + m.size then c.2.ctl - m.old + m.new else c.2.ctl })))
      ∧ ∀ v leaf level, m.versioned = true → Tab.find s.versions m.old = some v →
          leafAddr s m.va 4 ((s.grid m.grid).root + 8 * levelIndex 4 m.va) = some (leaf, level) → s.publications = [] → s.teams = [] →
          m.new % 2 ^ 12 ≠ m.old →
          ∃ t, exec (.migrationRetry n) s = .next t ∧ Tab.find t.migrations n = none ∧ Tab.find t.versions m.old = none
            ∧ Tab.find t.versions (m.new % 2 ^ 12) =
                some { v with state := 0, frame0 := m.new / 2 ^ 12 % 2 ^ 15, frame1 := m.new / 2 ^ 27 % 2 ^ 15 }
            ∧ t.images = s.images.map (fun e => (e.1, { e.2 with
                pins := e.2.pins.map (fun p => if p.1 = m.old then (m.new % 2 ^ 12, p.2) else p) }))
            ∧ ∀ e ∈ t.tlb, bit e.pte 6 = true → e.pte / 2 ^ 8 % 2 ^ 12 ≠ m.old

/-- Writes to Trara's registers: request words and the doorbell, slot table, windows, roots, the fabric's context, age thresholds and delivery
bounds within their ends, the device number while the device is not up; a doorbell that rings for no operation is answered BAD_REQUEST;
SET_LINK_KEY fills an empty NEXT, which becomes CURRENT where that is empty or used up, and is BUSY on one in use (R154, R279, R403, R434, R435,
R446, R450, R451, R453, R490; the register numbers are the model's, log entry 14). -/
def Obligations.RegisterWrites : Prop :=
  ∀ s v,
    (∀ k, k < 16 → exec (.registerWrite (0x100000 + 4 * k) v) s = .next { s with request := Tab.set s.request k (v % 2 ^ 32) })
    ∧ (s.doorbell = true → exec (.registerWrite 0x100040 v) s = .next s)
    ∧ (s.doorbell = false → s.ready = true →
        let op := Tab.getD s.request 0 0
        exec (.registerWrite 0x100040 1) s = .next (if 1 ≤ op ∧ op ≤ 0x12 then { s with doorbell := true } else { s with response := [1] }))
    ∧ (∀ k, k < 64 → exec (.registerWrite (0x1000000 + k) v) s =
        .next { s with nextTable := { s.nextTable with entries := Tab.set s.nextTable.entries k (Nat.land (v % 2 ^ 128) 0xBFBFBFBFBFBFBFBF8000FFFF00FFFFFF) } })
    ∧ exec (.registerWrite 0x1000400 v) s = .next { s with nextTable := { s.nextTable with epoch := v % 2 ^ 64 }, tablePending := true }
    ∧ exec (.registerWrite 0x1000401 v) s = .next (if 1 ≤ v ∧ v ≤ 64 then { s with nextTable := { s.nextTable with nslot := v } } else s)
    ∧ (∀ k, k < 16 → ∃ t, exec (.registerWrite (0x1000500 + k) v) s = .next t ∧ t = { s with windows := t.windows }
        ∧ (Tab.find t.windows k).map (fun w => (w.grid, w.ctl)) = some (v / 2 ^ 64, v % 2 ^ 64))
    ∧ exec (.registerWrite 0x1000600 v) s = .next { s with fabricGrid := v }
    ∧ exec (.registerWrite 0x1000601 v) s = .next (if s.ready then s else { s with dev := v % 1024 })
    ∧ exec (.registerWrite 0x1000602 v) s = .next { s with endpoint := v % 2 ^ 48 }
    ∧ (∀ p, p < 24 → v = 1 ∨ v = 2 ∨ v = 4 → ∃ t, exec (.registerWrite (0x1000610 + p) v) s = .next t ∧ t = { s with ports := t.ports }
        ∧ (Tab.find t.ports p).map (fun x => (x.config, x.links)) = some (v, []))
    ∧ (∀ d, d < 4 → exec (.registerWrite (0x1000700 + d) v) s = .next { s with roots := Tab.set s.roots d (v % 2 ^ 48 / 2048 * 2048) })
    ∧ (∀ c, c < 832 → exec (.registerWrite (0x2000000 + c) v) s =
        .next { s with ageThreshold := Tab.set s.ageThreshold c (max 32 (min 4096 v)) })
    ∧ (∀ c, c < 3 →
        let lim := [(5000, 1000000), (50000, 100000000), (50000, 10000000)].getD c (0, 0)
        exec (.registerWrite (0x1000800 + c) v) s = .next (if lim.1 ≤ v ∧ v ≤ lim.2 then { s with params := Tab.set s.params (16 + c) v } else s))
    ∧ ∀ peer key salt (tx : Bool), s.asks 14 [] = true → peer < 1024 →
        let l := Tab.getD (if tx then s.txLinks else s.rxLinks) peer SealLink.zero
        let k := 1 - l.current
        ((l.slot k).inUse = true → exec (.setLinkKey peer tx key salt) s = .next { s with response := [2], doorbell := false })
        ∧ ((l.slot k).inUse = false → ∃ t, exec (.setLinkKey peer tx key salt) s = .next t ∧ t.response = [0]
            ∧ t = { s with txLinks := t.txLinks, rxLinks := t.rxLinks, response := [0], doorbell := false }
            ∧ let m : SealLink := { l with
                slots := Tab.set l.slots k { key := key, salt := salt, ctr := 0, seen := [], inUse := true, marker := none } }
              let cur := l.slot l.current
              Tab.getD (if tx then t.txLinks else t.rxLinks) peer SealLink.zero =
                if cur.inUse = false then { m with current := k }
                else if cur.ctr < 2 ^ 32 then m
                else { m with current := k,
                              slots := if cur.marker = none then Tab.set m.slots l.current { cur with marker := some (2 ^ 32 - 1) } else m.slots })

/-! ### Links and the fabric -/

/-- From READY on a port comes up only where its peer offers the supported parts of its standard, with the lanes that the port's group is set
to; the time base steers towards the grandmaster, is UNLOCKED outside ±50 ns, and runs free once discipline is lost (R423, R435, R437). The
peer table: a written entry is staged, and a commit replaces the entries staged together, raises GEN where one changed and resends what was
answered MOVED while it waited, on a port that is up; MOVED with nothing staged resends at once, and only once, without a new bound; a packet
past its bound that does not wait at its target, or answered MOVED again, is dropped with PKTDROP, a load completing with zeros, and a helper
lane's load without PKTDROP (R22, R438, R440, R442, R446, R447). -/
def Obligations.LinksAndPeers : Prop :=
  ((∀ s port (o : LinkOffer), s.boot ≠ .ready → exec (.linkTraining port o) s = .next s)
    ∧ (∀ s port (o : LinkOffer), port < 32 → o.part < 4 → s.boot = .ready → (∀ e ∈ s.sent, e.2.waits = false) →
      let x := Tab.getD s.ports port { config := 4, links := [], busy := 0 }
      let fits : Bool :=
        if port < 24 then !o.ethernet && o.rate == 200 && o.lanes == x.config && decide ((o.part + 1) * x.config ≤ 4) && !o.security
        else o.ethernet && o.rate == 800 && o.service == 0 && o.part == 0 && !o.security && !o.offload && !o.otherClock
      exec (.linkTraining port o) s =
        .next { s with ports := Tab.set s.ports port { x with links := Tab.set x.links o.part fits, busy := s.now } })
    ∧ (∀ s n, exec (.ptpMessage n) s = .next { s with steer := n, unlocked := decide (n < -5000 ∨ 5000 < n) })
    ∧ ∀ s, exec .unlocked s = .next { s with steer := 0, unlocked := true })
  ∧ ((∀ s p e, p < 1024 → exec (.peerTableStage p e) s = .next { s with
        staged := Tab.set s.staged p (e / 2 ^ 64 % 2 ^ 48 * 2 ^ 64 + e / 2 ^ 61 % 2 ^ 3 * 2 ^ 61 + e % 2 ^ 24) })
    ∧ (∀ s p e, s.staged = [(p, e)] →
        ∃ t, exec .peerTableCommit s = .next t ∧ t.staged = [] ∧ t.peerEntry p = e ∧ (∀ q, q ≠ p → t.peerEntry q = s.peerEntry q)
          ∧ t.gen p = (if s.peerEntry p = e then s.gen p else (s.gen p + 1) % 256) ∧ (∀ q, q ≠ p → t.gen q = s.gen q)
          ∧ ((∀ x ∈ s.sent, x.2.waits = false) → t.sent = s.sent)
          ∧ ∀ n q, s.sent = [(n, q)] → q.waits = true → q.queue = none → q.peer = p → p < 1024 → s.portUp e → (bit e 61 = true ∨ bit e 62 = true) →
              t.sent = [(n, { q with resent := !q.fresh, fresh := false, waits := false, gen := t.gen p,
                                     at_ := if q.fresh then s.now else q.at_ })])
    ∧ ∀ s n q, Tab.find s.sent n = some q → q.fresh = false → q.queue = none → (∀ e ∈ s.sent, e.2.waits = false) →
        let expired : Prop := q.held = false ∧ q.at_ + s.classBound q.cls ≤ s.now
        (expired → exec (.moved n) s = .next s) ∧ (¬ expired → exec (.packetDrop n) s = .next s)
        ∧ (¬ expired → q.resent = false → (Tab.find s.staged q.peer).isSome →
          exec (.moved n) s = .next { s with sent := Tab.set s.sent n { q with waits := true } })
        ∧ (¬ expired → q.resent = false → (s.sent.map Prod.fst).Nodup → Tab.find s.staged q.peer = none → q.peer < 1024 → s.portUp (s.peerEntry q.peer) →
            (∀ e ∈ s.sent, e.1 = n ∨ e.2.peer ≠ q.peer ∨ e.2.held = true ∨ e.2.gen = s.gen q.peer) →
            (bit (s.peerEntry q.peer) 61 = true ∨ bit (s.peerEntry q.peer) 62 = true) →
          exec (.moved n) s = .next { s with sent := Tab.set s.sent n { q with resent := true, gen := s.gen q.peer } })
        ∧ ∀ i, (i = .moved n ∧ q.resent = true ∧ ¬ expired) ∨ (i = .packetDrop n ∧ expired) →
            (s.gridOf q.team).strict = false → (s.grid 0).strict = false → (Tab.find s.teams q.team).isSome →
            (q.op = none → ∃ t, exec i s = .next t ∧ Tab.find t.sent n = none ∧ (t.team q.team).terr = (s.team q.team).terr ||| 4#7
              ∧ SameMemory s t ∧ ∀ r, t.lane r = s.lane r)
            ∧ ∀ k o d w, q.op = some k → Tab.find s.ops k = some o → o.lane.team = q.team → o.info.code = 0 → o.late = none → o.together = false → o.preds = [] →
                (∀ e ∈ s.ops, e.1 ≠ k → e.2.wait ≠ o.wait) →
                o.phase = 0 → o.fill = some (d, w) → d < 120 → w ≤ 7 → (s.lane o.lane).cond = .running → s.landings = [] →
                let y : Lane := { s.lane o.lane with sb := match o.slot with
                  | some j => Tab.set (s.lane o.lane).sb j ((s.lane o.lane).slotCount j - 1)
                  | none => (s.lane o.lane).sb }
                let load : Prop :=
                  ∃ x, decodeBits o.info.len o.info.insn = .ok (.ld x) ∨ decodeBits o.info.len o.info.insn = .ok (.ldl x)
                    ∨ decodeBits o.info.len o.info.insn = .ok (.ldv x)
                ∃ t, exec i s = .next t ∧ Tab.find t.sent n = none ∧ Tab.find t.ops k = none ∧ SameMemory s t
                  ∧ (s.isHelper o.lane = false → (t.team q.team).terr = (s.team q.team).terr ||| 4#7)
                  ∧ (s.isHelper o.lane = true → load → (t.team q.team).terr = (s.team q.team).terr)
                  ∧ t.lane o.lane =
                      (intoRegs d (loadedWords w (zeros 32))).foldl (fun z v => z.put v.1 v.2) y)

/-- A request of another device past its bound is not delivered; one for a logical id not owned here is answered MOVED; one performed before is
answered from the record and not again; a read, a store or an atomic in its turn is performed at its home and answered, with the store's
bytes alone changed; one the translation refuses, or whose operation R80 reserves at its width, is answered so, and one whose combination
raises INV says so. Ownership is set by id, and an id that is not one is ignored (R80, R436, R439, R441, R443, R444, R447). -/
def Obligations.FabricServing : Prop :=
  (∀ s id n, 1024 ≤ id ∨ 2 < n → exec (.ownershipSet id n) s = .next s)
  ∧ (∀ s id n, s.arrivals = [] → id < 1024 → n ≤ 2 → exec (.ownershipSet id n) s = .next { s with owner := Tab.set s.owner id n })
  ∧ (∀ s p, s.arrivals = [] → p.sentAt + s.classBound p.cls ≤ s.now → exec (.fabricRequest p) s = .next s)
  ∧ ∀ s p, s.arrivals = [] → (∀ e ∈ s.peers, bits e.2 73 64 = p.src → bit e.2 61 = true ∨ bit e.2 62 = true) →
      (∀ e ∈ s.sent, e.2.peer ≠ 1024 + p.src) → s.now < p.sentAt + s.classBound p.cls →
      let reply (ds : List Byte) : State := s.answerSent p.src 0 (.reply p.src p.seq ds) ds
      ((s.inboundOf p).performed = [] → s.ownership p.logical = 0 →
        exec (.fabricRequest p) s = .next (s.answerSent p.src 3 (.moved p.src p.seq) []))
      ∧ (∀ at_ ds, (s.inboundOf p).performed = [(p.seq, at_, ds)] → s.now < at_ + s.classBound p.cls →
          exec (.fabricRequest p) s = .next (reply ds))
      ∧ ((s.inboundOf p).performed = [] → s.ownership p.logical = 2 → p.after = [] → p.count = none →
          Uncached s → s.bad = [] → s.waiters = [] → Memory.wf s.mem = true →
          let g := s.fabricGrid
          let served (t : State) (ds : List Byte) : Prop :=
            t.outgoing = (reply ds).outgoing ∧ t.sent = (reply ds).sent ∧ t.arrivals = [] ∧ (t.inboundOf p).performed = [(p.seq, s.now, ds)]
              ∧ ∀ r, t.lane r = s.lane r
          (∀ c ue len, p.kind = .read len → s.place g p.offset 0 = .bad c ue → ∃ t, exec (.fabricRequest p) s = .next t ∧ served t [1] ∧ SameMemory s t)
          ∧ (∀ pa v len, p.kind = .read len → 0 < len → len ≤ 64 → p.offset % len = 0 → s.place g p.offset 0 = .mem pa v →
              ∃ t, exec (.fabricRequest p) s = .next t ∧ served t (0 :: memGetN s.mem pa len) ∧ SameMemory s t)
          ∧ (∀ pa v, p.kind = .write → p.data ≠ [] → p.offset % 64 + p.data.length ≤ 64 → s.place g p.offset 1 = .mem pa v →
              ∃ t, exec (.fabricRequest p) s = .next t ∧ served t [0] ∧ Wrote s t pa p.data)
          ∧ ∀ pa v w b, (w = 32 ∨ w = 64) → p.offset % (w / 8) = 0 → s.place g p.offset 1 = .mem pa v → isHost pa = false →
              let old := leNat (memGetN s.mem pa (w / 8))
              (∀ op, p.kind = .atomic op w b →
                (atomicOpFits op (if w = 64 then 1 else 0) = true → ∃ t, exec (.fabricRequest p) s = .next t
                  ∧ served t ((if (atomicOp op w old b).2 then 3 else 0) :: leBytes (w / 8) old) ∧ Wrote s t pa (leBytes (w / 8) (atomicOp op w old b).1))
                ∧ (atomicOpFits op (if w = 64 then 1 else 0) = false → ∃ t, exec (.fabricRequest p) s = .next t ∧ served t [1] ∧ SameMemory s t))
              ∧ ∀ new, p.kind = .cas w b new → ∃ t, exec (.fabricRequest p) s = .next t ∧ served t (0 :: leBytes (w / 8) old)
                ∧ if old = b then Wrote s t pa (leBytes (w / 8) new) else SameMemory s t)

/-- Sealed flits: one whose link check fails is dropped and counted; one that authenticates is passed on once and never again; one that does
not is asked for again, by a packet of class CONTROL, its fourth failure is counted and nothing of it is heard any more, and a stored flit is
sent again as it was, at most three times, and then dropped; a switch-over sends a marker under the old key and swaps, and does nothing while
NEXT is empty or holds an old key; an old key with nothing left before its marker is discarded, and Trara is told (R446, R449 to R452). -/
def Obligations.SealedFlits : Prop :=
  (∀ s (f : Flit),
    let l := Tab.getD s.rxLinks f.peer SealLink.zero
    let k := f.hdr / 2 ^ 62 % 2
    let ctr := f.hdr % 2 ^ 32
    let x := l.slot k
    let opened : Option (List Byte) := Config.gcmOpen x.key (x.salt * 2 ^ 32 + ctr) (f.hdr * 2 ^ 32 + f.peer * 2 ^ 16 + s.dev) f.body f.tag
    let fails := Tab.getD s.sealFails (flitKey f.peer k ctr) 0
    let asked (t : State) : Prop :=
      (s.outgoing ++ [.rerequest f.peer k ctr]) <+: t.outgoing ∧ t.flits = s.flits
        ∧ (t.stream (1024 + f.peer) 3).seq = ((s.stream (1024 + f.peer) 3).seq + 1) % 2 ^ 32
        ∧ (Tab.find t.sent s.nextKey).map (fun q => (q.peer, q.cls)) = some (1024 + f.peer, 3)
    (f.crcOk = false → exec (.flitReceive f) s = .next (s.count 4 0 6))
    ∧ (f.crcOk = true → 4 ≤ fails → exec (.flitReceive f) s = .next s)
    ∧ (∀ pt, f.crcOk = true → x.inUse = true → opened = some pt → ctr ∈ x.seen → exec (.flitReceive f) s = .next s)
    ∧ (∀ pt, f.crcOk = true → fails < 4 → x.inUse = true → opened = some pt → ctr ∉ x.seen → bit f.hdr 63 = false →
        ∃ t, exec (.flitReceive f) s = .next t ∧ t.flits = s.flits ++ [(f.peer, pt)]
          ∧ t = { s with rxLinks := t.rxLinks, flits := t.flits }
          ∧ ((Tab.getD t.rxLinks f.peer SealLink.zero).slot k).seen = ctr :: x.seen)
    ∧ (f.crcOk = true → x.inUse = true → opened = none → fails < 3 →
        ∃ t, exec (.flitReceive f) s = .next t ∧ asked t ∧ t.counters = s.counters
          ∧ Tab.getD t.sealFails (flitKey f.peer k ctr) 0 = fails + 1)
    ∧ (f.crcOk = true → x.inUse = true → opened = none → fails = 3 →
        ∃ t, exec (.flitReceive f) s = .next t ∧ asked t ∧ Tab.getD t.sealFails (flitKey f.peer k ctr) 0 = 4 ∧ t.counters = (s.count 4 0 9).counters))
  ∧ (∀ s peer f, (Tab.getD s.txLinks peer SealLink.zero).store = [f] → f.resends < 3 →
      ∃ t, exec (.flitRerequest peer f.slot f.ctr) s = .next t ∧ t.outgoing = s.outgoing ++ [.flit peer f.slot f.ctr f.bytes]
        ∧ (Tab.getD t.txLinks peer SealLink.zero).store = [{ f with resends := f.resends + 1 }]
        ∧ t = { s with txLinks := t.txLinks, outgoing := t.outgoing })
  ∧ (∀ s peer f, (Tab.getD s.txLinks peer SealLink.zero).store = [f] → 3 ≤ f.resends → Tab.find s.sent f.packet = none →
      ∃ t, exec (.flitRerequest peer f.slot f.ctr) s = .next t ∧ (Tab.getD t.txLinks peer SealLink.zero).store = []
        ∧ t = { s with txLinks := t.txLinks, counters := (s.count 4 0 9).counters })
  ∧ ∀ s peer,
      let l := Tab.getD s.txLinks peer SealLink.zero
      let cur := l.slot l.current
      ((l.slot (1 - l.current)).inUse = false ∨ (l.slot (1 - l.current)).marker.isSome = true → exec (.switchOver peer) s = .next s)
      ∧ ((l.slot (1 - l.current)).inUse = true → (l.slot (1 - l.current)).marker = none → cur.inUse = true → cur.ctr < 2 ^ 32 →
          let hdr := 2 ^ 63 + l.current % 2 * 2 ^ 62 + cur.ctr % 2 ^ 32
          let e := Config.gcmSeal cur.key (cur.salt * 2 ^ 32 + cur.ctr) (hdr * 2 ^ 32 + s.dev * 2 ^ 16 + peer) (zeros 232)
          ∃ t, exec (.switchOver peer) s = .next t ∧ (Tab.getD t.txLinks peer SealLink.zero).current = 1 - l.current
            ∧ t = { s with txLinks := t.txLinks, outgoing := t.outgoing }
            ∧ t.outgoing = s.outgoing ++
                [.flit peer l.current cur.ctr (leBytes 8 hdr ++ (e.1 ++ zeros 232).take 232 ++ leBytes 16 e.2)])
      ∧ ((l.slot (1 - l.current)).marker = none → exec (.oldKeyDiscard peer true) s = .next s)
      ∧ ∀ m, (l.slot (1 - l.current)).marker = some m → l.store = [] →
          exec (.oldKeyDiscard peer true) s =
            .next { s with txLinks := Tab.set s.txLinks peer { l with slots := Tab.erase l.slots (1 - l.current) },
                           outgoing := s.outgoing ++ [.linkNotice peer] }

/-- The circuit schedule: a new table takes effect at its EPOCH; a boundary finds the slot that the rotation has reached; a free port sends a
message that ends before the guard, as packets of at most 4,096 bytes to its peer's endpoint, and before any message a packet of the queue that
was lost; a delivery at this device's endpoint writes its bytes at their home and then adds 1 to NOTIFY, and one for another endpoint nothing;
a queue is bound to a peer of TIER 1 (R446, R453 to R455, R482, R487). -/
def Obligations.CircuitSlots : Prop :=
  (∀ s,
    (s.tablePending = true → s.nextTable.epoch * 100 ≤ s.now →
      exec .slotTableEpoch s = .next { s with slotTable := s.nextTable, tablePending := false, slotNow := none, slotStart := 0 })
    ∧ (s.now < s.nextTable.epoch * 100 → exec .slotTableEpoch s = .next s)
    ∧ ∀ k turn,
        let ds := s.slotTable.used.map slotDur
        let start := s.slotTable.epoch * 100 + turn * ds.sum + (ds.take k).sum
        k < ds.length → start ≤ s.now → s.now < start + ds.getD k 0 →
        exec .slotBoundary s = .next { s with slotNow := some k, slotStart := start })
  ∧ (∀ s port k x qn q peer m ms,
      let e := Tab.getD s.slotTable.entries k 0
      let done := s.now + (m.bytes.length + 64 * ((m.bytes.length + 4095) / 4096))
      s.slotNow = some k → Tab.find s.ports port = some x → 24 ≤ port → port < 32 → x.up = true → x.busy ≤ s.now → s.slotStart ≤ s.now →
      bit e 63 = true → slotReach e (port - 24) = some qn → s.sendQueue qn = q → q.peer = some peer → q.msgs = m :: ms →
      let sent (m : Message) (seq i : Nat) : Sent :=
        { peer := peer, cls := 2, seq := (seq + i) % 2 ^ 32, epoch := (s.stream peer 2).epoch, count := none, kind := .write, offset := m.dst + 4096 * i,
          data := (m.bytes.drop (4096 * i)).take 4096, gen := s.gen peer, resent := false, waits := false, at_ := s.now + 4160 * i,
          team := m.team, op := none, queue := some qn }
      ((∀ e ∈ s.sent, e.2.queue ≠ some qn) →
        (done + slotGuard e ≤ s.slotStart + slotDur e → s.fabricBusy peer = false → peer < 1024 → m.bytes ≠ [] → (s.stream peer 2).seq < 2 ^ 32 →
          (∀ e ∈ s.sent, e.1 < s.nextKey) → (bit (s.peerEntry peer) 61 = true ∨ bit (s.peerEntry peer) 62 = true) →
          ∃ t, exec (.messageSend port) s = .next t ∧ t.sendQueue qn = { q with msgs := ms }
            ∧ t.outgoing = s.outgoing ++ [.message { m with endpoint := s.peerEntry peer / 2 ^ 64 % 2 ^ 48 }]
            ∧ t.sent = s.sent ++ (List.range ((m.bytes.length + 4095) / 4096)).map (fun i => (s.nextKey + i, sent m (s.stream peer 2).seq i))
            ∧ Tab.find t.ports port = some { x with busy := done } ∧ SameMemory s t ∧ ∀ r, t.lane r = s.lane r)
        ∧ (s.slotStart + slotDur e < done + slotGuard e → exec (.messageSend port) s = .next s))
      ∧ ∀ n p, s.sent = [(n, p)] → p.queue = some qn → p.waits = true → s.overdue p = false →
          let done := s.now + (p.data.length + 64 * ((p.data.length + 4095) / 4096))
          (done + slotGuard e ≤ s.slotStart + slotDur e → exec (.messageSend port) s = .next { s with
            ports := Tab.set s.ports port { x with busy := done }, sent := [(n, { p with waits := false, gen := s.gen p.peer })] })
          ∧ (s.slotStart + slotDur e < done + slotGuard e → exec (.messageSend port) s = .next s))
  ∧ (∀ s m pa pn v w, Uncached s → s.waiters = [] → s.bad = [] → Memory.wf s.mem = true →
      let dst := m.dst % 2 ^ 46
      let at_ := m.notify % 2 ^ 46
      (m.endpoint ≠ s.endpoint → exec (.messageDelivery m) s = .next s)
      ∧ (m.endpoint = s.endpoint → m.bytes ≠ [] → dst % 64 + m.bytes.length ≤ 64 → s.place s.fabricGrid dst 1 = .mem pa v →
      (m.notify = 0 → ∃ t, exec (.messageDelivery m) s = .next t ∧ Wrote s t pa m.bytes)
      ∧ (m.notify ≠ 0 → (s.tlbHit s.fabricGrid at_).isSome = true → s.place s.fabricGrid at_ 1 = .mem pn w → isHost pn = false →
          (pn + 4 ≤ pa ∨ pa + m.bytes.length ≤ pn) →
          ∃ t, exec (.messageDelivery m) s = .next t
            ∧ ∀ a, memGet t.mem a =
                if pn ≤ a ∧ a < pn + 4 then (leBytes 4 ((leNat (memGetN s.mem pn 4) + 1) % 2 ^ 32)).getD (a - pn) 0
                else if pa ≤ a ∧ a < pa + m.bytes.length then m.bytes.getD (a - pa) 0 else memGet s.mem a)))
  ∧ ∀ s q peer, q < 64 → peer < 1024 →
      (bit (s.peerEntry peer) 63 = true → bit (s.peerEntry peer) 62 = true →
        exec (.sendQueueBind q peer) s = .next { s with queues := Tab.set s.queues q { s.sendQueue q with peer := some peer } })
      ∧ (bit (s.peerEntry peer) 62 = false → exec (.sendQueueBind q peer) s = .next s)
end

