-- ==== Sys2Proof/Laws/State.lean ====
section
/-! SUPPORT. What each named update of the state leaves alone: one lemma for each field and update. -/

namespace Sys2Proof.Machine

open Sys2Proof

/-! ### setTeam -/

@[simp] theorem State.setTeam_cycle (s : State) (k : Nat) (x : Team) : (s.setTeam k x).cycle = s.cycle := rfl
@[simp] theorem State.setTeam_now (s : State) (k : Nat) (x : Team) : (s.setTeam k x).now = s.now := rfl
@[simp] theorem State.setTeam_steer (s : State) (k : Nat) (x : Team) : (s.setTeam k x).steer = s.steer := rfl
@[simp] theorem State.setTeam_unlocked (s : State) (k : Nat) (x : Team) : (s.setTeam k x).unlocked = s.unlocked := rfl
@[simp] theorem State.setTeam_boot (s : State) (k : Nat) (x : Team) : (s.setTeam k x).boot = s.boot := rfl
@[simp] theorem State.setTeam_bootFail (s : State) (k : Nat) (x : Team) : (s.setTeam k x).bootFail = s.bootFail := rfl
@[simp] theorem State.setTeam_ready (s : State) (k : Nat) (x : Team) : (s.setTeam k x).ready = s.ready := rfl
@[simp] theorem State.setTeam_cur (s : State) (k : Nat) (x : Team) : (s.setTeam k x).cur = s.cur := rfl
@[simp] theorem State.setTeam_turns (s : State) (k : Nat) (x : Team) : (s.setTeam k x).turns = s.turns := rfl
@[simp] theorem State.setTeam_issuedNow (s : State) (k : Nat) (x : Team) : (s.setTeam k x).issuedNow = s.issuedNow := rfl
@[simp] theorem State.setTeam_mem (s : State) (k : Nat) (x : Team) : (s.setTeam k x).mem = s.mem := rfl
@[simp] theorem State.setTeam_bad (s : State) (k : Nat) (x : Team) : (s.setTeam k x).bad = s.bad := rfl
@[simp] theorem State.setTeam_grids (s : State) (k : Nat) (x : Team) : (s.setTeam k x).grids = s.grids := rfl
@[simp] theorem State.setTeam_bins (s : State) (k : Nat) (x : Team) : (s.setTeam k x).bins = s.bins := rfl
@[simp] theorem State.setTeam_tiles (s : State) (k : Nat) (x : Team) : (s.setTeam k x).tiles = s.tiles := rfl
@[simp] theorem State.setTeam_tagCounter (s : State) (k : Nat) (x : Team) : (s.setTeam k x).tagCounter = s.tagCounter := rfl
@[simp] theorem State.setTeam_ops (s : State) (k : Nat) (x : Team) : (s.setTeam k x).ops = s.ops := rfl
@[simp] theorem State.setTeam_waiters (s : State) (k : Nat) (x : Team) : (s.setTeam k x).waiters = s.waiters := rfl
@[simp] theorem State.setTeam_landings (s : State) (k : Nat) (x : Team) : (s.setTeam k x).landings = s.landings := rfl
@[simp] theorem State.setTeam_commits (s : State) (k : Nat) (x : Team) : (s.setTeam k x).commits = s.commits := rfl
@[simp] theorem State.setTeam_chains (s : State) (k : Nat) (x : Team) : (s.setTeam k x).chains = s.chains := rfl
@[simp] theorem State.setTeam_l1 (s : State) (k : Nat) (x : Team) : (s.setTeam k x).l1 = s.l1 := rfl
@[simp] theorem State.setTeam_upd (s : State) (k : Nat) (x : Team) : (s.setTeam k x).upd = s.upd := rfl
@[simp] theorem State.setTeam_icache (s : State) (k : Nat) (x : Team) : (s.setTeam k x).icache = s.icache := rfl
@[simp] theorem State.setTeam_sigs (s : State) (k : Nat) (x : Team) : (s.setTeam k x).sigs = s.sigs := rfl
@[simp] theorem State.setTeam_marks (s : State) (k : Nat) (x : Team) : (s.setTeam k x).marks = s.marks := rfl
@[simp] theorem State.setTeam_tlb (s : State) (k : Nat) (x : Team) : (s.setTeam k x).tlb = s.tlb := rfl
@[simp] theorem State.setTeam_invals (s : State) (k : Nat) (x : Team) : (s.setTeam k x).invals = s.invals := rfl
@[simp] theorem State.setTeam_migrations (s : State) (k : Nat) (x : Team) : (s.setTeam k x).migrations = s.migrations := rfl
@[simp] theorem State.setTeam_qcache (s : State) (k : Nat) (x : Team) : (s.setTeam k x).qcache = s.qcache := rfl
@[simp] theorem State.setTeam_lasts (s : State) (k : Nat) (x : Team) : (s.setTeam k x).lasts = s.lasts := rfl
@[simp] theorem State.setTeam_versions (s : State) (k : Nat) (x : Team) : (s.setTeam k x).versions = s.versions := rfl
@[simp] theorem State.setTeam_publications (s : State) (k : Nat) (x : Team) : (s.setTeam k x).publications = s.publications := rfl
@[simp] theorem State.setTeam_windows (s : State) (k : Nat) (x : Team) : (s.setTeam k x).windows = s.windows := rfl
@[simp] theorem State.setTeam_launchCtl (s : State) (k : Nat) (x : Team) : (s.setTeam k x).launchCtl = s.launchCtl := rfl
@[simp] theorem State.setTeam_roots (s : State) (k : Nat) (x : Team) : (s.setTeam k x).roots = s.roots := rfl
@[simp] theorem State.setTeam_accepting (s : State) (k : Nat) (x : Team) : (s.setTeam k x).accepting = s.accepting := rfl
@[simp] theorem State.setTeam_admits (s : State) (k : Nat) (x : Team) : (s.setTeam k x).admits = s.admits := rfl
@[simp] theorem State.setTeam_nextGrid (s : State) (k : Nat) (x : Team) : (s.setTeam k x).nextGrid = s.nextGrid := rfl
@[simp] theorem State.setTeam_images (s : State) (k : Nat) (x : Team) : (s.setTeam k x).images = s.images := rfl
@[simp] theorem State.setTeam_tileImages (s : State) (k : Nat) (x : Team) : (s.setTeam k x).tileImages = s.tileImages := rfl
@[simp] theorem State.setTeam_gangImages (s : State) (k : Nat) (x : Team) : (s.setTeam k x).gangImages = s.gangImages := rfl
@[simp] theorem State.setTeam_saveBase (s : State) (k : Nat) (x : Team) : (s.setTeam k x).saveBase = s.saveBase := rfl
@[simp] theorem State.setTeam_saveSize (s : State) (k : Nat) (x : Team) : (s.setTeam k x).saveSize = s.saveSize := rfl
@[simp] theorem State.setTeam_saveUsed (s : State) (k : Nat) (x : Team) : (s.setTeam k x).saveUsed = s.saveUsed := rfl
@[simp] theorem State.setTeam_aperture (s : State) (k : Nat) (x : Team) : (s.setTeam k x).aperture = s.aperture := rfl
@[simp] theorem State.setTeam_params (s : State) (k : Nat) (x : Team) : (s.setTeam k x).params = s.params := rfl
@[simp] theorem State.setTeam_counters (s : State) (k : Nat) (x : Team) : (s.setTeam k x).counters = s.counters := rfl
@[simp] theorem State.setTeam_frozen (s : State) (k : Nat) (x : Team) : (s.setTeam k x).frozen = s.frozen := rfl
@[simp] theorem State.setTeam_cyclesBase (s : State) (k : Nat) (x : Team) : (s.setTeam k x).cyclesBase = s.cyclesBase := rfl
@[simp] theorem State.setTeam_attestLeaf (s : State) (k : Nat) (x : Team) : (s.setTeam k x).attestLeaf = s.attestLeaf := rfl
@[simp] theorem State.setTeam_fuseDigest (s : State) (k : Nat) (x : Team) : (s.setTeam k x).fuseDigest = s.fuseDigest := rfl
@[simp] theorem State.setTeam_fuseVersion (s : State) (k : Nat) (x : Team) : (s.setTeam k x).fuseVersion = s.fuseVersion := rfl
@[simp] theorem State.setTeam_identity (s : State) (k : Nat) (x : Team) : (s.setTeam k x).identity = s.identity := rfl
@[simp] theorem State.setTeam_bootDigests (s : State) (k : Nat) (x : Team) : (s.setTeam k x).bootDigests = s.bootDigests := rfl
@[simp] theorem State.setTeam_response (s : State) (k : Nat) (x : Team) : (s.setTeam k x).response = s.response := rfl
@[simp] theorem State.setTeam_request (s : State) (k : Nat) (x : Team) : (s.setTeam k x).request = s.request := rfl
@[simp] theorem State.setTeam_doorbell (s : State) (k : Nat) (x : Team) : (s.setTeam k x).doorbell = s.doorbell := rfl
@[simp] theorem State.setTeam_withheld (s : State) (k : Nat) (x : Team) : (s.setTeam k x).withheld = s.withheld := rfl
@[simp] theorem State.setTeam_powerHold (s : State) (k : Nat) (x : Team) : (s.setTeam k x).powerHold = s.powerHold := rfl
@[simp] theorem State.setTeam_powerLog (s : State) (k : Nat) (x : Team) : (s.setTeam k x).powerLog = s.powerLog := rfl
@[simp] theorem State.setTeam_dev (s : State) (k : Nat) (x : Team) : (s.setTeam k x).dev = s.dev := rfl
@[simp] theorem State.setTeam_endpoint (s : State) (k : Nat) (x : Team) : (s.setTeam k x).endpoint = s.endpoint := rfl
@[simp] theorem State.setTeam_peers (s : State) (k : Nat) (x : Team) : (s.setTeam k x).peers = s.peers := rfl
@[simp] theorem State.setTeam_staged (s : State) (k : Nat) (x : Team) : (s.setTeam k x).staged = s.staged := rfl
@[simp] theorem State.setTeam_peerGen (s : State) (k : Nat) (x : Team) : (s.setTeam k x).peerGen = s.peerGen := rfl
@[simp] theorem State.setTeam_owner (s : State) (k : Nat) (x : Team) : (s.setTeam k x).owner = s.owner := rfl
@[simp] theorem State.setTeam_fabricGrid (s : State) (k : Nat) (x : Team) : (s.setTeam k x).fabricGrid = s.fabricGrid := rfl
@[simp] theorem State.setTeam_streams (s : State) (k : Nat) (x : Team) : (s.setTeam k x).streams = s.streams := rfl
@[simp] theorem State.setTeam_inbound (s : State) (k : Nat) (x : Team) : (s.setTeam k x).inbound = s.inbound := rfl
@[simp] theorem State.setTeam_arrivals (s : State) (k : Nat) (x : Team) : (s.setTeam k x).arrivals = s.arrivals := rfl
@[simp] theorem State.setTeam_sent (s : State) (k : Nat) (x : Team) : (s.setTeam k x).sent = s.sent := rfl
@[simp] theorem State.setTeam_outgoing (s : State) (k : Nat) (x : Team) : (s.setTeam k x).outgoing = s.outgoing := rfl
@[simp] theorem State.setTeam_ports (s : State) (k : Nat) (x : Team) : (s.setTeam k x).ports = s.ports := rfl
@[simp] theorem State.setTeam_txLinks (s : State) (k : Nat) (x : Team) : (s.setTeam k x).txLinks = s.txLinks := rfl
@[simp] theorem State.setTeam_rxLinks (s : State) (k : Nat) (x : Team) : (s.setTeam k x).rxLinks = s.rxLinks := rfl
@[simp] theorem State.setTeam_flits (s : State) (k : Nat) (x : Team) : (s.setTeam k x).flits = s.flits := rfl
@[simp] theorem State.setTeam_sealFails (s : State) (k : Nat) (x : Team) : (s.setTeam k x).sealFails = s.sealFails := rfl
@[simp] theorem State.setTeam_slotTable (s : State) (k : Nat) (x : Team) : (s.setTeam k x).slotTable = s.slotTable := rfl
@[simp] theorem State.setTeam_nextTable (s : State) (k : Nat) (x : Team) : (s.setTeam k x).nextTable = s.nextTable := rfl
@[simp] theorem State.setTeam_tablePending (s : State) (k : Nat) (x : Team) : (s.setTeam k x).tablePending = s.tablePending := rfl
@[simp] theorem State.setTeam_slotNow (s : State) (k : Nat) (x : Team) : (s.setTeam k x).slotNow = s.slotNow := rfl
@[simp] theorem State.setTeam_slotStart (s : State) (k : Nat) (x : Team) : (s.setTeam k x).slotStart = s.slotStart := rfl
@[simp] theorem State.setTeam_queues (s : State) (k : Nat) (x : Team) : (s.setTeam k x).queues = s.queues := rfl
@[simp] theorem State.setTeam_groups (s : State) (k : Nat) (x : Team) : (s.setTeam k x).groups = s.groups := rfl
@[simp] theorem State.setTeam_closed (s : State) (k : Nat) (x : Team) : (s.setTeam k x).closed = s.closed := rfl
@[simp] theorem State.setTeam_steps (s : State) (k : Nat) (x : Team) : (s.setTeam k x).steps = s.steps := rfl
@[simp] theorem State.setTeam_partials (s : State) (k : Nat) (x : Team) : (s.setTeam k x).partials = s.partials := rfl
@[simp] theorem State.setTeam_cohort (s : State) (k : Nat) (x : Team) : (s.setTeam k x).cohort = s.cohort := rfl
@[simp] theorem State.setTeam_heelStep (s : State) (k : Nat) (x : Team) : (s.setTeam k x).heelStep = s.heelStep := rfl
@[simp] theorem State.setTeam_objects (s : State) (k : Nat) (x : Team) : (s.setTeam k x).objects = s.objects := rfl
@[simp] theorem State.setTeam_lastHeartbeat (s : State) (k : Nat) (x : Team) : (s.setTeam k x).lastHeartbeat = s.lastHeartbeat := rfl
@[simp] theorem State.setTeam_ageThreshold (s : State) (k : Nat) (x : Team) : (s.setTeam k x).ageThreshold = s.ageThreshold := rfl
@[simp] theorem State.setTeam_nextKey (s : State) (k : Nat) (x : Team) : (s.setTeam k x).nextKey = s.nextKey := rfl
@[simp] theorem State.setTeam_freeCount (s : State) (k : Nat) (x : Team) : (s.setTeam k x).freeCount = s.freeCount := rfl

/-! ### setGrid -/

@[simp] theorem State.setGrid_cycle (s : State) (k : Nat) (x : Grid) : (s.setGrid k x).cycle = s.cycle := rfl
@[simp] theorem State.setGrid_now (s : State) (k : Nat) (x : Grid) : (s.setGrid k x).now = s.now := rfl
@[simp] theorem State.setGrid_steer (s : State) (k : Nat) (x : Grid) : (s.setGrid k x).steer = s.steer := rfl
@[simp] theorem State.setGrid_unlocked (s : State) (k : Nat) (x : Grid) : (s.setGrid k x).unlocked = s.unlocked := rfl
@[simp] theorem State.setGrid_boot (s : State) (k : Nat) (x : Grid) : (s.setGrid k x).boot = s.boot := rfl
@[simp] theorem State.setGrid_bootFail (s : State) (k : Nat) (x : Grid) : (s.setGrid k x).bootFail = s.bootFail := rfl
@[simp] theorem State.setGrid_ready (s : State) (k : Nat) (x : Grid) : (s.setGrid k x).ready = s.ready := rfl
@[simp] theorem State.setGrid_cur (s : State) (k : Nat) (x : Grid) : (s.setGrid k x).cur = s.cur := rfl
@[simp] theorem State.setGrid_turns (s : State) (k : Nat) (x : Grid) : (s.setGrid k x).turns = s.turns := rfl
@[simp] theorem State.setGrid_issuedNow (s : State) (k : Nat) (x : Grid) : (s.setGrid k x).issuedNow = s.issuedNow := rfl
@[simp] theorem State.setGrid_mem (s : State) (k : Nat) (x : Grid) : (s.setGrid k x).mem = s.mem := rfl
@[simp] theorem State.setGrid_bad (s : State) (k : Nat) (x : Grid) : (s.setGrid k x).bad = s.bad := rfl
@[simp] theorem State.setGrid_teams (s : State) (k : Nat) (x : Grid) : (s.setGrid k x).teams = s.teams := rfl
@[simp] theorem State.setGrid_bins (s : State) (k : Nat) (x : Grid) : (s.setGrid k x).bins = s.bins := rfl
@[simp] theorem State.setGrid_tiles (s : State) (k : Nat) (x : Grid) : (s.setGrid k x).tiles = s.tiles := rfl
@[simp] theorem State.setGrid_tagCounter (s : State) (k : Nat) (x : Grid) : (s.setGrid k x).tagCounter = s.tagCounter := rfl
@[simp] theorem State.setGrid_ops (s : State) (k : Nat) (x : Grid) : (s.setGrid k x).ops = s.ops := rfl
@[simp] theorem State.setGrid_waiters (s : State) (k : Nat) (x : Grid) : (s.setGrid k x).waiters = s.waiters := rfl
@[simp] theorem State.setGrid_landings (s : State) (k : Nat) (x : Grid) : (s.setGrid k x).landings = s.landings := rfl
@[simp] theorem State.setGrid_commits (s : State) (k : Nat) (x : Grid) : (s.setGrid k x).commits = s.commits := rfl
@[simp] theorem State.setGrid_chains (s : State) (k : Nat) (x : Grid) : (s.setGrid k x).chains = s.chains := rfl
@[simp] theorem State.setGrid_l1 (s : State) (k : Nat) (x : Grid) : (s.setGrid k x).l1 = s.l1 := rfl
@[simp] theorem State.setGrid_upd (s : State) (k : Nat) (x : Grid) : (s.setGrid k x).upd = s.upd := rfl
@[simp] theorem State.setGrid_icache (s : State) (k : Nat) (x : Grid) : (s.setGrid k x).icache = s.icache := rfl
@[simp] theorem State.setGrid_sigs (s : State) (k : Nat) (x : Grid) : (s.setGrid k x).sigs = s.sigs := rfl
@[simp] theorem State.setGrid_marks (s : State) (k : Nat) (x : Grid) : (s.setGrid k x).marks = s.marks := rfl
@[simp] theorem State.setGrid_tlb (s : State) (k : Nat) (x : Grid) : (s.setGrid k x).tlb = s.tlb := rfl
@[simp] theorem State.setGrid_invals (s : State) (k : Nat) (x : Grid) : (s.setGrid k x).invals = s.invals := rfl
@[simp] theorem State.setGrid_migrations (s : State) (k : Nat) (x : Grid) : (s.setGrid k x).migrations = s.migrations := rfl
@[simp] theorem State.setGrid_qcache (s : State) (k : Nat) (x : Grid) : (s.setGrid k x).qcache = s.qcache := rfl
@[simp] theorem State.setGrid_lasts (s : State) (k : Nat) (x : Grid) : (s.setGrid k x).lasts = s.lasts := rfl
@[simp] theorem State.setGrid_versions (s : State) (k : Nat) (x : Grid) : (s.setGrid k x).versions = s.versions := rfl
@[simp] theorem State.setGrid_publications (s : State) (k : Nat) (x : Grid) : (s.setGrid k x).publications = s.publications := rfl
@[simp] theorem State.setGrid_windows (s : State) (k : Nat) (x : Grid) : (s.setGrid k x).windows = s.windows := rfl
@[simp] theorem State.setGrid_launchCtl (s : State) (k : Nat) (x : Grid) : (s.setGrid k x).launchCtl = s.launchCtl := rfl
@[simp] theorem State.setGrid_roots (s : State) (k : Nat) (x : Grid) : (s.setGrid k x).roots = s.roots := rfl
@[simp] theorem State.setGrid_accepting (s : State) (k : Nat) (x : Grid) : (s.setGrid k x).accepting = s.accepting := rfl
@[simp] theorem State.setGrid_admits (s : State) (k : Nat) (x : Grid) : (s.setGrid k x).admits = s.admits := rfl
@[simp] theorem State.setGrid_nextGrid (s : State) (k : Nat) (x : Grid) : (s.setGrid k x).nextGrid = s.nextGrid := rfl
@[simp] theorem State.setGrid_images (s : State) (k : Nat) (x : Grid) : (s.setGrid k x).images = s.images := rfl
@[simp] theorem State.setGrid_tileImages (s : State) (k : Nat) (x : Grid) : (s.setGrid k x).tileImages = s.tileImages := rfl
@[simp] theorem State.setGrid_gangImages (s : State) (k : Nat) (x : Grid) : (s.setGrid k x).gangImages = s.gangImages := rfl
@[simp] theorem State.setGrid_saveBase (s : State) (k : Nat) (x : Grid) : (s.setGrid k x).saveBase = s.saveBase := rfl
@[simp] theorem State.setGrid_saveSize (s : State) (k : Nat) (x : Grid) : (s.setGrid k x).saveSize = s.saveSize := rfl
@[simp] theorem State.setGrid_saveUsed (s : State) (k : Nat) (x : Grid) : (s.setGrid k x).saveUsed = s.saveUsed := rfl
@[simp] theorem State.setGrid_aperture (s : State) (k : Nat) (x : Grid) : (s.setGrid k x).aperture = s.aperture := rfl
@[simp] theorem State.setGrid_params (s : State) (k : Nat) (x : Grid) : (s.setGrid k x).params = s.params := rfl
@[simp] theorem State.setGrid_counters (s : State) (k : Nat) (x : Grid) : (s.setGrid k x).counters = s.counters := rfl
@[simp] theorem State.setGrid_frozen (s : State) (k : Nat) (x : Grid) : (s.setGrid k x).frozen = s.frozen := rfl
@[simp] theorem State.setGrid_cyclesBase (s : State) (k : Nat) (x : Grid) : (s.setGrid k x).cyclesBase = s.cyclesBase := rfl
@[simp] theorem State.setGrid_attestLeaf (s : State) (k : Nat) (x : Grid) : (s.setGrid k x).attestLeaf = s.attestLeaf := rfl
@[simp] theorem State.setGrid_fuseDigest (s : State) (k : Nat) (x : Grid) : (s.setGrid k x).fuseDigest = s.fuseDigest := rfl
@[simp] theorem State.setGrid_fuseVersion (s : State) (k : Nat) (x : Grid) : (s.setGrid k x).fuseVersion = s.fuseVersion := rfl
@[simp] theorem State.setGrid_identity (s : State) (k : Nat) (x : Grid) : (s.setGrid k x).identity = s.identity := rfl
@[simp] theorem State.setGrid_bootDigests (s : State) (k : Nat) (x : Grid) : (s.setGrid k x).bootDigests = s.bootDigests := rfl
@[simp] theorem State.setGrid_response (s : State) (k : Nat) (x : Grid) : (s.setGrid k x).response = s.response := rfl
@[simp] theorem State.setGrid_request (s : State) (k : Nat) (x : Grid) : (s.setGrid k x).request = s.request := rfl
@[simp] theorem State.setGrid_doorbell (s : State) (k : Nat) (x : Grid) : (s.setGrid k x).doorbell = s.doorbell := rfl
@[simp] theorem State.setGrid_withheld (s : State) (k : Nat) (x : Grid) : (s.setGrid k x).withheld = s.withheld := rfl
@[simp] theorem State.setGrid_powerHold (s : State) (k : Nat) (x : Grid) : (s.setGrid k x).powerHold = s.powerHold := rfl
@[simp] theorem State.setGrid_powerLog (s : State) (k : Nat) (x : Grid) : (s.setGrid k x).powerLog = s.powerLog := rfl
@[simp] theorem State.setGrid_dev (s : State) (k : Nat) (x : Grid) : (s.setGrid k x).dev = s.dev := rfl
@[simp] theorem State.setGrid_endpoint (s : State) (k : Nat) (x : Grid) : (s.setGrid k x).endpoint = s.endpoint := rfl
@[simp] theorem State.setGrid_peers (s : State) (k : Nat) (x : Grid) : (s.setGrid k x).peers = s.peers := rfl
@[simp] theorem State.setGrid_staged (s : State) (k : Nat) (x : Grid) : (s.setGrid k x).staged = s.staged := rfl
@[simp] theorem State.setGrid_peerGen (s : State) (k : Nat) (x : Grid) : (s.setGrid k x).peerGen = s.peerGen := rfl
@[simp] theorem State.setGrid_owner (s : State) (k : Nat) (x : Grid) : (s.setGrid k x).owner = s.owner := rfl
@[simp] theorem State.setGrid_fabricGrid (s : State) (k : Nat) (x : Grid) : (s.setGrid k x).fabricGrid = s.fabricGrid := rfl
@[simp] theorem State.setGrid_streams (s : State) (k : Nat) (x : Grid) : (s.setGrid k x).streams = s.streams := rfl
@[simp] theorem State.setGrid_inbound (s : State) (k : Nat) (x : Grid) : (s.setGrid k x).inbound = s.inbound := rfl
@[simp] theorem State.setGrid_arrivals (s : State) (k : Nat) (x : Grid) : (s.setGrid k x).arrivals = s.arrivals := rfl
@[simp] theorem State.setGrid_sent (s : State) (k : Nat) (x : Grid) : (s.setGrid k x).sent = s.sent := rfl
@[simp] theorem State.setGrid_outgoing (s : State) (k : Nat) (x : Grid) : (s.setGrid k x).outgoing = s.outgoing := rfl
@[simp] theorem State.setGrid_ports (s : State) (k : Nat) (x : Grid) : (s.setGrid k x).ports = s.ports := rfl
@[simp] theorem State.setGrid_txLinks (s : State) (k : Nat) (x : Grid) : (s.setGrid k x).txLinks = s.txLinks := rfl
@[simp] theorem State.setGrid_rxLinks (s : State) (k : Nat) (x : Grid) : (s.setGrid k x).rxLinks = s.rxLinks := rfl
@[simp] theorem State.setGrid_flits (s : State) (k : Nat) (x : Grid) : (s.setGrid k x).flits = s.flits := rfl
@[simp] theorem State.setGrid_sealFails (s : State) (k : Nat) (x : Grid) : (s.setGrid k x).sealFails = s.sealFails := rfl
@[simp] theorem State.setGrid_slotTable (s : State) (k : Nat) (x : Grid) : (s.setGrid k x).slotTable = s.slotTable := rfl
@[simp] theorem State.setGrid_nextTable (s : State) (k : Nat) (x : Grid) : (s.setGrid k x).nextTable = s.nextTable := rfl
@[simp] theorem State.setGrid_tablePending (s : State) (k : Nat) (x : Grid) : (s.setGrid k x).tablePending = s.tablePending := rfl
@[simp] theorem State.setGrid_slotNow (s : State) (k : Nat) (x : Grid) : (s.setGrid k x).slotNow = s.slotNow := rfl
@[simp] theorem State.setGrid_slotStart (s : State) (k : Nat) (x : Grid) : (s.setGrid k x).slotStart = s.slotStart := rfl
@[simp] theorem State.setGrid_queues (s : State) (k : Nat) (x : Grid) : (s.setGrid k x).queues = s.queues := rfl
@[simp] theorem State.setGrid_groups (s : State) (k : Nat) (x : Grid) : (s.setGrid k x).groups = s.groups := rfl
@[simp] theorem State.setGrid_closed (s : State) (k : Nat) (x : Grid) : (s.setGrid k x).closed = s.closed := rfl
@[simp] theorem State.setGrid_steps (s : State) (k : Nat) (x : Grid) : (s.setGrid k x).steps = s.steps := rfl
@[simp] theorem State.setGrid_partials (s : State) (k : Nat) (x : Grid) : (s.setGrid k x).partials = s.partials := rfl
@[simp] theorem State.setGrid_cohort (s : State) (k : Nat) (x : Grid) : (s.setGrid k x).cohort = s.cohort := rfl
@[simp] theorem State.setGrid_heelStep (s : State) (k : Nat) (x : Grid) : (s.setGrid k x).heelStep = s.heelStep := rfl
@[simp] theorem State.setGrid_objects (s : State) (k : Nat) (x : Grid) : (s.setGrid k x).objects = s.objects := rfl
@[simp] theorem State.setGrid_lastHeartbeat (s : State) (k : Nat) (x : Grid) : (s.setGrid k x).lastHeartbeat = s.lastHeartbeat := rfl
@[simp] theorem State.setGrid_ageThreshold (s : State) (k : Nat) (x : Grid) : (s.setGrid k x).ageThreshold = s.ageThreshold := rfl
@[simp] theorem State.setGrid_nextKey (s : State) (k : Nat) (x : Grid) : (s.setGrid k x).nextKey = s.nextKey := rfl
@[simp] theorem State.setGrid_freeCount (s : State) (k : Nat) (x : Grid) : (s.setGrid k x).freeCount = s.freeCount := rfl

/-! ### modTeam -/

@[simp] theorem State.modTeam_cycle (s : State) (k : Nat) (f : Team → Team) : (s.modTeam k f).cycle = s.cycle := by
  unfold State.modTeam; split <;> rfl
@[simp] theorem State.modTeam_now (s : State) (k : Nat) (f : Team → Team) : (s.modTeam k f).now = s.now := by
  unfold State.modTeam; split <;> rfl
@[simp] theorem State.modTeam_steer (s : State) (k : Nat) (f : Team → Team) : (s.modTeam k f).steer = s.steer := by
  unfold State.modTeam; split <;> rfl
@[simp] theorem State.modTeam_unlocked (s : State) (k : Nat) (f : Team → Team) : (s.modTeam k f).unlocked = s.unlocked := by
  unfold State.modTeam; split <;> rfl
@[simp] theorem State.modTeam_boot (s : State) (k : Nat) (f : Team → Team) : (s.modTeam k f).boot = s.boot := by
  unfold State.modTeam; split <;> rfl
@[simp] theorem State.modTeam_bootFail (s : State) (k : Nat) (f : Team → Team) : (s.modTeam k f).bootFail = s.bootFail := by
  unfold State.modTeam; split <;> rfl
@[simp] theorem State.modTeam_ready (s : State) (k : Nat) (f : Team → Team) : (s.modTeam k f).ready = s.ready := by
  unfold State.modTeam; split <;> rfl
@[simp] theorem State.modTeam_cur (s : State) (k : Nat) (f : Team → Team) : (s.modTeam k f).cur = s.cur := by
  unfold State.modTeam; split <;> rfl
@[simp] theorem State.modTeam_turns (s : State) (k : Nat) (f : Team → Team) : (s.modTeam k f).turns = s.turns := by
  unfold State.modTeam; split <;> rfl
@[simp] theorem State.modTeam_issuedNow (s : State) (k : Nat) (f : Team → Team) : (s.modTeam k f).issuedNow = s.issuedNow := by
  unfold State.modTeam; split <;> rfl
@[simp] theorem State.modTeam_mem (s : State) (k : Nat) (f : Team → Team) : (s.modTeam k f).mem = s.mem := by
  unfold State.modTeam; split <;> rfl
@[simp] theorem State.modTeam_bad (s : State) (k : Nat) (f : Team → Team) : (s.modTeam k f).bad = s.bad := by
  unfold State.modTeam; split <;> rfl
@[simp] theorem State.modTeam_grids (s : State) (k : Nat) (f : Team → Team) : (s.modTeam k f).grids = s.grids := by
  unfold State.modTeam; split <;> rfl
@[simp] theorem State.modTeam_bins (s : State) (k : Nat) (f : Team → Team) : (s.modTeam k f).bins = s.bins := by
  unfold State.modTeam; split <;> rfl
@[simp] theorem State.modTeam_tiles (s : State) (k : Nat) (f : Team → Team) : (s.modTeam k f).tiles = s.tiles := by
  unfold State.modTeam; split <;> rfl
@[simp] theorem State.modTeam_tagCounter (s : State) (k : Nat) (f : Team → Team) : (s.modTeam k f).tagCounter = s.tagCounter := by
  unfold State.modTeam; split <;> rfl
@[simp] theorem State.modTeam_ops (s : State) (k : Nat) (f : Team → Team) : (s.modTeam k f).ops = s.ops := by
  unfold State.modTeam; split <;> rfl
@[simp] theorem State.modTeam_waiters (s : State) (k : Nat) (f : Team → Team) : (s.modTeam k f).waiters = s.waiters := by
  unfold State.modTeam; split <;> rfl
@[simp] theorem State.modTeam_landings (s : State) (k : Nat) (f : Team → Team) : (s.modTeam k f).landings = s.landings := by
  unfold State.modTeam; split <;> rfl
@[simp] theorem State.modTeam_commits (s : State) (k : Nat) (f : Team → Team) : (s.modTeam k f).commits = s.commits := by
  unfold State.modTeam; split <;> rfl
@[simp] theorem State.modTeam_chains (s : State) (k : Nat) (f : Team → Team) : (s.modTeam k f).chains = s.chains := by
  unfold State.modTeam; split <;> rfl
@[simp] theorem State.modTeam_l1 (s : State) (k : Nat) (f : Team → Team) : (s.modTeam k f).l1 = s.l1 := by
  unfold State.modTeam; split <;> rfl
@[simp] theorem State.modTeam_upd (s : State) (k : Nat) (f : Team → Team) : (s.modTeam k f).upd = s.upd := by
  unfold State.modTeam; split <;> rfl
@[simp] theorem State.modTeam_icache (s : State) (k : Nat) (f : Team → Team) : (s.modTeam k f).icache = s.icache := by
  unfold State.modTeam; split <;> rfl
@[simp] theorem State.modTeam_sigs (s : State) (k : Nat) (f : Team → Team) : (s.modTeam k f).sigs = s.sigs := by
  unfold State.modTeam; split <;> rfl
@[simp] theorem State.modTeam_marks (s : State) (k : Nat) (f : Team → Team) : (s.modTeam k f).marks = s.marks := by
  unfold State.modTeam; split <;> rfl
@[simp] theorem State.modTeam_tlb (s : State) (k : Nat) (f : Team → Team) : (s.modTeam k f).tlb = s.tlb := by
  unfold State.modTeam; split <;> rfl
@[simp] theorem State.modTeam_invals (s : State) (k : Nat) (f : Team → Team) : (s.modTeam k f).invals = s.invals := by
  unfold State.modTeam; split <;> rfl
@[simp] theorem State.modTeam_migrations (s : State) (k : Nat) (f : Team → Team) : (s.modTeam k f).migrations = s.migrations := by
  unfold State.modTeam; split <;> rfl
@[simp] theorem State.modTeam_qcache (s : State) (k : Nat) (f : Team → Team) : (s.modTeam k f).qcache = s.qcache := by
  unfold State.modTeam; split <;> rfl
@[simp] theorem State.modTeam_lasts (s : State) (k : Nat) (f : Team → Team) : (s.modTeam k f).lasts = s.lasts := by
  unfold State.modTeam; split <;> rfl
@[simp] theorem State.modTeam_versions (s : State) (k : Nat) (f : Team → Team) : (s.modTeam k f).versions = s.versions := by
  unfold State.modTeam; split <;> rfl
@[simp] theorem State.modTeam_publications (s : State) (k : Nat) (f : Team → Team) : (s.modTeam k f).publications = s.publications := by
  unfold State.modTeam; split <;> rfl
@[simp] theorem State.modTeam_windows (s : State) (k : Nat) (f : Team → Team) : (s.modTeam k f).windows = s.windows := by
  unfold State.modTeam; split <;> rfl
@[simp] theorem State.modTeam_launchCtl (s : State) (k : Nat) (f : Team → Team) : (s.modTeam k f).launchCtl = s.launchCtl := by
  unfold State.modTeam; split <;> rfl
@[simp] theorem State.modTeam_roots (s : State) (k : Nat) (f : Team → Team) : (s.modTeam k f).roots = s.roots := by
  unfold State.modTeam; split <;> rfl
@[simp] theorem State.modTeam_accepting (s : State) (k : Nat) (f : Team → Team) : (s.modTeam k f).accepting = s.accepting := by
  unfold State.modTeam; split <;> rfl
@[simp] theorem State.modTeam_admits (s : State) (k : Nat) (f : Team → Team) : (s.modTeam k f).admits = s.admits := by
  unfold State.modTeam; split <;> rfl
@[simp] theorem State.modTeam_nextGrid (s : State) (k : Nat) (f : Team → Team) : (s.modTeam k f).nextGrid = s.nextGrid := by
  unfold State.modTeam; split <;> rfl
@[simp] theorem State.modTeam_images (s : State) (k : Nat) (f : Team → Team) : (s.modTeam k f).images = s.images := by
  unfold State.modTeam; split <;> rfl
@[simp] theorem State.modTeam_tileImages (s : State) (k : Nat) (f : Team → Team) : (s.modTeam k f).tileImages = s.tileImages := by
  unfold State.modTeam; split <;> rfl
@[simp] theorem State.modTeam_gangImages (s : State) (k : Nat) (f : Team → Team) : (s.modTeam k f).gangImages = s.gangImages := by
  unfold State.modTeam; split <;> rfl
@[simp] theorem State.modTeam_saveBase (s : State) (k : Nat) (f : Team → Team) : (s.modTeam k f).saveBase = s.saveBase := by
  unfold State.modTeam; split <;> rfl
@[simp] theorem State.modTeam_saveSize (s : State) (k : Nat) (f : Team → Team) : (s.modTeam k f).saveSize = s.saveSize := by
  unfold State.modTeam; split <;> rfl
@[simp] theorem State.modTeam_saveUsed (s : State) (k : Nat) (f : Team → Team) : (s.modTeam k f).saveUsed = s.saveUsed := by
  unfold State.modTeam; split <;> rfl
@[simp] theorem State.modTeam_aperture (s : State) (k : Nat) (f : Team → Team) : (s.modTeam k f).aperture = s.aperture := by
  unfold State.modTeam; split <;> rfl
@[simp] theorem State.modTeam_params (s : State) (k : Nat) (f : Team → Team) : (s.modTeam k f).params = s.params := by
  unfold State.modTeam; split <;> rfl
@[simp] theorem State.modTeam_counters (s : State) (k : Nat) (f : Team → Team) : (s.modTeam k f).counters = s.counters := by
  unfold State.modTeam; split <;> rfl
@[simp] theorem State.modTeam_frozen (s : State) (k : Nat) (f : Team → Team) : (s.modTeam k f).frozen = s.frozen := by
  unfold State.modTeam; split <;> rfl
@[simp] theorem State.modTeam_cyclesBase (s : State) (k : Nat) (f : Team → Team) : (s.modTeam k f).cyclesBase = s.cyclesBase := by
  unfold State.modTeam; split <;> rfl
@[simp] theorem State.modTeam_attestLeaf (s : State) (k : Nat) (f : Team → Team) : (s.modTeam k f).attestLeaf = s.attestLeaf := by
  unfold State.modTeam; split <;> rfl
@[simp] theorem State.modTeam_fuseDigest (s : State) (k : Nat) (f : Team → Team) : (s.modTeam k f).fuseDigest = s.fuseDigest := by
  unfold State.modTeam; split <;> rfl
@[simp] theorem State.modTeam_fuseVersion (s : State) (k : Nat) (f : Team → Team) : (s.modTeam k f).fuseVersion = s.fuseVersion := by
  unfold State.modTeam; split <;> rfl
@[simp] theorem State.modTeam_identity (s : State) (k : Nat) (f : Team → Team) : (s.modTeam k f).identity = s.identity := by
  unfold State.modTeam; split <;> rfl
@[simp] theorem State.modTeam_bootDigests (s : State) (k : Nat) (f : Team → Team) : (s.modTeam k f).bootDigests = s.bootDigests := by
  unfold State.modTeam; split <;> rfl
@[simp] theorem State.modTeam_response (s : State) (k : Nat) (f : Team → Team) : (s.modTeam k f).response = s.response := by
  unfold State.modTeam; split <;> rfl
@[simp] theorem State.modTeam_request (s : State) (k : Nat) (f : Team → Team) : (s.modTeam k f).request = s.request := by
  unfold State.modTeam; split <;> rfl
@[simp] theorem State.modTeam_doorbell (s : State) (k : Nat) (f : Team → Team) : (s.modTeam k f).doorbell = s.doorbell := by
  unfold State.modTeam; split <;> rfl
@[simp] theorem State.modTeam_withheld (s : State) (k : Nat) (f : Team → Team) : (s.modTeam k f).withheld = s.withheld := by
  unfold State.modTeam; split <;> rfl
@[simp] theorem State.modTeam_powerHold (s : State) (k : Nat) (f : Team → Team) : (s.modTeam k f).powerHold = s.powerHold := by
  unfold State.modTeam; split <;> rfl
@[simp] theorem State.modTeam_powerLog (s : State) (k : Nat) (f : Team → Team) : (s.modTeam k f).powerLog = s.powerLog := by
  unfold State.modTeam; split <;> rfl
@[simp] theorem State.modTeam_dev (s : State) (k : Nat) (f : Team → Team) : (s.modTeam k f).dev = s.dev := by
  unfold State.modTeam; split <;> rfl
@[simp] theorem State.modTeam_endpoint (s : State) (k : Nat) (f : Team → Team) : (s.modTeam k f).endpoint = s.endpoint := by
  unfold State.modTeam; split <;> rfl
@[simp] theorem State.modTeam_peers (s : State) (k : Nat) (f : Team → Team) : (s.modTeam k f).peers = s.peers := by
  unfold State.modTeam; split <;> rfl
@[simp] theorem State.modTeam_staged (s : State) (k : Nat) (f : Team → Team) : (s.modTeam k f).staged = s.staged := by
  unfold State.modTeam; split <;> rfl
@[simp] theorem State.modTeam_peerGen (s : State) (k : Nat) (f : Team → Team) : (s.modTeam k f).peerGen = s.peerGen := by
  unfold State.modTeam; split <;> rfl
@[simp] theorem State.modTeam_owner (s : State) (k : Nat) (f : Team → Team) : (s.modTeam k f).owner = s.owner := by
  unfold State.modTeam; split <;> rfl
@[simp] theorem State.modTeam_fabricGrid (s : State) (k : Nat) (f : Team → Team) : (s.modTeam k f).fabricGrid = s.fabricGrid := by
  unfold State.modTeam; split <;> rfl
@[simp] theorem State.modTeam_streams (s : State) (k : Nat) (f : Team → Team) : (s.modTeam k f).streams = s.streams := by
  unfold State.modTeam; split <;> rfl
@[simp] theorem State.modTeam_inbound (s : State) (k : Nat) (f : Team → Team) : (s.modTeam k f).inbound = s.inbound := by
  unfold State.modTeam; split <;> rfl
@[simp] theorem State.modTeam_arrivals (s : State) (k : Nat) (f : Team → Team) : (s.modTeam k f).arrivals = s.arrivals := by
  unfold State.modTeam; split <;> rfl
@[simp] theorem State.modTeam_sent (s : State) (k : Nat) (f : Team → Team) : (s.modTeam k f).sent = s.sent := by
  unfold State.modTeam; split <;> rfl
@[simp] theorem State.modTeam_outgoing (s : State) (k : Nat) (f : Team → Team) : (s.modTeam k f).outgoing = s.outgoing := by
  unfold State.modTeam; split <;> rfl
@[simp] theorem State.modTeam_ports (s : State) (k : Nat) (f : Team → Team) : (s.modTeam k f).ports = s.ports := by
  unfold State.modTeam; split <;> rfl
@[simp] theorem State.modTeam_txLinks (s : State) (k : Nat) (f : Team → Team) : (s.modTeam k f).txLinks = s.txLinks := by
  unfold State.modTeam; split <;> rfl
@[simp] theorem State.modTeam_rxLinks (s : State) (k : Nat) (f : Team → Team) : (s.modTeam k f).rxLinks = s.rxLinks := by
  unfold State.modTeam; split <;> rfl
@[simp] theorem State.modTeam_flits (s : State) (k : Nat) (f : Team → Team) : (s.modTeam k f).flits = s.flits := by
  unfold State.modTeam; split <;> rfl
@[simp] theorem State.modTeam_sealFails (s : State) (k : Nat) (f : Team → Team) : (s.modTeam k f).sealFails = s.sealFails := by
  unfold State.modTeam; split <;> rfl
@[simp] theorem State.modTeam_slotTable (s : State) (k : Nat) (f : Team → Team) : (s.modTeam k f).slotTable = s.slotTable := by
  unfold State.modTeam; split <;> rfl
@[simp] theorem State.modTeam_nextTable (s : State) (k : Nat) (f : Team → Team) : (s.modTeam k f).nextTable = s.nextTable := by
  unfold State.modTeam; split <;> rfl
@[simp] theorem State.modTeam_tablePending (s : State) (k : Nat) (f : Team → Team) : (s.modTeam k f).tablePending = s.tablePending := by
  unfold State.modTeam; split <;> rfl
@[simp] theorem State.modTeam_slotNow (s : State) (k : Nat) (f : Team → Team) : (s.modTeam k f).slotNow = s.slotNow := by
  unfold State.modTeam; split <;> rfl
@[simp] theorem State.modTeam_slotStart (s : State) (k : Nat) (f : Team → Team) : (s.modTeam k f).slotStart = s.slotStart := by
  unfold State.modTeam; split <;> rfl
@[simp] theorem State.modTeam_queues (s : State) (k : Nat) (f : Team → Team) : (s.modTeam k f).queues = s.queues := by
  unfold State.modTeam; split <;> rfl
@[simp] theorem State.modTeam_groups (s : State) (k : Nat) (f : Team → Team) : (s.modTeam k f).groups = s.groups := by
  unfold State.modTeam; split <;> rfl
@[simp] theorem State.modTeam_closed (s : State) (k : Nat) (f : Team → Team) : (s.modTeam k f).closed = s.closed := by
  unfold State.modTeam; split <;> rfl
@[simp] theorem State.modTeam_steps (s : State) (k : Nat) (f : Team → Team) : (s.modTeam k f).steps = s.steps := by
  unfold State.modTeam; split <;> rfl
@[simp] theorem State.modTeam_partials (s : State) (k : Nat) (f : Team → Team) : (s.modTeam k f).partials = s.partials := by
  unfold State.modTeam; split <;> rfl
@[simp] theorem State.modTeam_cohort (s : State) (k : Nat) (f : Team → Team) : (s.modTeam k f).cohort = s.cohort := by
  unfold State.modTeam; split <;> rfl
@[simp] theorem State.modTeam_heelStep (s : State) (k : Nat) (f : Team → Team) : (s.modTeam k f).heelStep = s.heelStep := by
  unfold State.modTeam; split <;> rfl
@[simp] theorem State.modTeam_objects (s : State) (k : Nat) (f : Team → Team) : (s.modTeam k f).objects = s.objects := by
  unfold State.modTeam; split <;> rfl
@[simp] theorem State.modTeam_lastHeartbeat (s : State) (k : Nat) (f : Team → Team) : (s.modTeam k f).lastHeartbeat = s.lastHeartbeat := by
  unfold State.modTeam; split <;> rfl
@[simp] theorem State.modTeam_ageThreshold (s : State) (k : Nat) (f : Team → Team) : (s.modTeam k f).ageThreshold = s.ageThreshold := by
  unfold State.modTeam; split <;> rfl
@[simp] theorem State.modTeam_nextKey (s : State) (k : Nat) (f : Team → Team) : (s.modTeam k f).nextKey = s.nextKey := by
  unfold State.modTeam; split <;> rfl
@[simp] theorem State.modTeam_freeCount (s : State) (k : Nat) (f : Team → Team) : (s.modTeam k f).freeCount = s.freeCount := by
  unfold State.modTeam; split <;> rfl

/-! ### modGroup -/

@[simp] theorem State.modGroup_cycle (s : State) (r : LaneRef) (f : Group → Group) : (s.modGroup r f).cycle = s.cycle := State.modTeam_cycle ..
@[simp] theorem State.modGroup_now (s : State) (r : LaneRef) (f : Group → Group) : (s.modGroup r f).now = s.now := State.modTeam_now ..
@[simp] theorem State.modGroup_steer (s : State) (r : LaneRef) (f : Group → Group) : (s.modGroup r f).steer = s.steer := State.modTeam_steer ..
@[simp] theorem State.modGroup_unlocked (s : State) (r : LaneRef) (f : Group → Group) : (s.modGroup r f).unlocked = s.unlocked := State.modTeam_unlocked ..
@[simp] theorem State.modGroup_boot (s : State) (r : LaneRef) (f : Group → Group) : (s.modGroup r f).boot = s.boot := State.modTeam_boot ..
@[simp] theorem State.modGroup_bootFail (s : State) (r : LaneRef) (f : Group → Group) : (s.modGroup r f).bootFail = s.bootFail := State.modTeam_bootFail ..
@[simp] theorem State.modGroup_ready (s : State) (r : LaneRef) (f : Group → Group) : (s.modGroup r f).ready = s.ready := State.modTeam_ready ..
@[simp] theorem State.modGroup_cur (s : State) (r : LaneRef) (f : Group → Group) : (s.modGroup r f).cur = s.cur := State.modTeam_cur ..
@[simp] theorem State.modGroup_turns (s : State) (r : LaneRef) (f : Group → Group) : (s.modGroup r f).turns = s.turns := State.modTeam_turns ..
@[simp] theorem State.modGroup_issuedNow (s : State) (r : LaneRef) (f : Group → Group) : (s.modGroup r f).issuedNow = s.issuedNow := State.modTeam_issuedNow ..
@[simp] theorem State.modGroup_mem (s : State) (r : LaneRef) (f : Group → Group) : (s.modGroup r f).mem = s.mem := State.modTeam_mem ..
@[simp] theorem State.modGroup_bad (s : State) (r : LaneRef) (f : Group → Group) : (s.modGroup r f).bad = s.bad := State.modTeam_bad ..
@[simp] theorem State.modGroup_grids (s : State) (r : LaneRef) (f : Group → Group) : (s.modGroup r f).grids = s.grids := State.modTeam_grids ..
@[simp] theorem State.modGroup_bins (s : State) (r : LaneRef) (f : Group → Group) : (s.modGroup r f).bins = s.bins := State.modTeam_bins ..
@[simp] theorem State.modGroup_tiles (s : State) (r : LaneRef) (f : Group → Group) : (s.modGroup r f).tiles = s.tiles := State.modTeam_tiles ..
@[simp] theorem State.modGroup_tagCounter (s : State) (r : LaneRef) (f : Group → Group) : (s.modGroup r f).tagCounter = s.tagCounter := State.modTeam_tagCounter ..
@[simp] theorem State.modGroup_ops (s : State) (r : LaneRef) (f : Group → Group) : (s.modGroup r f).ops = s.ops := State.modTeam_ops ..
@[simp] theorem State.modGroup_waiters (s : State) (r : LaneRef) (f : Group → Group) : (s.modGroup r f).waiters = s.waiters := State.modTeam_waiters ..
@[simp] theorem State.modGroup_landings (s : State) (r : LaneRef) (f : Group → Group) : (s.modGroup r f).landings = s.landings := State.modTeam_landings ..
@[simp] theorem State.modGroup_commits (s : State) (r : LaneRef) (f : Group → Group) : (s.modGroup r f).commits = s.commits := State.modTeam_commits ..
@[simp] theorem State.modGroup_chains (s : State) (r : LaneRef) (f : Group → Group) : (s.modGroup r f).chains = s.chains := State.modTeam_chains ..
@[simp] theorem State.modGroup_l1 (s : State) (r : LaneRef) (f : Group → Group) : (s.modGroup r f).l1 = s.l1 := State.modTeam_l1 ..
@[simp] theorem State.modGroup_upd (s : State) (r : LaneRef) (f : Group → Group) : (s.modGroup r f).upd = s.upd := State.modTeam_upd ..
@[simp] theorem State.modGroup_icache (s : State) (r : LaneRef) (f : Group → Group) : (s.modGroup r f).icache = s.icache := State.modTeam_icache ..
@[simp] theorem State.modGroup_sigs (s : State) (r : LaneRef) (f : Group → Group) : (s.modGroup r f).sigs = s.sigs := State.modTeam_sigs ..
@[simp] theorem State.modGroup_marks (s : State) (r : LaneRef) (f : Group → Group) : (s.modGroup r f).marks = s.marks := State.modTeam_marks ..
@[simp] theorem State.modGroup_tlb (s : State) (r : LaneRef) (f : Group → Group) : (s.modGroup r f).tlb = s.tlb := State.modTeam_tlb ..
@[simp] theorem State.modGroup_invals (s : State) (r : LaneRef) (f : Group → Group) : (s.modGroup r f).invals = s.invals := State.modTeam_invals ..
@[simp] theorem State.modGroup_migrations (s : State) (r : LaneRef) (f : Group → Group) : (s.modGroup r f).migrations = s.migrations := State.modTeam_migrations ..
@[simp] theorem State.modGroup_qcache (s : State) (r : LaneRef) (f : Group → Group) : (s.modGroup r f).qcache = s.qcache := State.modTeam_qcache ..
@[simp] theorem State.modGroup_lasts (s : State) (r : LaneRef) (f : Group → Group) : (s.modGroup r f).lasts = s.lasts := State.modTeam_lasts ..
@[simp] theorem State.modGroup_versions (s : State) (r : LaneRef) (f : Group → Group) : (s.modGroup r f).versions = s.versions := State.modTeam_versions ..
@[simp] theorem State.modGroup_publications (s : State) (r : LaneRef) (f : Group → Group) : (s.modGroup r f).publications = s.publications := State.modTeam_publications ..
@[simp] theorem State.modGroup_windows (s : State) (r : LaneRef) (f : Group → Group) : (s.modGroup r f).windows = s.windows := State.modTeam_windows ..
@[simp] theorem State.modGroup_launchCtl (s : State) (r : LaneRef) (f : Group → Group) : (s.modGroup r f).launchCtl = s.launchCtl := State.modTeam_launchCtl ..
@[simp] theorem State.modGroup_roots (s : State) (r : LaneRef) (f : Group → Group) : (s.modGroup r f).roots = s.roots := State.modTeam_roots ..
@[simp] theorem State.modGroup_accepting (s : State) (r : LaneRef) (f : Group → Group) : (s.modGroup r f).accepting = s.accepting := State.modTeam_accepting ..
@[simp] theorem State.modGroup_admits (s : State) (r : LaneRef) (f : Group → Group) : (s.modGroup r f).admits = s.admits := State.modTeam_admits ..
@[simp] theorem State.modGroup_nextGrid (s : State) (r : LaneRef) (f : Group → Group) : (s.modGroup r f).nextGrid = s.nextGrid := State.modTeam_nextGrid ..
@[simp] theorem State.modGroup_images (s : State) (r : LaneRef) (f : Group → Group) : (s.modGroup r f).images = s.images := State.modTeam_images ..
@[simp] theorem State.modGroup_tileImages (s : State) (r : LaneRef) (f : Group → Group) : (s.modGroup r f).tileImages = s.tileImages := State.modTeam_tileImages ..
@[simp] theorem State.modGroup_gangImages (s : State) (r : LaneRef) (f : Group → Group) : (s.modGroup r f).gangImages = s.gangImages := State.modTeam_gangImages ..
@[simp] theorem State.modGroup_saveBase (s : State) (r : LaneRef) (f : Group → Group) : (s.modGroup r f).saveBase = s.saveBase := State.modTeam_saveBase ..
@[simp] theorem State.modGroup_saveSize (s : State) (r : LaneRef) (f : Group → Group) : (s.modGroup r f).saveSize = s.saveSize := State.modTeam_saveSize ..
@[simp] theorem State.modGroup_saveUsed (s : State) (r : LaneRef) (f : Group → Group) : (s.modGroup r f).saveUsed = s.saveUsed := State.modTeam_saveUsed ..
@[simp] theorem State.modGroup_aperture (s : State) (r : LaneRef) (f : Group → Group) : (s.modGroup r f).aperture = s.aperture := State.modTeam_aperture ..
@[simp] theorem State.modGroup_params (s : State) (r : LaneRef) (f : Group → Group) : (s.modGroup r f).params = s.params := State.modTeam_params ..
@[simp] theorem State.modGroup_counters (s : State) (r : LaneRef) (f : Group → Group) : (s.modGroup r f).counters = s.counters := State.modTeam_counters ..
@[simp] theorem State.modGroup_frozen (s : State) (r : LaneRef) (f : Group → Group) : (s.modGroup r f).frozen = s.frozen := State.modTeam_frozen ..
@[simp] theorem State.modGroup_cyclesBase (s : State) (r : LaneRef) (f : Group → Group) : (s.modGroup r f).cyclesBase = s.cyclesBase := State.modTeam_cyclesBase ..
@[simp] theorem State.modGroup_attestLeaf (s : State) (r : LaneRef) (f : Group → Group) : (s.modGroup r f).attestLeaf = s.attestLeaf := State.modTeam_attestLeaf ..
@[simp] theorem State.modGroup_fuseDigest (s : State) (r : LaneRef) (f : Group → Group) : (s.modGroup r f).fuseDigest = s.fuseDigest := State.modTeam_fuseDigest ..
@[simp] theorem State.modGroup_fuseVersion (s : State) (r : LaneRef) (f : Group → Group) : (s.modGroup r f).fuseVersion = s.fuseVersion := State.modTeam_fuseVersion ..
@[simp] theorem State.modGroup_identity (s : State) (r : LaneRef) (f : Group → Group) : (s.modGroup r f).identity = s.identity := State.modTeam_identity ..
@[simp] theorem State.modGroup_bootDigests (s : State) (r : LaneRef) (f : Group → Group) : (s.modGroup r f).bootDigests = s.bootDigests := State.modTeam_bootDigests ..
@[simp] theorem State.modGroup_response (s : State) (r : LaneRef) (f : Group → Group) : (s.modGroup r f).response = s.response := State.modTeam_response ..
@[simp] theorem State.modGroup_request (s : State) (r : LaneRef) (f : Group → Group) : (s.modGroup r f).request = s.request := State.modTeam_request ..
@[simp] theorem State.modGroup_doorbell (s : State) (r : LaneRef) (f : Group → Group) : (s.modGroup r f).doorbell = s.doorbell := State.modTeam_doorbell ..
@[simp] theorem State.modGroup_withheld (s : State) (r : LaneRef) (f : Group → Group) : (s.modGroup r f).withheld = s.withheld := State.modTeam_withheld ..
@[simp] theorem State.modGroup_powerHold (s : State) (r : LaneRef) (f : Group → Group) : (s.modGroup r f).powerHold = s.powerHold := State.modTeam_powerHold ..
@[simp] theorem State.modGroup_powerLog (s : State) (r : LaneRef) (f : Group → Group) : (s.modGroup r f).powerLog = s.powerLog := State.modTeam_powerLog ..
@[simp] theorem State.modGroup_dev (s : State) (r : LaneRef) (f : Group → Group) : (s.modGroup r f).dev = s.dev := State.modTeam_dev ..
@[simp] theorem State.modGroup_endpoint (s : State) (r : LaneRef) (f : Group → Group) : (s.modGroup r f).endpoint = s.endpoint := State.modTeam_endpoint ..
@[simp] theorem State.modGroup_peers (s : State) (r : LaneRef) (f : Group → Group) : (s.modGroup r f).peers = s.peers := State.modTeam_peers ..
@[simp] theorem State.modGroup_staged (s : State) (r : LaneRef) (f : Group → Group) : (s.modGroup r f).staged = s.staged := State.modTeam_staged ..
@[simp] theorem State.modGroup_peerGen (s : State) (r : LaneRef) (f : Group → Group) : (s.modGroup r f).peerGen = s.peerGen := State.modTeam_peerGen ..
@[simp] theorem State.modGroup_owner (s : State) (r : LaneRef) (f : Group → Group) : (s.modGroup r f).owner = s.owner := State.modTeam_owner ..
@[simp] theorem State.modGroup_fabricGrid (s : State) (r : LaneRef) (f : Group → Group) : (s.modGroup r f).fabricGrid = s.fabricGrid := State.modTeam_fabricGrid ..
@[simp] theorem State.modGroup_streams (s : State) (r : LaneRef) (f : Group → Group) : (s.modGroup r f).streams = s.streams := State.modTeam_streams ..
@[simp] theorem State.modGroup_inbound (s : State) (r : LaneRef) (f : Group → Group) : (s.modGroup r f).inbound = s.inbound := State.modTeam_inbound ..
@[simp] theorem State.modGroup_arrivals (s : State) (r : LaneRef) (f : Group → Group) : (s.modGroup r f).arrivals = s.arrivals := State.modTeam_arrivals ..
@[simp] theorem State.modGroup_sent (s : State) (r : LaneRef) (f : Group → Group) : (s.modGroup r f).sent = s.sent := State.modTeam_sent ..
@[simp] theorem State.modGroup_outgoing (s : State) (r : LaneRef) (f : Group → Group) : (s.modGroup r f).outgoing = s.outgoing := State.modTeam_outgoing ..
@[simp] theorem State.modGroup_ports (s : State) (r : LaneRef) (f : Group → Group) : (s.modGroup r f).ports = s.ports := State.modTeam_ports ..
@[simp] theorem State.modGroup_txLinks (s : State) (r : LaneRef) (f : Group → Group) : (s.modGroup r f).txLinks = s.txLinks := State.modTeam_txLinks ..
@[simp] theorem State.modGroup_rxLinks (s : State) (r : LaneRef) (f : Group → Group) : (s.modGroup r f).rxLinks = s.rxLinks := State.modTeam_rxLinks ..
@[simp] theorem State.modGroup_flits (s : State) (r : LaneRef) (f : Group → Group) : (s.modGroup r f).flits = s.flits := State.modTeam_flits ..
@[simp] theorem State.modGroup_sealFails (s : State) (r : LaneRef) (f : Group → Group) : (s.modGroup r f).sealFails = s.sealFails := State.modTeam_sealFails ..
@[simp] theorem State.modGroup_slotTable (s : State) (r : LaneRef) (f : Group → Group) : (s.modGroup r f).slotTable = s.slotTable := State.modTeam_slotTable ..
@[simp] theorem State.modGroup_nextTable (s : State) (r : LaneRef) (f : Group → Group) : (s.modGroup r f).nextTable = s.nextTable := State.modTeam_nextTable ..
@[simp] theorem State.modGroup_tablePending (s : State) (r : LaneRef) (f : Group → Group) : (s.modGroup r f).tablePending = s.tablePending := State.modTeam_tablePending ..
@[simp] theorem State.modGroup_slotNow (s : State) (r : LaneRef) (f : Group → Group) : (s.modGroup r f).slotNow = s.slotNow := State.modTeam_slotNow ..
@[simp] theorem State.modGroup_slotStart (s : State) (r : LaneRef) (f : Group → Group) : (s.modGroup r f).slotStart = s.slotStart := State.modTeam_slotStart ..
@[simp] theorem State.modGroup_queues (s : State) (r : LaneRef) (f : Group → Group) : (s.modGroup r f).queues = s.queues := State.modTeam_queues ..
@[simp] theorem State.modGroup_groups (s : State) (r : LaneRef) (f : Group → Group) : (s.modGroup r f).groups = s.groups := State.modTeam_groups ..
@[simp] theorem State.modGroup_closed (s : State) (r : LaneRef) (f : Group → Group) : (s.modGroup r f).closed = s.closed := State.modTeam_closed ..
@[simp] theorem State.modGroup_steps (s : State) (r : LaneRef) (f : Group → Group) : (s.modGroup r f).steps = s.steps := State.modTeam_steps ..
@[simp] theorem State.modGroup_partials (s : State) (r : LaneRef) (f : Group → Group) : (s.modGroup r f).partials = s.partials := State.modTeam_partials ..
@[simp] theorem State.modGroup_cohort (s : State) (r : LaneRef) (f : Group → Group) : (s.modGroup r f).cohort = s.cohort := State.modTeam_cohort ..
@[simp] theorem State.modGroup_heelStep (s : State) (r : LaneRef) (f : Group → Group) : (s.modGroup r f).heelStep = s.heelStep := State.modTeam_heelStep ..
@[simp] theorem State.modGroup_objects (s : State) (r : LaneRef) (f : Group → Group) : (s.modGroup r f).objects = s.objects := State.modTeam_objects ..
@[simp] theorem State.modGroup_lastHeartbeat (s : State) (r : LaneRef) (f : Group → Group) : (s.modGroup r f).lastHeartbeat = s.lastHeartbeat := State.modTeam_lastHeartbeat ..
@[simp] theorem State.modGroup_ageThreshold (s : State) (r : LaneRef) (f : Group → Group) : (s.modGroup r f).ageThreshold = s.ageThreshold := State.modTeam_ageThreshold ..
@[simp] theorem State.modGroup_nextKey (s : State) (r : LaneRef) (f : Group → Group) : (s.modGroup r f).nextKey = s.nextKey := State.modTeam_nextKey ..
@[simp] theorem State.modGroup_freeCount (s : State) (r : LaneRef) (f : Group → Group) : (s.modGroup r f).freeCount = s.freeCount := State.modTeam_freeCount ..

/-! ### modLane -/

@[simp] theorem State.modLane_cycle (s : State) (r : LaneRef) (f : Lane → Lane) : (s.modLane r f).cycle = s.cycle := State.modTeam_cycle ..
@[simp] theorem State.modLane_now (s : State) (r : LaneRef) (f : Lane → Lane) : (s.modLane r f).now = s.now := State.modTeam_now ..
@[simp] theorem State.modLane_steer (s : State) (r : LaneRef) (f : Lane → Lane) : (s.modLane r f).steer = s.steer := State.modTeam_steer ..
@[simp] theorem State.modLane_unlocked (s : State) (r : LaneRef) (f : Lane → Lane) : (s.modLane r f).unlocked = s.unlocked := State.modTeam_unlocked ..
@[simp] theorem State.modLane_boot (s : State) (r : LaneRef) (f : Lane → Lane) : (s.modLane r f).boot = s.boot := State.modTeam_boot ..
@[simp] theorem State.modLane_bootFail (s : State) (r : LaneRef) (f : Lane → Lane) : (s.modLane r f).bootFail = s.bootFail := State.modTeam_bootFail ..
@[simp] theorem State.modLane_ready (s : State) (r : LaneRef) (f : Lane → Lane) : (s.modLane r f).ready = s.ready := State.modTeam_ready ..
@[simp] theorem State.modLane_cur (s : State) (r : LaneRef) (f : Lane → Lane) : (s.modLane r f).cur = s.cur := State.modTeam_cur ..
@[simp] theorem State.modLane_turns (s : State) (r : LaneRef) (f : Lane → Lane) : (s.modLane r f).turns = s.turns := State.modTeam_turns ..
@[simp] theorem State.modLane_issuedNow (s : State) (r : LaneRef) (f : Lane → Lane) : (s.modLane r f).issuedNow = s.issuedNow := State.modTeam_issuedNow ..
@[simp] theorem State.modLane_mem (s : State) (r : LaneRef) (f : Lane → Lane) : (s.modLane r f).mem = s.mem := State.modTeam_mem ..
@[simp] theorem State.modLane_bad (s : State) (r : LaneRef) (f : Lane → Lane) : (s.modLane r f).bad = s.bad := State.modTeam_bad ..
@[simp] theorem State.modLane_grids (s : State) (r : LaneRef) (f : Lane → Lane) : (s.modLane r f).grids = s.grids := State.modTeam_grids ..
@[simp] theorem State.modLane_bins (s : State) (r : LaneRef) (f : Lane → Lane) : (s.modLane r f).bins = s.bins := State.modTeam_bins ..
@[simp] theorem State.modLane_tiles (s : State) (r : LaneRef) (f : Lane → Lane) : (s.modLane r f).tiles = s.tiles := State.modTeam_tiles ..
@[simp] theorem State.modLane_tagCounter (s : State) (r : LaneRef) (f : Lane → Lane) : (s.modLane r f).tagCounter = s.tagCounter := State.modTeam_tagCounter ..
@[simp] theorem State.modLane_ops (s : State) (r : LaneRef) (f : Lane → Lane) : (s.modLane r f).ops = s.ops := State.modTeam_ops ..
@[simp] theorem State.modLane_waiters (s : State) (r : LaneRef) (f : Lane → Lane) : (s.modLane r f).waiters = s.waiters := State.modTeam_waiters ..
@[simp] theorem State.modLane_landings (s : State) (r : LaneRef) (f : Lane → Lane) : (s.modLane r f).landings = s.landings := State.modTeam_landings ..
@[simp] theorem State.modLane_commits (s : State) (r : LaneRef) (f : Lane → Lane) : (s.modLane r f).commits = s.commits := State.modTeam_commits ..
@[simp] theorem State.modLane_chains (s : State) (r : LaneRef) (f : Lane → Lane) : (s.modLane r f).chains = s.chains := State.modTeam_chains ..
@[simp] theorem State.modLane_l1 (s : State) (r : LaneRef) (f : Lane → Lane) : (s.modLane r f).l1 = s.l1 := State.modTeam_l1 ..
@[simp] theorem State.modLane_upd (s : State) (r : LaneRef) (f : Lane → Lane) : (s.modLane r f).upd = s.upd := State.modTeam_upd ..
@[simp] theorem State.modLane_icache (s : State) (r : LaneRef) (f : Lane → Lane) : (s.modLane r f).icache = s.icache := State.modTeam_icache ..
@[simp] theorem State.modLane_sigs (s : State) (r : LaneRef) (f : Lane → Lane) : (s.modLane r f).sigs = s.sigs := State.modTeam_sigs ..
@[simp] theorem State.modLane_marks (s : State) (r : LaneRef) (f : Lane → Lane) : (s.modLane r f).marks = s.marks := State.modTeam_marks ..
@[simp] theorem State.modLane_tlb (s : State) (r : LaneRef) (f : Lane → Lane) : (s.modLane r f).tlb = s.tlb := State.modTeam_tlb ..
@[simp] theorem State.modLane_invals (s : State) (r : LaneRef) (f : Lane → Lane) : (s.modLane r f).invals = s.invals := State.modTeam_invals ..
@[simp] theorem State.modLane_migrations (s : State) (r : LaneRef) (f : Lane → Lane) : (s.modLane r f).migrations = s.migrations := State.modTeam_migrations ..
@[simp] theorem State.modLane_qcache (s : State) (r : LaneRef) (f : Lane → Lane) : (s.modLane r f).qcache = s.qcache := State.modTeam_qcache ..
@[simp] theorem State.modLane_lasts (s : State) (r : LaneRef) (f : Lane → Lane) : (s.modLane r f).lasts = s.lasts := State.modTeam_lasts ..
@[simp] theorem State.modLane_versions (s : State) (r : LaneRef) (f : Lane → Lane) : (s.modLane r f).versions = s.versions := State.modTeam_versions ..
@[simp] theorem State.modLane_publications (s : State) (r : LaneRef) (f : Lane → Lane) : (s.modLane r f).publications = s.publications := State.modTeam_publications ..
@[simp] theorem State.modLane_windows (s : State) (r : LaneRef) (f : Lane → Lane) : (s.modLane r f).windows = s.windows := State.modTeam_windows ..
@[simp] theorem State.modLane_launchCtl (s : State) (r : LaneRef) (f : Lane → Lane) : (s.modLane r f).launchCtl = s.launchCtl := State.modTeam_launchCtl ..
@[simp] theorem State.modLane_roots (s : State) (r : LaneRef) (f : Lane → Lane) : (s.modLane r f).roots = s.roots := State.modTeam_roots ..
@[simp] theorem State.modLane_accepting (s : State) (r : LaneRef) (f : Lane → Lane) : (s.modLane r f).accepting = s.accepting := State.modTeam_accepting ..
@[simp] theorem State.modLane_admits (s : State) (r : LaneRef) (f : Lane → Lane) : (s.modLane r f).admits = s.admits := State.modTeam_admits ..
@[simp] theorem State.modLane_nextGrid (s : State) (r : LaneRef) (f : Lane → Lane) : (s.modLane r f).nextGrid = s.nextGrid := State.modTeam_nextGrid ..
@[simp] theorem State.modLane_images (s : State) (r : LaneRef) (f : Lane → Lane) : (s.modLane r f).images = s.images := State.modTeam_images ..
@[simp] theorem State.modLane_tileImages (s : State) (r : LaneRef) (f : Lane → Lane) : (s.modLane r f).tileImages = s.tileImages := State.modTeam_tileImages ..
@[simp] theorem State.modLane_gangImages (s : State) (r : LaneRef) (f : Lane → Lane) : (s.modLane r f).gangImages = s.gangImages := State.modTeam_gangImages ..
@[simp] theorem State.modLane_saveBase (s : State) (r : LaneRef) (f : Lane → Lane) : (s.modLane r f).saveBase = s.saveBase := State.modTeam_saveBase ..
@[simp] theorem State.modLane_saveSize (s : State) (r : LaneRef) (f : Lane → Lane) : (s.modLane r f).saveSize = s.saveSize := State.modTeam_saveSize ..
@[simp] theorem State.modLane_saveUsed (s : State) (r : LaneRef) (f : Lane → Lane) : (s.modLane r f).saveUsed = s.saveUsed := State.modTeam_saveUsed ..
@[simp] theorem State.modLane_aperture (s : State) (r : LaneRef) (f : Lane → Lane) : (s.modLane r f).aperture = s.aperture := State.modTeam_aperture ..
@[simp] theorem State.modLane_params (s : State) (r : LaneRef) (f : Lane → Lane) : (s.modLane r f).params = s.params := State.modTeam_params ..
@[simp] theorem State.modLane_counters (s : State) (r : LaneRef) (f : Lane → Lane) : (s.modLane r f).counters = s.counters := State.modTeam_counters ..
@[simp] theorem State.modLane_frozen (s : State) (r : LaneRef) (f : Lane → Lane) : (s.modLane r f).frozen = s.frozen := State.modTeam_frozen ..
@[simp] theorem State.modLane_cyclesBase (s : State) (r : LaneRef) (f : Lane → Lane) : (s.modLane r f).cyclesBase = s.cyclesBase := State.modTeam_cyclesBase ..
@[simp] theorem State.modLane_attestLeaf (s : State) (r : LaneRef) (f : Lane → Lane) : (s.modLane r f).attestLeaf = s.attestLeaf := State.modTeam_attestLeaf ..
@[simp] theorem State.modLane_fuseDigest (s : State) (r : LaneRef) (f : Lane → Lane) : (s.modLane r f).fuseDigest = s.fuseDigest := State.modTeam_fuseDigest ..
@[simp] theorem State.modLane_fuseVersion (s : State) (r : LaneRef) (f : Lane → Lane) : (s.modLane r f).fuseVersion = s.fuseVersion := State.modTeam_fuseVersion ..
@[simp] theorem State.modLane_identity (s : State) (r : LaneRef) (f : Lane → Lane) : (s.modLane r f).identity = s.identity := State.modTeam_identity ..
@[simp] theorem State.modLane_bootDigests (s : State) (r : LaneRef) (f : Lane → Lane) : (s.modLane r f).bootDigests = s.bootDigests := State.modTeam_bootDigests ..
@[simp] theorem State.modLane_response (s : State) (r : LaneRef) (f : Lane → Lane) : (s.modLane r f).response = s.response := State.modTeam_response ..
@[simp] theorem State.modLane_request (s : State) (r : LaneRef) (f : Lane → Lane) : (s.modLane r f).request = s.request := State.modTeam_request ..
@[simp] theorem State.modLane_doorbell (s : State) (r : LaneRef) (f : Lane → Lane) : (s.modLane r f).doorbell = s.doorbell := State.modTeam_doorbell ..
@[simp] theorem State.modLane_withheld (s : State) (r : LaneRef) (f : Lane → Lane) : (s.modLane r f).withheld = s.withheld := State.modTeam_withheld ..
@[simp] theorem State.modLane_powerHold (s : State) (r : LaneRef) (f : Lane → Lane) : (s.modLane r f).powerHold = s.powerHold := State.modTeam_powerHold ..
@[simp] theorem State.modLane_powerLog (s : State) (r : LaneRef) (f : Lane → Lane) : (s.modLane r f).powerLog = s.powerLog := State.modTeam_powerLog ..
@[simp] theorem State.modLane_dev (s : State) (r : LaneRef) (f : Lane → Lane) : (s.modLane r f).dev = s.dev := State.modTeam_dev ..
@[simp] theorem State.modLane_endpoint (s : State) (r : LaneRef) (f : Lane → Lane) : (s.modLane r f).endpoint = s.endpoint := State.modTeam_endpoint ..
@[simp] theorem State.modLane_peers (s : State) (r : LaneRef) (f : Lane → Lane) : (s.modLane r f).peers = s.peers := State.modTeam_peers ..
@[simp] theorem State.modLane_staged (s : State) (r : LaneRef) (f : Lane → Lane) : (s.modLane r f).staged = s.staged := State.modTeam_staged ..
@[simp] theorem State.modLane_peerGen (s : State) (r : LaneRef) (f : Lane → Lane) : (s.modLane r f).peerGen = s.peerGen := State.modTeam_peerGen ..
@[simp] theorem State.modLane_owner (s : State) (r : LaneRef) (f : Lane → Lane) : (s.modLane r f).owner = s.owner := State.modTeam_owner ..
@[simp] theorem State.modLane_fabricGrid (s : State) (r : LaneRef) (f : Lane → Lane) : (s.modLane r f).fabricGrid = s.fabricGrid := State.modTeam_fabricGrid ..
@[simp] theorem State.modLane_streams (s : State) (r : LaneRef) (f : Lane → Lane) : (s.modLane r f).streams = s.streams := State.modTeam_streams ..
@[simp] theorem State.modLane_inbound (s : State) (r : LaneRef) (f : Lane → Lane) : (s.modLane r f).inbound = s.inbound := State.modTeam_inbound ..
@[simp] theorem State.modLane_arrivals (s : State) (r : LaneRef) (f : Lane → Lane) : (s.modLane r f).arrivals = s.arrivals := State.modTeam_arrivals ..
@[simp] theorem State.modLane_sent (s : State) (r : LaneRef) (f : Lane → Lane) : (s.modLane r f).sent = s.sent := State.modTeam_sent ..
@[simp] theorem State.modLane_outgoing (s : State) (r : LaneRef) (f : Lane → Lane) : (s.modLane r f).outgoing = s.outgoing := State.modTeam_outgoing ..
@[simp] theorem State.modLane_ports (s : State) (r : LaneRef) (f : Lane → Lane) : (s.modLane r f).ports = s.ports := State.modTeam_ports ..
@[simp] theorem State.modLane_txLinks (s : State) (r : LaneRef) (f : Lane → Lane) : (s.modLane r f).txLinks = s.txLinks := State.modTeam_txLinks ..
@[simp] theorem State.modLane_rxLinks (s : State) (r : LaneRef) (f : Lane → Lane) : (s.modLane r f).rxLinks = s.rxLinks := State.modTeam_rxLinks ..
@[simp] theorem State.modLane_flits (s : State) (r : LaneRef) (f : Lane → Lane) : (s.modLane r f).flits = s.flits := State.modTeam_flits ..
@[simp] theorem State.modLane_sealFails (s : State) (r : LaneRef) (f : Lane → Lane) : (s.modLane r f).sealFails = s.sealFails := State.modTeam_sealFails ..
@[simp] theorem State.modLane_slotTable (s : State) (r : LaneRef) (f : Lane → Lane) : (s.modLane r f).slotTable = s.slotTable := State.modTeam_slotTable ..
@[simp] theorem State.modLane_nextTable (s : State) (r : LaneRef) (f : Lane → Lane) : (s.modLane r f).nextTable = s.nextTable := State.modTeam_nextTable ..
@[simp] theorem State.modLane_tablePending (s : State) (r : LaneRef) (f : Lane → Lane) : (s.modLane r f).tablePending = s.tablePending := State.modTeam_tablePending ..
@[simp] theorem State.modLane_slotNow (s : State) (r : LaneRef) (f : Lane → Lane) : (s.modLane r f).slotNow = s.slotNow := State.modTeam_slotNow ..
@[simp] theorem State.modLane_slotStart (s : State) (r : LaneRef) (f : Lane → Lane) : (s.modLane r f).slotStart = s.slotStart := State.modTeam_slotStart ..
@[simp] theorem State.modLane_queues (s : State) (r : LaneRef) (f : Lane → Lane) : (s.modLane r f).queues = s.queues := State.modTeam_queues ..
@[simp] theorem State.modLane_groups (s : State) (r : LaneRef) (f : Lane → Lane) : (s.modLane r f).groups = s.groups := State.modTeam_groups ..
@[simp] theorem State.modLane_closed (s : State) (r : LaneRef) (f : Lane → Lane) : (s.modLane r f).closed = s.closed := State.modTeam_closed ..
@[simp] theorem State.modLane_steps (s : State) (r : LaneRef) (f : Lane → Lane) : (s.modLane r f).steps = s.steps := State.modTeam_steps ..
@[simp] theorem State.modLane_partials (s : State) (r : LaneRef) (f : Lane → Lane) : (s.modLane r f).partials = s.partials := State.modTeam_partials ..
@[simp] theorem State.modLane_cohort (s : State) (r : LaneRef) (f : Lane → Lane) : (s.modLane r f).cohort = s.cohort := State.modTeam_cohort ..
@[simp] theorem State.modLane_heelStep (s : State) (r : LaneRef) (f : Lane → Lane) : (s.modLane r f).heelStep = s.heelStep := State.modTeam_heelStep ..
@[simp] theorem State.modLane_objects (s : State) (r : LaneRef) (f : Lane → Lane) : (s.modLane r f).objects = s.objects := State.modTeam_objects ..
@[simp] theorem State.modLane_lastHeartbeat (s : State) (r : LaneRef) (f : Lane → Lane) : (s.modLane r f).lastHeartbeat = s.lastHeartbeat := State.modTeam_lastHeartbeat ..
@[simp] theorem State.modLane_ageThreshold (s : State) (r : LaneRef) (f : Lane → Lane) : (s.modLane r f).ageThreshold = s.ageThreshold := State.modTeam_ageThreshold ..
@[simp] theorem State.modLane_nextKey (s : State) (r : LaneRef) (f : Lane → Lane) : (s.modLane r f).nextKey = s.nextKey := State.modTeam_nextKey ..
@[simp] theorem State.modLane_freeCount (s : State) (r : LaneRef) (f : Lane → Lane) : (s.modLane r f).freeCount = s.freeCount := State.modTeam_freeCount ..

end Sys2Proof.Machine
end

