-- ==== Sys2Proof/Laws/Tables.lean ====
section
/-! SUPPORT. The laws of tables: reading after setting and after erasing. -/

namespace Sys2Proof

/-- Reading the entry that was set gives what was set. -/
@[simp] theorem Tab.find_set_same {α : Type} (t : Tab α) (k : Nat) (v : α) : Tab.find (Tab.set t k v) k = some v := by
  induction t with
  | nil => simp [Tab.set, Tab.find]
  | cons e r ih =>
    obtain ⟨a, x⟩ := e
    simp only [Tab.set]
    split
    · simp [Tab.find]
    · next h =>
      split
      · simp [Tab.find]
      · simp [Tab.find, h, ih]

/-- Setting one entry leaves every other as it was. -/
@[simp] theorem Tab.find_set_other {α : Type} (t : Tab α) {k j : Nat} (v : α) (h : k ≠ j) : Tab.find (Tab.set t k v) j = Tab.find t j := by
  induction t with
  | nil => simp [Tab.set, Tab.find, h]
  | cons e r ih =>
    obtain ⟨a, x⟩ := e
    simp only [Tab.set]
    split
    · next hk => subst hk; simp [Tab.find, h]
    · split
      · simp [Tab.find, h]
      · simp only [Tab.find, ih]

/-- The entry read after setting one. -/
theorem Tab.find_set {α : Type} (t : Tab α) (k j : Nat) (v : α) : Tab.find (Tab.set t k v) j = if k = j then some v else Tab.find t j := by
  by_cases h : k = j
  · subst h; simp
  · simp [h]

/-- The entry read after setting it. -/
@[simp] theorem Tab.getD_set_same {α : Type} (t : Tab α) (k : Nat) (v d : α) : Tab.getD (Tab.set t k v) k d = v := by simp [Tab.getD]

/-- Setting one entry leaves what another reads as. -/
@[simp] theorem Tab.getD_set_other {α : Type} (t : Tab α) {k j : Nat} (v d : α) (h : k ≠ j) :
    Tab.getD (Tab.set t k v) j d = Tab.getD t j d := by simp [Tab.getD, h]

/-- The entry read after setting one. -/
theorem Tab.getD_set {α : Type} (t : Tab α) (k j : Nat) (v d : α) : Tab.getD (Tab.set t k v) j d = if k = j then v else Tab.getD t j d := by
  by_cases h : k = j
  · subst h; simp
  · simp [h]

/-- An erased entry is gone. -/
@[simp] theorem Tab.find_erase_same {α : Type} (t : Tab α) (k : Nat) : Tab.find (Tab.erase t k) k = none := by
  induction t with
  | nil => rfl
  | cons e r ih =>
    obtain ⟨a, x⟩ := e
    unfold Tab.erase at ih ⊢
    by_cases h : a = k
    · subst h; simpa using ih
    · simp [h, Tab.find, ih]

/-- Erasing one entry leaves every other as it was. -/
@[simp] theorem Tab.find_erase_other {α : Type} (t : Tab α) {k j : Nat} (h : k ≠ j) : Tab.find (Tab.erase t k) j = Tab.find t j := by
  induction t with
  | nil => rfl
  | cons e r ih =>
    obtain ⟨a, x⟩ := e
    unfold Tab.erase at ih ⊢
    by_cases hk : a = k
    · subst hk; simp [Tab.find, h, ih]
    · simp [hk, Tab.find, ih]

/-- A listed entry is a member. -/
theorem Tab.mem_of_find {α : Type} {t : Tab α} {k : Nat} {v : α} (h : Tab.find t k = some v) : (k, v) ∈ t := by
  induction t with
  | nil => simp [Tab.find] at h
  | cons e r ih =>
    obtain ⟨a, x⟩ := e
    simp only [Tab.find] at h
    split at h
    · next hk => subst hk; simp_all
    · exact List.mem_cons_of_mem _ (ih h)

/-- The members of a table after setting an entry are the entry and members from before. -/
theorem Tab.mem_set {α : Type} {t : Tab α} {k : Nat} {v : α} {e : Nat × α} (h : e ∈ Tab.set t k v) : e = (k, v) ∨ e ∈ t := by
  induction t with
  | nil => simpa [Tab.set] using h
  | cons f r ih =>
    obtain ⟨a, x⟩ := f
    simp only [Tab.set] at h
    split at h
    · rcases List.mem_cons.mp h with h | h
      · exact .inl h
      · exact .inr (List.mem_cons_of_mem _ h)
    · split at h
      · rcases List.mem_cons.mp h with h | h
        · exact .inl h
        · exact .inr h
      · rcases List.mem_cons.mp h with h | h
        · exact .inr (h ▸ List.mem_cons_self ..)
        · exact (ih h).imp id (List.mem_cons_of_mem _)

/-- Setting an entry twice leaves what was set last. -/
@[simp] theorem Tab.set_set_same {α : Type} (t : Tab α) (k : Nat) (v w : α) : Tab.set (Tab.set t k v) k w = Tab.set t k w := by
  induction t with
  | nil => simp [Tab.set]
  | cons e r ih =>
    obtain ⟨a, x⟩ := e
    simp only [Tab.set]
    split
    · simp [Tab.set]
    · next h =>
      split
      · simp [Tab.set]
      · next h' => simp [Tab.set, h, h', ih]

/-- Settings of a lower and a higher entry commute. -/
theorem Tab.set_comm_lt {α : Type} (t : Tab α) {k j : Nat} (v w : α) (h : k < j) :
    Tab.set (Tab.set t k v) j w = Tab.set (Tab.set t j w) k v := by
  have hkj : k ≠ j := Nat.ne_of_lt h
  have hjk : ¬ j < k := Nat.not_lt.mpr (Nat.le_of_lt h)
  induction t with
  | nil => simp [Tab.set, h, hkj, hkj.symm, hjk]
  | cons e r ih =>
    obtain ⟨a, x⟩ := e
    rcases Nat.lt_trichotomy a k with ha | rfl | ha
    · have h1 : a ≠ k := by omega
      have h2 : ¬ k < a := by omega
      have h3 : a ≠ j := by omega
      have h4 : ¬ j < a := by omega
      simp [Tab.set, h1, h2, h3, h4, ih]
    · simp [Tab.set, hkj, hjk]
    · have h1 : a ≠ k := by omega
      have h2 : k < a := ha
      rcases Nat.lt_trichotomy a j with hb | rfl | hb
      · have h3 : a ≠ j := by omega
        have h4 : ¬ j < a := by omega
        simp [Tab.set, h1, h2, h3, h4, hkj, hjk]
      · simp [Tab.set, h1, h2, hkj, hjk]
      · have h3 : a ≠ j := by omega
        simp [Tab.set, h1, h2, h3, hb, h, hkj, hkj.symm, hjk]

/-- Settings of two entries commute. -/
theorem Tab.set_comm {α : Type} (t : Tab α) {k j : Nat} (v w : α) (h : k ≠ j) :
    Tab.set (Tab.set t k v) j w = Tab.set (Tab.set t j w) k v := by
  rcases Nat.lt_or_gt_of_ne h with h | h
  · exact Tab.set_comm_lt t v w h
  · exact (Tab.set_comm_lt t w v h).symm

/-- Setting an entry to what it holds changes nothing. -/
theorem Tab.set_find {α : Type} {t : Tab α} {k : Nat} {v : α} (h : Tab.find t k = some v) (hs : (t.map Prod.fst).Pairwise (· < ·)) :
    Tab.set t k v = t := by
  induction t with
  | nil => simp [Tab.find] at h
  | cons e r ih =>
    obtain ⟨a, x⟩ := e
    simp only [Tab.find] at h
    simp only [List.map_cons, List.pairwise_cons] at hs
    by_cases hk : a = k
    · simp_all [Tab.set]
    · rw [if_neg hk] at h
      have hm := Tab.mem_of_find h
      have := hs.1 k (List.mem_map.mpr ⟨_, hm, rfl⟩)
      simp [Tab.set, hk, Nat.not_lt.mpr (Nat.le_of_lt this), ih h hs.2]

end Sys2Proof
end

