-- ==== Sys2Proof/Laws/Lanes.lean ====
section
/-! SUPPORT. How changes of teams, groups and lanes read back and commute, and the common prologue of an instruction. -/

namespace Sys2Proof.Machine

open Sys2Proof

/-! ### Teams -/

/-- A change of a listed team. -/
theorem State.modTeam_of_find {s : State} {k : Nat} {x : Team} (h : Tab.find s.teams k = some x) (f : Team → Team) :
    s.modTeam k f = s.setTeam k (f x) := by simp [State.modTeam, h]

/-- A change of a team that is not listed. -/
theorem State.modTeam_of_absent {s : State} {k : Nat} (h : Tab.find s.teams k = none) (f : Team → Team) : s.modTeam k f = s := by
  simp [State.modTeam, h]

/-- The table of teams after a change. -/
theorem State.find_modTeam (s : State) (k j : Nat) (f : Team → Team) :
    Tab.find (s.modTeam k f).teams j = if k = j then (Tab.find s.teams j).map f else Tab.find s.teams j := by
  unfold State.modTeam
  split
  · next x hx =>
    by_cases h : k = j
    · subst h; simp [State.setTeam, hx]
    · simp [State.setTeam, h]
  · next hx =>
    by_cases h : k = j
    · subst h; simp [hx]
    · simp [h]

/-- A change of a team reads back. -/
theorem State.team_modTeam (s : State) (k j : Nat) (f : Team → Team) :
    (s.modTeam k f).team j = if k = j ∧ (Tab.find s.teams k).isSome then f (s.team j) else s.team j := by
  simp only [State.team, Tab.getD, State.find_modTeam]
  by_cases h : k = j
  · subst h; cases hk : Tab.find s.teams k <;> simp
  · simp [h]

/-- The table of another key's team. -/
@[simp] theorem State.team_modTeam_other (s : State) {k j : Nat} (f : Team → Team) (h : k ≠ j) : (s.modTeam k f).team j = s.team j := by
  simp [State.team_modTeam, h]

/-- Which teams there are does not change. -/
@[simp] theorem State.isSome_modTeam (s : State) (k j : Nat) (f : Team → Team) :
    (Tab.find (s.modTeam k f).teams j).isSome = (Tab.find s.teams j).isSome := by
  rw [State.find_modTeam]; split <;> simp

/-- Two changes of one team are one change. -/
theorem State.modTeam_modTeam (s : State) (k : Nat) (f g : Team → Team) :
    (s.modTeam k f).modTeam k g = s.modTeam k (fun x => g (f x)) := by
  cases hx : Tab.find s.teams k with
  | none => simp [State.modTeam_of_absent hx]
  | some x =>
    rw [State.modTeam_of_find hx, State.modTeam_of_find hx, State.modTeam_of_find (x := f x) (by simp [State.setTeam])]
    simp [State.setTeam]

/-- Changes of two teams commute. -/
theorem State.modTeam_comm (s : State) {k j : Nat} (f g : Team → Team) (h : k ≠ j) :
    (s.modTeam k f).modTeam j g = (s.modTeam j g).modTeam k f := by
  cases hx : Tab.find s.teams k with
  | none =>
    rw [State.modTeam_of_absent hx, State.modTeam_of_absent (s := s.modTeam j g) (by rw [State.find_modTeam]; simp [h.symm, hx])]
  | some x =>
    cases hy : Tab.find s.teams j with
    | none =>
      rw [State.modTeam_of_absent hy, State.modTeam_of_absent (s := s.modTeam k f) (by rw [State.find_modTeam]; simp [h, hy])]
    | some y =>
      rw [State.modTeam_of_find hx, State.modTeam_of_find hy,
        State.modTeam_of_find (s := s.setTeam k (f x)) (x := y) (by simp [State.setTeam, h, hy]),
        State.modTeam_of_find (s := s.setTeam j (g y)) (x := x) (by simp [State.setTeam, h.symm, hx])]
      simp only [State.setTeam, Tab.set_comm _ _ _ h]

/-- A change that does nothing to the team as it reads changes nothing, where teams are listed in rising order. -/
theorem State.modTeam_eq_of (s : State) (k : Nat) {f g : Team → Team} (h : f (s.team k) = g (s.team k)) : s.modTeam k f = s.modTeam k g := by
  cases hx : Tab.find s.teams k with
  | none => simp [State.modTeam_of_absent hx]
  | some x =>
    have : s.team k = x := by simp [State.team, Tab.getD, hx]
    rw [State.modTeam_of_find hx, State.modTeam_of_find hx, ← this, h]

/-! ### Groups and lanes -/

@[simp] theorem Team.group_setGroup_same (t : Team) (g : Nat) (x : Group) : (t.setGroup g x).group g = x := by
  simp [Team.group, Team.setGroup]
@[simp] theorem Team.group_setGroup_other (t : Team) {g h : Nat} (x : Group) (hn : g ≠ h) : (t.setGroup g x).group h = t.group h := by
  simp [Team.group, Team.setGroup, hn]
@[simp] theorem Team.setGroup_setGroup (t : Team) (g : Nat) (x y : Group) : (t.setGroup g x).setGroup g y = t.setGroup g y := by
  simp [Team.setGroup]
theorem Team.setGroup_comm (t : Team) {g h : Nat} (x y : Group) (hn : g ≠ h) :
    (t.setGroup g x).setGroup h y = (t.setGroup h y).setGroup g x := by
  simp [Team.setGroup, Tab.set_comm _ _ _ hn]
@[simp] theorem Group.lane_setLane_same (x : Group) (l : Nat) (y : Lane) : (x.setLane l y).lane l = y := by
  simp [Group.lane, Group.setLane]
@[simp] theorem Group.lane_setLane_other (x : Group) {l m : Nat} (y : Lane) (h : l ≠ m) : (x.setLane l y).lane m = x.lane m := by
  simp [Group.lane, Group.setLane, h]
@[simp] theorem Group.setLane_setLane (x : Group) (l : Nat) (y z : Lane) : (x.setLane l y).setLane l z = x.setLane l z := by
  simp [Group.setLane]
theorem Group.setLane_comm (x : Group) {l m : Nat} (y z : Lane) (h : l ≠ m) :
    (x.setLane l y).setLane m z = (x.setLane m z).setLane l y := by
  simp [Group.setLane, Tab.set_comm _ _ _ h]

/-- Two changes of one group are one change. -/
theorem State.modGroup_modGroup (s : State) (r : LaneRef) (f g : Group → Group) :
    (s.modGroup r f).modGroup r g = s.modGroup r (fun x => g (f x)) := by
  simp only [State.modGroup, State.modTeam_modTeam, Team.group_setGroup_same, Team.setGroup_setGroup]

/-- Two changes of one lane are one change. -/
theorem State.modLane_modLane (s : State) (r : LaneRef) (f g : Lane → Lane) :
    (s.modLane r f).modLane r g = s.modLane r (fun x => g (f x)) := by
  simp only [State.modLane, State.modGroup_modGroup, Group.lane_setLane_same, Group.setLane_setLane]

/-- Changes of two lanes commute. -/
theorem State.modLane_comm (s : State) {r q : LaneRef} (f g : Lane → Lane) (h : r ≠ q) :
    (s.modLane r f).modLane q g = (s.modLane q g).modLane r f := by
  by_cases ht : r.team = q.team
  · simp only [State.modLane, State.modGroup, ← ht, State.modTeam_modTeam]
    apply State.modTeam_eq_of
    by_cases hg : r.g = q.g
    · have hl : r.l ≠ q.l := fun hl => h (by cases r; cases q; simp_all)
      simp [← hg, hl, hl.symm, Group.setLane_comm _ _ _ hl]
    · simp [hg, Ne.symm hg, Team.setGroup_comm _ _ _ hg]
  · simp only [State.modLane, State.modGroup]
    exact State.modTeam_comm _ _ _ ht

/-- A change of a group reads back in its team's groups. -/
theorem State.group_modGroup (s : State) (r q : LaneRef) (f : Group → Group) :
    (s.modGroup r f).group q = if r.team = q.team ∧ r.g = q.g ∧ (Tab.find s.teams r.team).isSome then f (s.group q) else s.group q := by
  simp only [State.group, State.modGroup, State.team_modTeam]
  by_cases ht : r.team = q.team
  · by_cases hs : (Tab.find s.teams r.team).isSome
    · by_cases hg : r.g = q.g
      · rw [← ht, ← hg]; simp [hs]
      · rw [← ht]; simp [hs, hg]
    · simp [hs]
  · simp [ht]

/-- A change of a lane reads back. -/
theorem State.lane_modLane (s : State) (r q : LaneRef) (f : Lane → Lane) :
    (s.modLane r f).lane q = if r = q ∧ (Tab.find s.teams r.team).isSome then f (s.lane q) else s.lane q := by
  simp only [State.lane, State.modLane, State.group_modGroup]
  by_cases hs : (Tab.find s.teams r.team).isSome
  · by_cases h : r = q
    · subst h; simp [hs]
    · by_cases htg : r.team = q.team ∧ r.g = q.g
      · have hl : r.l ≠ q.l := fun hl => h (by cases r; cases q; simp_all)
        rw [if_pos ⟨htg.1, htg.2, hs⟩, if_neg (fun hc => h hc.1), Group.lane_setLane_other _ _ hl]
      · rw [if_neg (fun hc => htg ⟨hc.1, hc.2.1⟩), if_neg (fun hc => h hc.1)]
  · simp [hs]

/-- Another lane is left alone. -/
@[simp] theorem State.lane_modLane_other (s : State) {r q : LaneRef} (f : Lane → Lane) (h : r ≠ q) : (s.modLane r f).lane q = s.lane q := by
  simp [State.lane_modLane, h]

/-- A lane of a team that is listed. -/
theorem State.lane_modLane_same {s : State} {r : LaneRef} (h : (Tab.find s.teams r.team).isSome) (f : Lane → Lane) :
    (s.modLane r f).lane r = f (s.lane r) := by simp [State.lane_modLane, h]

/-- A change of a lane by what it reads. -/
theorem State.modLane_eq_of (s : State) (r : LaneRef) {f g : Lane → Lane} (h : f (s.lane r) = g (s.lane r)) :
    s.modLane r f = s.modLane r g := by
  unfold State.modLane State.modGroup
  apply State.modTeam_eq_of
  change (s.team r.team).setGroup r.g (Group.setLane _ _ (f (s.lane r))) = (s.team r.team).setGroup r.g (Group.setLane _ _ (g (s.lane r)))
  rw [h]

/-- A change of a lane leaves what its group holds besides lanes. -/
theorem State.group_modLane (s : State) (r q : LaneRef) (f : Lane → Lane) :
    (s.modLane r f).group q = { s.group q with lanes := ((s.modLane r f).group q).lanes } := by
  rw [State.modLane, State.group_modGroup]
  split <;> rfl

@[simp] theorem State.group_modLane_s (s : State) (r q : LaneRef) (f : Lane → Lane) : ((s.modLane r f).group q).s = (s.group q).s := by
  rw [State.group_modLane]
@[simp] theorem State.group_modLane_j (s : State) (r q : LaneRef) (f : Lane → Lane) : ((s.modLane r f).group q).j = (s.group q).j := by
  rw [State.group_modLane]
@[simp] theorem State.group_modLane_exited (s : State) (r q : LaneRef) (f : Lane → Lane) :
    ((s.modLane r f).group q).exited = (s.group q).exited := by rw [State.group_modLane]
@[simp] theorem State.group_modLane_badParity (s : State) (r q : LaneRef) (f : Lane → Lane) :
    ((s.modLane r f).group q).badParity = (s.group q).badParity := by rw [State.group_modLane]

/-- A change of a lane leaves what its team holds besides groups. -/
theorem State.team_modLane (s : State) (r : LaneRef) (k : Nat) (f : Lane → Lane) :
    (s.modLane r f).team k = { s.team k with groups := ((s.modLane r f).team k).groups } := by
  rw [State.modLane, State.modGroup, State.team_modTeam]
  split <;> rfl

@[simp] theorem State.team_modLane_grid (s : State) (r : LaneRef) (k : Nat) (f : Lane → Lane) :
    ((s.modLane r f).team k).grid = (s.team k).grid := by rw [State.team_modLane]
@[simp] theorem State.gridOf_modLane (s : State) (r : LaneRef) (k : Nat) (f : Lane → Lane) : (s.modLane r f).gridOf k = s.gridOf k := by
  simp [State.gridOf, State.grid]

/-! ### Many lanes -/

/-- The lanes replaced one after another, with one more. -/
@[simp] theorem State.withLanes_nil (s : State) (h : LaneRef → Lane) : s.withLanes [] h = s := rfl
theorem State.withLanes_cons (s : State) (r : LaneRef) (rs : List LaneRef) (h : LaneRef → Lane) :
    s.withLanes (r :: rs) h = (s.modLane r (fun _ => h r)).withLanes rs h := rfl

/-- A change of a lane that is not replaced can be made first or last. -/
theorem State.withLanes_modLane (s : State) (q : LaneRef) (rs : List LaneRef) (h : LaneRef → Lane) (f : Lane → Lane) (hq : q ∉ rs) :
    (s.modLane q f).withLanes rs h = (s.withLanes rs h).modLane q f := by
  induction rs generalizing s with
  | nil => rfl
  | cons r rs ih =>
    simp only [List.mem_cons, not_or] at hq
    rw [State.withLanes_cons, State.withLanes_cons, State.modLane_comm _ _ _ hq.1, ih _ hq.2]

/-- A fold that changes each lane by what the lane itself reads replaces the lanes all at once. -/
theorem State.foldl_modLane (s : State) (rs : List LaneRef) (hn : rs.Nodup) (f : LaneRef → Lane → Lane) :
    rs.foldl (fun u r => u.modLane r (f r)) s = s.withLanes rs (fun r => f r (s.lane r)) := by
  induction rs generalizing s with
  | nil => rfl
  | cons r rs ih =>
    obtain ⟨h1, h2⟩ := List.nodup_cons.mp hn
    rw [List.foldl_cons, ih _ h2, State.withLanes_cons]
    have e : s.modLane r (f r) = s.modLane r (fun _ => f r (s.lane r)) := State.modLane_eq_of s r rfl
    rw [e]
    have : ∀ q ∈ rs, (s.modLane r (fun _ => f r (s.lane r))).lane q = s.lane q := fun q hq =>
      State.lane_modLane_other _ _ (fun e => h1 (e ▸ hq))
    clear ih hn e
    generalize s.modLane r (fun _ => f r (s.lane r)) = u at this ⊢
    induction rs generalizing u with
    | nil => rfl
    | cons q rs ih =>
      simp only [List.mem_cons, not_or] at h1
      obtain ⟨h3, h4⟩ := List.nodup_cons.mp h2
      rw [State.withLanes_cons, State.withLanes_cons, this q (List.mem_cons_self ..),
        State.withLanes_modLane _ _ _ _ _ h3, State.withLanes_modLane _ _ _ _ _ h3,
        ih h1.2 h4 u (fun p hp => this p (List.mem_cons_of_mem _ hp))]

/-- Lanes replaced twice are as replaced last. -/
theorem State.withLanes_withLanes (s : State) (rs : List LaneRef) (hn : rs.Nodup) (g h : LaneRef → Lane) :
    (s.withLanes rs g).withLanes rs h = s.withLanes rs h := by
  induction rs generalizing s with
  | nil => rfl
  | cons r rs ih =>
    obtain ⟨h1, h2⟩ := List.nodup_cons.mp hn
    rw [State.withLanes_cons, State.withLanes_cons, State.withLanes_cons, ← State.withLanes_modLane _ r rs g _ h1,
      State.modLane_modLane, ih _ h2]

/-- A replaced lane reads as it was replaced. -/
theorem State.lane_withLanes {s : State} {rs : List LaneRef} (hn : rs.Nodup) (h : LaneRef → Lane) {r : LaneRef} (hr : r ∈ rs)
    (ht : (Tab.find s.teams r.team).isSome) : (s.withLanes rs h).lane r = h r := by
  induction rs generalizing s with
  | nil => simp at hr
  | cons q rs ih =>
    obtain ⟨h1, h2⟩ := List.nodup_cons.mp hn
    rw [State.withLanes_cons]
    rcases List.mem_cons.mp hr with rfl | hr
    · rw [State.withLanes_modLane _ _ _ _ _ h1, State.lane_modLane_same]
      clear ih hn h1 h2 hr
      induction rs generalizing s with
      | nil => exact ht
      | cons p rs ih => exact ih (by simpa [State.modLane, State.modGroup] using ht)
    · exact ih h2 hr (by simpa [State.modLane, State.modGroup] using ht)

/-- A lane that is not replaced reads as before. -/
theorem State.lane_withLanes_other (s : State) {rs : List LaneRef} (h : LaneRef → Lane) {q : LaneRef} (hq : q ∉ rs) :
    (s.withLanes rs h).lane q = s.lane q := by
  induction rs generalizing s with
  | nil => rfl
  | cons r rs ih =>
    simp only [List.mem_cons, not_or] at hq
    rw [State.withLanes_cons, ih _ hq.2, State.lane_modLane_other _ _ (Ne.symm hq.1)]

/-- Replacing lanes changes nothing but teams. -/
theorem State.withLanes_frame (s : State) (rs : List LaneRef) (h : LaneRef → Lane) :
    s.withLanes rs h = { s with teams := (s.withLanes rs h).teams } := by
  induction rs generalizing s with
  | nil => rfl
  | cons r rs ih =>
    rw [State.withLanes_cons, ih]
    have : s.modLane r (fun _ => h r) = { s with teams := (s.modLane r (fun _ => h r)).teams } := by
      unfold State.modLane State.modGroup State.modTeam; split <;> rfl
    rw [this]

/-- Replacing lanes leaves what a group holds besides lanes. -/
theorem State.group_withLanes (s : State) (rs : List LaneRef) (h : LaneRef → Lane) (q : LaneRef) :
    (s.withLanes rs h).group q = { s.group q with lanes := ((s.withLanes rs h).group q).lanes } := by
  induction rs generalizing s with
  | nil => rfl
  | cons r rs ih => rw [State.withLanes_cons, ih, State.group_modLane]

/-- Replacing lanes leaves what a team holds besides groups. -/
theorem State.team_withLanes (s : State) (rs : List LaneRef) (h : LaneRef → Lane) (k : Nat) :
    (s.withLanes rs h).team k = { s.team k with groups := ((s.withLanes rs h).team k).groups } := by
  induction rs generalizing s with
  | nil => rfl
  | cons r rs ih => rw [State.withLanes_cons, ih, State.team_modLane]

/-- Replacing lanes of one set and then of another replaces them all. -/
theorem State.withLanes_append (s : State) (rs qs : List LaneRef) (h : LaneRef → Lane) :
    s.withLanes (rs ++ qs) h = (s.withLanes rs h).withLanes qs h := by
  simp [State.withLanes, List.foldl_append]

/-- Replacing lanes leaves which teams there are. -/
@[simp] theorem State.isSome_withLanes (s : State) (rs : List LaneRef) (h : LaneRef → Lane) (k : Nat) :
    (Tab.find (s.withLanes rs h).teams k).isSome = (Tab.find s.teams k).isSome := by
  induction rs generalizing s with
  | nil => rfl
  | cons r rs ih => rw [State.withLanes_cons, ih, State.modLane, State.modGroup, State.isSome_modTeam]

/-- Only what is said of the replaced lanes of listed teams counts. -/
theorem State.withLanes_congr_listed (s : State) {rs : List LaneRef} {g h : LaneRef → Lane}
    (e : ∀ r ∈ rs, (Tab.find s.teams r.team).isSome → g r = h r) : s.withLanes rs g = s.withLanes rs h := by
  induction rs generalizing s with
  | nil => rfl
  | cons r rs ih =>
    have e1 : s.modLane r (fun _ => g r) = s.modLane r (fun _ => h r) := by
      cases hx : Tab.find s.teams r.team with
      | none => simp [State.modLane, State.modGroup, State.modTeam_of_absent hx]
      | some x => rw [e r (List.mem_cons_self ..) (by simp [hx])]
    rw [State.withLanes_cons, State.withLanes_cons, e1]
    exact ih _ (fun q hq ht => e q (List.mem_cons_of_mem _ hq) (by simpa [State.modLane, State.modGroup] using ht))

/-- Only what is said of the replaced lanes counts. -/
theorem State.withLanes_congr (s : State) {rs : List LaneRef} {g h : LaneRef → Lane} (e : ∀ r ∈ rs, g r = h r) :
    s.withLanes rs g = s.withLanes rs h := State.withLanes_congr_listed s fun r hr _ => e r hr

/-- The order in which distinct lanes are replaced does not matter. -/
theorem State.withLanes_perm (s : State) {rs qs : List LaneRef} (hp : rs.Perm qs) (hn : rs.Nodup) (h : LaneRef → Lane) :
    s.withLanes rs h = s.withLanes qs h := by
  induction hp generalizing s with
  | nil => rfl
  | cons r _ ih => rw [State.withLanes_cons, State.withLanes_cons, ih _ (List.nodup_cons.mp hn).2]
  | swap r q l =>
    have : q ≠ r := fun e => by simp [e] at hn
    rw [State.withLanes_cons, State.withLanes_cons, State.withLanes_cons, State.withLanes_cons, State.modLane_comm _ _ _ this]
  | trans h1 _ ih1 ih2 => rw [ih1 _ hn, ih2 _ (h1.nodup_iff.mp hn)]

/-! ### The prologue of an instruction -/

/-- Moving lanes past an instruction replaces them. -/
theorem State.advanceAll_eq (s : State) {rs : List LaneRef} (hn : rs.Nodup) :
    s.advanceAll rs = s.withLanes rs (fun r => (s.lane r).passed s) := by
  have e : ∀ (u : State), u.cur = s.cur → u.cycle = s.cycle →
      rs.foldl (fun u r => u.advance r u.cur.len) u = rs.foldl (fun u r => u.modLane r (fun x => x.passed s)) u := by
    clear hn
    induction rs with
    | nil => intro u _ _; rfl
    | cons r rs ih =>
      intro u h1 h2
      have e1 : u.advance r u.cur.len = u.modLane r (fun x => x.passed s) := by
        simp only [State.advance, Lane.passed, h1, h2]
      rw [List.foldl_cons, List.foldl_cons, e1]
      exact ih _ (by simpa using h1) (by simpa using h2)
  have := e s rfl rfl
  simp only [State.advanceAll] at this ⊢
  rw [this, State.foldl_modLane s rs hn (fun _ x => x.passed s)]

/-- Under no disturbance no present lane takes a fault in the prologue. -/
theorem Undisturbed.verdict_none {i : Instr} {p : BitVec 3} {neg : Bool} {s : State} (hu : Undisturbed i p neg s) {r : LaneRef}
    (hr : r ∈ s.present) : s.verdict p neg (staticFault i) (parityFault i) r = none := by
  obtain ⟨-, hg, ha⟩ := hu
  by_cases h : s.guard p neg r
  · have h1 := ha r (List.mem_filter.mpr ⟨hr, h⟩)
    have h2 : ((s.active p neg).filter (fun q => !s.guardLost p q && (staticFault i s q).isNone)).filterMap (fun q => (parityFault i s q).2) = [] :=
      List.filterMap_eq_nil_iff.mpr fun q hq => by simp [(ha q (List.mem_filter.mp hq).1).2]
    simp [State.verdict, hg r hr, h, h1.1, h1.2, h2]
  · simp [State.verdict, hg r hr, h]

/-- Under no disturbance an instruction moves the lanes past it whose guard is false, and its effect is that of the active ones. -/
theorem execute_undisturbed {i : Instr} {p : BitVec 3} {neg : Bool} {s : State} (hu : Undisturbed i p neg s)
    (f : State → List LaneRef → State) :
    execute p neg (staticFault i) (parityFault i) f s
      = f (s.advanceAll (s.present.filter (fun r => !s.guard p neg r))) (s.active p neg) := by
  have h1 : ∀ r ∈ s.present, s.verdict p neg (staticFault i) (parityFault i) r = none := fun r hr => hu.verdict_none hr
  have h2 : s.present.filter (fun r => !s.guard p neg r && !s.guardLost p r) = s.present.filter (fun r => !s.guard p neg r) :=
    List.filter_congr fun r hr => by simp [hu.2.1 r hr]
  have h3 : (s.active p neg).filter (fun r => (s.verdict p neg (staticFault i) (parityFault i) r).isNone) = s.active p neg :=
    List.filter_eq_self.mpr fun r hr => by simp [h1 r (List.mem_filter.mp hr).1]
  have h4 : ∀ (l : List LaneRef) (u : State), (∀ r ∈ l, s.verdict p neg (staticFault i) (parityFault i) r = none) →
      l.foldl (fun s' r => match s.verdict p neg (staticFault i) (parityFault i) r with
        | some (code, detail, addr) => s'.raise r code addr detail
        | none => s') u = u := by
    intro l
    induction l with
    | nil => intro u _; rfl
    | cons r l ih => intro u h; rw [List.foldl_cons, h r (List.mem_cons_self ..)]; exact ih u fun q hq => h q (List.mem_cons_of_mem _ hq)
  simp only [execute, h2, h3]
  exact congrArg (fun u => f u (s.active p neg)) (h4 _ _ h1)

/-- Without a guard every present lane is active. -/
@[simp] theorem State.active_all (s : State) : s.active 0 false = s.present :=
  List.filter_eq_self.mpr fun r _ => by simp [State.guard, Lane.pred]

/-- The prologue of an instruction without a guard. -/
theorem runAll_undisturbed {i : Instr} {s : State} (hu : Undisturbed i 0 false s) (f : State → List LaneRef → State) :
    runAll i f s = .next (f s s.present) := by
  have h : s.present.filter (fun r => !s.guard 0 false r) = [] :=
    List.filter_eq_nil_iff.mpr fun r _ => by simp [State.guard, Lane.pred]
  rw [runAll, runGuarded, execute_undisturbed hu, h, State.active_all]
  rfl

/-- The present lanes are distinct. -/
theorem Undisturbed.present_nodup {i : Instr} {p : BitVec 3} {neg : Bool} {s : State} (hu : Undisturbed i p neg s) : s.present.Nodup :=
  hu.1.filter _

end Sys2Proof.Machine
end

