-- ==== Sys2Proof/Laws/Memory.lean ====
section
/-! SUPPORT. The laws of bytes of memory: reading after writing, and the canonical form, which every write keeps. -/

namespace Sys2Proof.Machine

open Sys2Proof

/-! ### The canonical form -/

/-- The form of a memory with a first entry. -/
theorem Memory.wf_cons (a : Nat) (b : Byte) (r : List Host.Cell) :
    Memory.wf ((a, b) :: r) = true ↔ b ≠ memDefault ∧ (∀ e ∈ r.head?, a < e.1) ∧ Memory.wf r = true := by
  cases r with
  | nil => simp [Memory.wf]
  | cons e r => simp [Memory.wf, and_assoc]

/-- In the canonical form every later entry lies above the first. -/
theorem Memory.wf_rising {a : Nat} {b : Byte} {r : List Host.Cell} (h : Memory.wf ((a, b) :: r) = true) : ∀ e ∈ r, a < e.1 := by
  induction r generalizing a b with
  | nil => simp
  | cons f r ih =>
    obtain ⟨c, d⟩ := f
    rw [Memory.wf_cons] at h
    have hac : a < c := h.2.1 (c, d) rfl
    intro e he
    rcases List.mem_cons.mp he with rfl | he
    · exact hac
    · exact Nat.lt_trans hac (ih h.2.2 e he)

/-- Rising entries that are not the default are in the canonical form. -/
theorem Memory.wf_of_rising {a : Nat} {b : Byte} {r : List Host.Cell} (hb : b ≠ memDefault) (ha : ∀ e ∈ r, a < e.1)
    (hr : Memory.wf r = true) : Memory.wf ((a, b) :: r) = true :=
  (Memory.wf_cons a b r).mpr ⟨hb, fun e he => ha e (List.mem_of_head? he), hr⟩

/-- An address that no entry names reads as the default. -/
theorem memGet_absent {m : List Host.Cell} {k : Nat} (h : ∀ e ∈ m, e.1 ≠ k) : memGet m k = memDefault := by
  induction m with
  | nil => rfl
  | cons e r ih =>
    obtain ⟨a, b⟩ := e
    rw [memGet, if_neg (h (a, b) (List.mem_cons_self ..))]
    exact ih (fun e he => h e (List.mem_cons_of_mem _ he))

/-- A write names no address but its own and those named before. -/
theorem mem_memSet {m : List Host.Cell} {k : Nat} {v : Byte} {e : Host.Cell} (h : e ∈ memSet m k v) : e.1 = k ∨ e ∈ m := by
  induction m with
  | nil =>
    simp only [memSet] at h
    split at h
    · simp at h
    · exact .inl (by simp_all)
  | cons f r ih =>
    obtain ⟨a, b⟩ := f
    simp only [memSet] at h
    split at h
    · split at h
      · exact .inr h
      · rcases List.mem_cons.mp h with rfl | h
        · exact .inl rfl
        · exact .inr h
    · split at h
      · split at h
        · exact .inr (List.mem_cons_of_mem _ h)
        · rcases List.mem_cons.mp h with rfl | h
          · exact .inl rfl
          · exact .inr (List.mem_cons_of_mem _ h)
      · rcases List.mem_cons.mp h with rfl | h
        · exact .inr (List.mem_cons_self ..)
        · exact (ih h).imp id (List.mem_cons_of_mem _)

/-- A write of a byte keeps the canonical form. -/
theorem Memory.wf_memSet {m : List Host.Cell} (h : Memory.wf m = true) (k : Nat) (v : Byte) : Memory.wf (memSet m k v) = true := by
  induction m with
  | nil =>
    simp only [memSet]
    split
    · rfl
    · next hv => exact Memory.wf_of_rising hv (by simp) rfl
  | cons e r ih =>
    obtain ⟨a, b⟩ := e
    have hw := (Memory.wf_cons a b r).mp h
    have rise := Memory.wf_rising h
    simp only [memSet]
    split
    · next hk =>
      split
      · exact h
      · next hv =>
        exact Memory.wf_of_rising hv (fun e he => (List.mem_cons.mp he).elim (fun q => q ▸ hk) (fun q => Nat.lt_trans hk (rise e q))) h
    · split
      · next hk =>
        split
        · exact hw.2.2
        · next hv => exact Memory.wf_of_rising hv (fun e he => hk ▸ rise e he) hw.2.2
      · next h1 h2 =>
        refine Memory.wf_of_rising hw.1 (fun e he => ?_) (ih hw.2.2)
        rcases mem_memSet he with q | q
        · omega
        · exact rise e q

/-- A write of bytes keeps the canonical form. -/
theorem Memory.wf_memSetN {m : List Host.Cell} (h : Memory.wf m = true) (a : Nat) (bs : List Byte) :
    Memory.wf (memSetN m a bs) = true := by
  induction bs generalizing m a with
  | nil => exact h
  | cons b bs ih => exact ih (Memory.wf_memSet h a b) (a + 1)

/-! ### Reading after writing -/

/-- A byte reads as it was written. -/
theorem memGet_memSet_same {m : List Host.Cell} (h : Memory.wf m = true) (k : Nat) (v : Byte) : memGet (memSet m k v) k = v := by
  induction m with
  | nil => by_cases hv : v = memDefault <;> simp [memSet, memGet, hv]
  | cons e r ih =>
    obtain ⟨a, b⟩ := e
    have rise := Memory.wf_rising h
    simp only [memSet]
    split
    · next hk =>
      split
      · next hv =>
        rw [hv]
        refine memGet_absent fun e he => ?_
        rcases List.mem_cons.mp he with rfl | he
        · exact fun q => absurd hk (Nat.not_lt.mpr (Nat.le_of_eq q))
        · have := rise e he; omega
      · simp [memGet]
    · split
      · next hk =>
        split
        · next hv =>
          rw [hv]
          exact memGet_absent fun e he => by have := rise e he; omega
        · simp [memGet]
      · next h1 h2 =>
        rw [memGet, if_neg (fun q => h2 q.symm)]
        exact ih ((Memory.wf_cons a b r).mp h).2.2

/-- Writing one byte leaves every other as it was. -/
@[simp] theorem memGet_memSet_other (m : List Host.Cell) {k j : Nat} (v : Byte) (h : k ≠ j) : memGet (memSet m k v) j = memGet m j := by
  induction m with
  | nil => by_cases hv : v = memDefault <;> simp [memSet, memGet, hv, h]
  | cons e r ih =>
    obtain ⟨a, b⟩ := e
    simp only [memSet]
    split
    · split <;> simp [memGet, h]
    · split
      · next hk =>
        split
        · rw [memGet, if_neg (by omega)]
        · rw [memGet, if_neg h, memGet, if_neg (by omega)]
      · simp only [memGet, ih]

/-- Writing bytes leaves every byte outside them as it was. -/
theorem memGet_memSetN_outside (m : List Host.Cell) (a j : Nat) (bs : List Byte) (h : j < a ∨ a + bs.length ≤ j) :
    memGet (memSetN m a bs) j = memGet m j := by
  induction bs generalizing m a with
  | nil => rfl
  | cons b bs ih =>
    simp only [List.length_cons] at h
    rw [memSetN, ih _ _ (by omega), memGet_memSet_other _ _ (by omega)]

/-- Bytes read as they were written. -/
theorem memGet_memSetN_inside {m : List Host.Cell} (h : Memory.wf m = true) (a i : Nat) (bs : List Byte) (hi : i < bs.length) :
    memGet (memSetN m a bs) (a + i) = bs[i] := by
  induction bs generalizing m a i with
  | nil => simp at hi
  | cons b bs ih =>
    rw [memSetN]
    cases i with
    | zero =>
      have := memGet_memSetN_outside (memSet m a b) (a + 1) a bs (.inl (Nat.lt_succ_self a))
      simpa [memGet_memSet_same h] using this
    | succ i =>
      have := ih (Memory.wf_memSet h a b) (a + 1) i (by simpa using hi)
      rw [show a + (i + 1) = a + 1 + i by omega]
      simpa using this

/-- Reading some bytes gives that many. -/
@[simp] theorem memGetN_length (m : List Host.Cell) (a n : Nat) : (memGetN m a n).length = n := by
  induction n generalizing a with
  | zero => rfl
  | succ n ih => simp [memGetN, ih]

/-- Little-endian bytes are as many as asked for. -/
@[simp] theorem leBytes_length (n v : Nat) : (leBytes n v).length = n := by
  induction n generalizing v with
  | zero => rfl
  | succ n ih => simp [leBytes, ih]

/-- A number reads back from its little-endian bytes. -/
theorem leNat_leBytes (n v : Nat) : leNat (leBytes n v) = v % 256 ^ n := by
  induction n generalizing v with
  | zero => simp [leBytes, leNat, Nat.mod_one]
  | succ n ih =>
    have h8 : (2 : Nat) ^ 8 = 256 := rfl
    rw [leBytes, leNat, ih, BitVec.toNat_ofNat, h8, pow_succ, mul_comm (256 ^ n), Nat.mod_mul]

end Sys2Proof.Machine
end

