-- ==== Sys2Proof/Laws/Operands.lean ====
section
/-! SUPPORT. What each operand form does, once: the lanes it replaces and the flags it raises. -/

namespace Sys2Proof.Machine

open Sys2Proof

/-! ### Registers -/

/-- A register of a lane reads alike in states that agree on the lane and on its group's s-registers. -/
theorem State.reg_congr {s u : State} {r : LaneRef} (h1 : u.lane r = s.lane r) (h2 : (u.group r).s = (s.group r).s) (n : Nat) :
    u.reg r n = s.reg r n := by simp [State.reg, h1, h2]

/-- A pair likewise. -/
theorem State.reg64_congr {s u : State} {r : LaneRef} (h1 : u.lane r = s.lane r) (h2 : (u.group r).s = (s.group r).s) (n : Nat) :
    u.reg64 r n = s.reg64 r n := by simp [State.reg64, State.reg_congr h1 h2]

/-- Writing a v-register changes its lane. -/
theorem State.setReg_v (s : State) (r : LaneRef) {n : Nat} (h : n < 128) (w : Word) : s.setReg r n w = s.modLane r (fun x => x.put n w) := by
  simp [State.setReg, h, Lane.put]

/-- Writing an s-register changes its group. -/
theorem State.setReg_s (s : State) (r : LaneRef) {n : Nat} (h1 : 128 ≤ n) (h2 : n < 192) (w : Word) :
    s.setReg r n w = s.modGroup r (fun x => { x with s := Tab.set x.s (n - 128) w, badParity := x.badParity.filter (· != n) }) := by
  simp [State.setReg, Nat.not_lt.mpr h1, h2]

/-- Writing a predicate changes its lane. -/
theorem State.setPreds_one (s : State) (r : LaneRef) (k : Nat) (b : Bool) : s.setPreds r [(k, b)] = s.modLane r (fun x => x.putPred k b) := rfl

/-! ### Flags -/

/-- No flags change nothing. -/
@[simp] theorem State.setFlags_none (s : State) (t : Nat) : s.setFlags t FpFlags.none = s := by simp [State.setFlags, FpFlags.none]

@[simp] theorem State.withFlags_nil (s : State) (f : LaneRef → FpFlags) : s.withFlags [] f = s := rfl
theorem State.withFlags_cons (s : State) (r : LaneRef) (rs : List LaneRef) (f : LaneRef → FpFlags) :
    s.withFlags (r :: rs) f = (s.setFlags r.team (f r)).withFlags rs f := rfl

/-- Lanes that raise no flag set none. -/
@[simp] theorem State.withFlags_none (s : State) (rs : List LaneRef) : s.withFlags rs (fun _ => FpFlags.none) = s := by
  induction rs with
  | nil => rfl
  | cons r rs ih => rw [State.withFlags_cons, State.setFlags_none, ih]

/-- Setting flags and changing a lane commute. -/
theorem State.setFlags_modLane (s : State) (k : Nat) (f : FpFlags) (r : LaneRef) (g : Lane → Lane) :
    (s.setFlags k f).modLane r g = (s.modLane r g).setFlags k f := by
  unfold State.setFlags
  dsimp only
  generalize (if f.inv = true then 64 else 0) + (if f.unf = true then 32 else 0) + (if f.ovf = true then 16 else 0) = n
  by_cases hn : n = 0
  · simp only [if_pos hn]
  · simp only [if_neg hn, State.modLane, State.modGroup, State.modTeam_cycle]
    by_cases h : k = r.team
    · subst h
      rw [State.modTeam_modTeam, State.modTeam_modTeam]
      exact State.modTeam_eq_of _ _ rfl
    · exact State.modTeam_comm _ _ _ h

/-- Setting flags and replacing lanes commute. -/
theorem State.setFlags_withLanes (s : State) (k : Nat) (f : FpFlags) (rs : List LaneRef) (h : LaneRef → Lane) :
    (s.setFlags k f).withLanes rs h = (s.withLanes rs h).setFlags k f := by
  induction rs generalizing s with
  | nil => rfl
  | cons r rs ih => rw [State.withLanes_cons, State.withLanes_cons, State.setFlags_modLane, ih]

/-- Setting many lanes' flags and replacing lanes commute. -/
theorem State.withFlags_withLanes (s : State) (qs rs : List LaneRef) (f : LaneRef → FpFlags) (h : LaneRef → Lane) :
    (s.withFlags qs f).withLanes rs h = (s.withLanes rs h).withFlags qs f := by
  induction qs generalizing s with
  | nil => rfl
  | cons q qs ih => rw [State.withFlags_cons, State.withFlags_cons, ih, State.setFlags_withLanes]

/-- Setting flags changes nothing but the error word of teams. -/
theorem State.setFlags_group (s : State) (k : Nat) (f : FpFlags) (r : LaneRef) : (s.setFlags k f).group r = s.group r := by
  unfold State.setFlags
  dsimp only
  generalize (if f.inv = true then 64 else 0) + (if f.unf = true then 32 else 0) + (if f.ovf = true then 16 else 0) = n
  by_cases hn : n = 0
  · simp only [if_pos hn]
  · simp only [if_neg hn, State.group, State.team_modTeam]
    split <;> rfl
theorem State.setFlags_lane (s : State) (k : Nat) (f : FpFlags) (r : LaneRef) : (s.setFlags k f).lane r = s.lane r := by
  rw [State.lane, State.setFlags_group, State.lane]
theorem State.setFlags_frame (s : State) (k : Nat) (f : FpFlags) : s.setFlags k f = { s with teams := (s.setFlags k f).teams } := by
  unfold State.setFlags
  dsimp only
  generalize (if f.inv = true then 64 else 0) + (if f.unf = true then 32 else 0) + (if f.ovf = true then 16 else 0) = n
  by_cases hn : n = 0
  · simp only [if_pos hn]
  · simp only [if_neg hn]
    unfold State.modTeam; split <;> rfl
@[simp] theorem State.setFlags_cur (s : State) (k : Nat) (f : FpFlags) : (s.setFlags k f).cur = s.cur := by rw [State.setFlags_frame]
@[simp] theorem State.setFlags_cycle (s : State) (k : Nat) (f : FpFlags) : (s.setFlags k f).cycle = s.cycle := by
  rw [State.setFlags_frame]
@[simp] theorem State.withFlags_cur (s : State) (rs : List LaneRef) (f : LaneRef → FpFlags) : (s.withFlags rs f).cur = s.cur := by
  induction rs generalizing s with
  | nil => rfl
  | cons r rs ih => rw [State.withFlags_cons, ih, State.setFlags_cur]
@[simp] theorem State.withFlags_cycle (s : State) (rs : List LaneRef) (f : LaneRef → FpFlags) : (s.withFlags rs f).cycle = s.cycle := by
  induction rs generalizing s with
  | nil => rfl
  | cons r rs ih => rw [State.withFlags_cons, ih, State.setFlags_cycle]
@[simp] theorem State.withLanes_cur (s : State) (rs : List LaneRef) (h : LaneRef → Lane) : (s.withLanes rs h).cur = s.cur := by
  rw [State.withLanes_frame]
@[simp] theorem State.withLanes_cycle (s : State) (rs : List LaneRef) (h : LaneRef → Lane) : (s.withLanes rs h).cycle = s.cycle := by
  rw [State.withLanes_frame]

/-! ### Lanes that compute from themselves -/

/-- A fold in which each lane changes by what it and its s-registers read, and raises flags by the same, replaces the lanes and sets
their flags. -/
theorem State.foldl_lanewise (s : State) {rs : List LaneRef} (hn : rs.Nodup) (F : State → LaneRef → Lane → Lane)
    (G : State → LaneRef → FpFlags)
    (hF : ∀ (u : State) (r : LaneRef), u.lane r = s.lane r → (u.group r).s = (s.group r).s → F u r = F s r ∧ G u r = G s r) :
    rs.foldl (fun u r => (u.modLane r (F u r)).setFlags r.team (G u r)) s
      = (s.withLanes rs (fun r => F s r (s.lane r))).withFlags rs (G s) := by
  have key : ∀ (u : State), (∀ q ∈ rs, u.lane q = s.lane q ∧ (u.group q).s = (s.group q).s) →
      rs.foldl (fun u r => (u.modLane r (F u r)).setFlags r.team (G u r)) u
        = (u.withLanes rs (fun r => F s r (s.lane r))).withFlags rs (G s) := by
    induction rs with
    | nil => intro u _; rfl
    | cons r rs ih =>
      intro u hu
      obtain ⟨h1, h2⟩ := List.nodup_cons.mp hn
      obtain ⟨hl, hg⟩ := hu r (List.mem_cons_self ..)
      obtain ⟨e1, e2⟩ := hF u r hl hg
      rw [List.foldl_cons, e1, e2, ih h2, State.setFlags_withLanes, State.withLanes_cons, State.withFlags_cons]
      · rw [State.modLane_eq_of (g := fun _ => F s r (s.lane r)) u r (by rw [hl])]
      · intro q hq
        obtain ⟨a, b⟩ := hu q (List.mem_cons_of_mem _ hq)
        have hne : r ≠ q := fun e => h1 (e ▸ hq)
        exact ⟨by rw [State.setFlags_lane, State.lane_modLane_other _ _ hne, a], by rw [State.setFlags_group, State.group_modLane_s, b]⟩
  exact key s fun _ _ => ⟨rfl, rfl⟩

/-- The same, followed by moving the lanes past the instruction. -/
theorem State.lanewise_advance (s : State) {rs : List LaneRef} (hn : rs.Nodup) (F : State → LaneRef → Lane → Lane)
    (G : State → LaneRef → FpFlags) 
    (hF : ∀ (u : State) (r : LaneRef), u.lane r = s.lane r → (u.group r).s = (s.group r).s → F u r = F s r ∧ G u r = G s r) :
    (rs.foldl (fun u r => (u.modLane r (F u r)).setFlags r.team (G u r)) s).advanceAll rs
      = (s.withLanes rs (fun r => (F s r (s.lane r)).passed s)).withFlags rs (G s) := by
  rw [State.foldl_lanewise s hn F G hF, State.advanceAll_eq _ hn, State.withFlags_withLanes]
  have hl : ∀ r ∈ rs, (Tab.find s.teams r.team).isSome → ((s.withLanes rs (fun r => F s r (s.lane r))).withFlags rs (G s)).lane r = F s r (s.lane r) := by
    intro r hr ht
    have h0 : ∀ (qs : List LaneRef) (u : State), (u.withFlags qs (G s)).lane r = u.lane r := by
      intro qs
      induction qs with
      | nil => intro u; rfl
      | cons q qs ih => intro u; rw [State.withFlags_cons, ih, State.setFlags_lane]
    rw [h0, State.lane_withLanes hn _ hr ht]
  rw [State.withLanes_congr_listed (h := fun r => (F s r (s.lane r)).passed s) _ (fun r hr ht => ?_), State.withLanes_withLanes _ _ hn]
  rw [hl r hr (by simpa using ht)]
  simp [Lane.passed]

/-- The same, where no flag is raised. -/
theorem State.lanewise_quiet (s : State) {rs : List LaneRef} (hn : rs.Nodup) (F : State → LaneRef → Lane → Lane)
    (hF : ∀ (u : State) (r : LaneRef), u.lane r = s.lane r → (u.group r).s = (s.group r).s → F u r = F s r) :
    (rs.foldl (fun u r => u.modLane r (F u r)) s).advanceAll rs = s.withLanes rs (fun r => (F s r (s.lane r)).passed s) := by
  have := State.lanewise_advance s hn F (fun _ _ => FpFlags.none) (fun u r h1 h2 => ⟨hF u r h1 h2, rfl⟩)
  simpa only [State.setFlags_none, State.withFlags_none] using this

/-! ### The operand forms -/

/-- An R form with v-register destination. -/
theorem aluR_next {i : Instr} {f : RForm} {s : State} (hu : Undisturbed i 0 false s) (hm : f.m ≠ 3)
    (op : Word → Word → Word → Word × FpFlags) :
    aluR i f op s = .next ((s.withLanes s.present (fun r =>
        ((s.lane r).put f.d.toNat (op (s.reg r f.d.toNat) (s.reg r f.a.toNat) (s.reg r (rBReg f))).1).passed s)).withFlags s.present
        (fun r => (op (s.reg r f.d.toNat) (s.reg r f.a.toNat) (s.reg r (rBReg f))).2)) := by
  have h0 : rOff f = 0 := if_neg hm
  have hl : rLanes f s.present = s.present := if_neg hm
  rw [aluR, runAll_undisturbed hu, hl]
  simp only [State.rD, State.rA, State.rB, h0, Nat.zero_add, State.setReg_v _ _ f.d.isLt]
  congr 1
  refine State.lanewise_advance s hu.present_nodup
    (fun u r x => x.put f.d.toNat (op (u.reg r f.d.toNat) (u.reg r f.a.toNat) (u.reg r (rBReg f))).1)
    (fun u r => (op (u.reg r f.d.toNat) (u.reg r f.a.toNat) (u.reg r (rBReg f))).2) (fun u r h1 h2 => ?_)
  simp only [State.reg_congr h1 h2, and_self]

/-- The uniform R form executes once, for the last lane (R68, R95). -/
theorem aluR_uniform {i : Instr} {f : RForm} {s : State} {r : LaneRef} (hu : Undisturbed i 0 false s) (hm : f.m = 3)
    (hr : s.present.getLast? = some r) (op : Word → Word → Word → Word × FpFlags) :
    aluR i f op s =
      let v := op (s.reg r (128 + f.d.toNat)) (s.reg r (128 + f.a.toNat)) (s.reg r (128 + f.b.toNat % 64))
      .next (((s.setReg r (128 + f.d.toNat) v.1).setFlags r.team v.2).advanceAll s.present) := by
  have h0 : rOff f = 128 := if_pos hm
  have hb : rBReg f = 128 + f.b.toNat % 64 := if_pos (.inr hm)
  have hl : rLanes f s.present = [r] := (if_pos hm).trans (by rw [hr]; rfl)
  rw [aluR, runAll_undisturbed hu, hl]
  simp only [State.rD, State.rA, State.rB, h0, hb, List.foldl_cons, List.foldl_nil]

/-- An R-form compare. -/
theorem cmpR_next {i : Instr} {f : RForm} {s : State} (hu : Undisturbed i 0 false s) (op : Word → Word → Bool) (hm : f.m ≠ 3) :
    cmpR i f op s = .next (s.withLanes s.present (fun r =>
      ((s.lane r).putPred f.d.toNat (op (s.reg r f.a.toNat) (s.reg r (rBReg f)))).passed s)) := by
  have h0 : rOff f = 0 := if_neg hm
  rw [cmpR, runAll_undisturbed hu]
  simp only [State.rA, State.rB, h0, Nat.zero_add, State.setPreds_one]
  congr 1
  refine State.lanewise_quiet s hu.present_nodup (fun u r x => x.putPred f.d.toNat (op (u.reg r f.a.toNat) (u.reg r (rBReg f))))
    (fun u r h1 h2 => ?_)
  simp only [State.reg_congr h1 h2]

/-- Predicate logic. -/
theorem predR_next {i : Instr} {f : RForm} {s : State} (hu : Undisturbed i 0 false s) (op : Bool → Bool → Bool) :
    predR i f op s = .next (s.withLanes s.present (fun r =>
      ((s.lane r).putPred f.d.toNat (op ((s.lane r).pred f.a.toNat) ((s.lane r).pred f.b.toNat))).passed s)) := by
  rw [predR, runAll_undisturbed hu]
  simp only [State.setPreds_one]
  congr 1
  refine State.lanewise_quiet s hu.present_nodup
    (fun u r x => x.putPred f.d.toNat (op ((u.lane r).pred f.a.toNat) ((u.lane r).pred f.b.toNat))) (fun u r h1 h2 => ?_)
  simp only [h1]

/-- An I form. -/
theorem intI_next {i : Instr} {f : IForm} {s : State} (hu : Undisturbed i 0 false s) (imm : Word) (op : Word → Word → Word) :
    intI i f imm op s = .next (s.withLanes s.present (fun r => ((s.lane r).put f.d.toNat (op (s.reg r f.a.toNat) imm)).passed s)) := by
  rw [intI, runAll_undisturbed hu]
  simp only [State.setReg_v _ _ f.d.isLt]
  congr 1
  refine State.lanewise_quiet s hu.present_nodup (fun u r x => x.put f.d.toNat (op (u.reg r f.a.toNat) imm)) (fun u r h1 h2 => ?_)
  simp only [State.reg_congr h1 h2]

/-- An I-form compare. -/
theorem cmpI_next {i : Instr} {f : IForm} {s : State} (hu : Undisturbed i 0 false s) (imm : Word) (op : Word → Word → Bool) :
    cmpI i f imm op s = .next (s.withLanes s.present (fun r => ((s.lane r).putPred f.d.toNat (op (s.reg r f.a.toNat) imm)).passed s)) := by
  rw [cmpI, runAll_undisturbed hu]
  simp only [State.setPreds_one]
  congr 1
  refine State.lanewise_quiet s hu.present_nodup (fun u r x => x.putPred f.d.toNat (op (u.reg r f.a.toNat) imm)) (fun u r h1 h2 => ?_)
  simp only [State.reg_congr h1 h2]

/-- A C form over two registers. -/
theorem aluC_next {i : Instr} {f : CForm} {s : State} (hu : Undisturbed i 0 false s) (op : Word → Word → Word × FpFlags) :
    aluC i f op s = .next ((s.withLanes s.present (fun r =>
      ((s.lane r).put f.d.toNat (op (s.reg r f.d.toNat) (s.reg r f.b.toNat)).1).passed s)).withFlags s.present
      (fun r => (op (s.reg r f.d.toNat) (s.reg r f.b.toNat)).2)) := by
  have hd : f.d.toNat < 128 := Nat.lt_trans f.d.isLt (by decide)
  rw [aluC, runAll_undisturbed hu]
  simp only [State.setReg_v _ _ hd]
  congr 1
  refine State.lanewise_advance s hu.present_nodup (fun u r x => x.put f.d.toNat (op (u.reg r f.d.toNat) (u.reg r f.b.toNat)).1)
    (fun u r => (op (u.reg r f.d.toNat) (u.reg r f.b.toNat)).2) (fun u r h1 h2 => ?_)
  simp only [State.reg_congr h1 h2, and_self]

/-- A C form over a register and an immediate. -/
theorem immC_next {i : Instr} {f : CForm} {s : State} (hu : Undisturbed i 0 false s) (imm : Word) (op : Word → Word → Word) :
    immC i f imm op s = .next (s.withLanes s.present (fun r =>
      ((s.lane r).put f.d.toNat (op (s.reg r f.d.toNat) imm)).passed s)) := by
  have hd : f.d.toNat < 128 := Nat.lt_trans f.d.isLt (by decide)
  rw [immC, runAll_undisturbed hu]
  simp only [State.setReg_v _ _ hd]
  congr 1
  refine State.lanewise_quiet s hu.present_nodup (fun u r x => x.put f.d.toNat (op (u.reg r f.d.toNat) imm)) (fun u r h1 h2 => ?_)
  simp only [State.reg_congr h1 h2]

/-- An R form over pairs with a v pair as destination. -/
theorem pairR_next {i : Instr} {f : RForm} {s : State} (hu : Undisturbed i 0 false s) (hm : f.m ≠ 3) (hd : f.d.toNat % 2 = 0)
    (op : Nat → Nat → Nat) :
    pairR i f op s = .next (s.withLanes s.present (fun r =>
      let v := op (s.reg64 r f.a.toNat) (s.reg64 r (rBReg f))
      (((s.lane r).put f.d.toNat (BitVec.ofNat 32 v)).put (f.d.toNat + 1) (BitVec.ofNat 32 (v / 2 ^ 32))).passed s)) := by
  have h0 : rOff f = 0 := if_neg hm
  have hl : rLanes f s.present = s.present := if_neg hm
  have hd0 := f.d.isLt
  have hd1 : f.d.toNat + 1 < 128 := by omega
  have hd2 : f.d.toNat < 192 := by omega
  have hw : ∀ (u : State) (r : LaneRef) (v : Nat), u.setRegs r (pairWrites f.d.toNat v) =
      u.modLane r (fun x => (x.put f.d.toNat (BitVec.ofNat 32 v)).put (f.d.toNat + 1) (BitVec.ofNat 32 (v / 2 ^ 32))) := by
    intro u r v
    simp only [pairWrites, hd2, if_true, State.setRegs, List.foldl_cons, List.foldl_nil, State.setReg_v _ _ f.d.isLt,
      State.setReg_v _ _ hd1, State.modLane_modLane]
  rw [pairR, runAll_undisturbed hu, hl]
  simp only [h0, Nat.zero_add, hw]
  congr 1
  refine State.lanewise_quiet s hu.present_nodup (fun u r x => (x.put f.d.toNat (BitVec.ofNat 32 (op (u.reg64 r f.a.toNat)
    (u.reg64 r (rBReg f))))).put (f.d.toNat + 1) (BitVec.ofNat 32 (op (u.reg64 r f.a.toNat) (u.reg64 r (rBReg f)) / 2 ^ 32)))
    (fun u r h1 h2 => ?_)
  simp only [State.reg64_congr h1 h2]

end Sys2Proof.Machine
end

