-- ==== Sys2Proof/Laws/Ops.lean ====
section
/-! SUPPORT. What posting an operation, holding a lane, parking it, entering its handler and leaving it do, once each. -/

namespace Sys2Proof.Machine

open Sys2Proof

/-- A change of one lane changes nothing but teams. -/
theorem State.modLane_frame (s : State) (r : LaneRef) (f : Lane → Lane) : s.modLane r f = { s with teams := (s.modLane r f).teams } := by
  unfold State.modLane State.modGroup State.modTeam; split <;> rfl

/-- A change of one lane is quiet. -/
theorem Quiet.modLane (s : State) (r : LaneRef) (f : Lane → Lane) : Quiet s (s.modLane r f) :=
  ⟨by conv => lhs; rw [State.modLane_frame]
      simp, fun k => State.team_modLane s r k f, fun q => State.group_modLane s r q f⟩

/-- Quiet changes follow one another. -/
theorem Quiet.trans {s t u : State} (h1 : Quiet s t) (h2 : Quiet t u) : Quiet s u :=
  ⟨by rw [h2.1, h1.1], fun k => by rw [h2.2.1 k, h1.2.1 k], fun q => by rw [h2.2.2 q, h1.2.2 q]⟩

/-- A quiet change leaves memory alone. -/
theorem Quiet.sameMemory {s t : State} (h : Quiet s t) : SameMemory s t :=
  ⟨fun a => by rw [h.1], fun k a => by rw [h.2.1 k]⟩

/-- Raising a slot changes its lane. -/
theorem State.raiseSlot_eq (s : State) {r : LaneRef} (x : XForm) (ht : (Tab.find s.teams r.team).isSome) :
    (s.raiseSlot r x).lane r = (s.lane r).slotRaised x ∧ (∀ q, q ≠ r → (s.raiseSlot r x).lane q = s.lane q)
      ∧ Quiet s (s.raiseSlot r x) ∧ (s.raiseSlot r x).cur = s.cur ∧ (s.raiseSlot r x).cycle = s.cycle
      ∧ (Tab.find (s.raiseSlot r x).teams r.team).isSome := by
  unfold State.raiseSlot Lane.slotRaised
  by_cases h : x.se
  · simp only [if_pos h]
    exact ⟨State.lane_modLane_same ht _, fun q hq => State.lane_modLane_other _ _ (Ne.symm hq), Quiet.modLane .., by simp, by simp,
      by simpa [State.modLane, State.modGroup] using ht⟩
  · rw [if_neg h, if_neg h]
    exact ⟨rfl, fun _ _ => rfl, ⟨rfl, fun _ => rfl, fun _ => rfl⟩, rfl, rfl, ht⟩

/-- Posting an operation puts it in flight and lets the lane go on. -/
theorem State.post_spec (s : State) (o : Op) (x : XForm) (ht : (Tab.find s.teams o.lane.team).isSome) :
    Tab.find (s.post o x).2.ops s.nextKey = some o ∧ (s.post o x).2.lane o.lane = ((s.lane o.lane).slotRaised x).passed s
      ∧ (∀ q, q ≠ o.lane → (s.post o x).2.lane q = s.lane q) ∧ Quiet s (s.post o x).2 := by
  obtain ⟨h1, h2, h3, h4, h5, h6⟩ := State.raiseSlot_eq s (r := o.lane) x ht
  have e : ∀ q, (s.post o x).2.lane q = ((s.raiseSlot o.lane x).advance o.lane s.cur.len).lane q := fun _ => rfl
  have hq : Quiet s ((s.raiseSlot o.lane x).advance o.lane s.cur.len) := h3.trans (Quiet.modLane ..)
  refine ⟨by simp [State.post], ?_, fun q hq => ?_, ?_⟩
  · rw [e, State.advance, State.lane_modLane_same h6, h1, h5]; rfl
  · rw [e, State.advance, State.lane_modLane_other _ _ (Ne.symm hq), h2 q hq]
  · refine ⟨?_, hq.2.1, hq.2.2⟩
    have := hq.1
    simp only [State.post]
    rw [this]

/-- An operation performed for a lane is in flight, and the lane has gone on; nothing else has changed. -/
theorem State.finish_performed (s : State) {r : LaneRef} (x : XForm) (ws : List (Nat × Word)) (ps : List (Nat × Bool))
    (ht : (Tab.find s.teams r.team).isSome) : Performed s (s.finish r x ws ps) r x ws ps ∧ Quiet s (s.finish r x ws ps) := by
  obtain ⟨h1, h2, h3, h4⟩ := State.post_spec s (s.newOp r x ws ps) x ht
  exact ⟨⟨⟨s.nextKey, s.newOp r x ws ps, Nat.le_refl _, h1, rfl, rfl, rfl, rfl, rfl, rfl⟩, h2, h3⟩, h4⟩

/-- A lane held in a blocking instruction. -/
theorem State.hold_spec (s : State) {r : LaneRef} (h : Hold) (ht : (Tab.find s.teams r.team).isSome) :
    HeldIn s (s.hold r h) r h ∧ Quiet s (s.hold r h) := by
  obtain ⟨h1, h2, h3, h4, h5, h6⟩ := State.raiseSlot_eq s (r := r) h.x ht
  refine ⟨⟨?_, fun q hq => ?_⟩, h3.trans (Quiet.modLane ..)⟩
  · rw [State.hold, State.lane_modLane_same h6, h1]
  · rw [State.hold, State.lane_modLane_other _ _ (Ne.symm hq), h2 q hq]

/-- Returning a lane home changes its mark and the bins alone. -/
theorem State.returnHome_spec (s : State) {r : LaneRef} (ht : (Tab.find s.teams r.team).isSome) :
    (s.returnHome r).lane r = { s.lane r with away := none } ∧ (∀ q, q ≠ r → (s.returnHome r).lane q = s.lane q)
      ∧ s.returnHome r = { s with teams := (s.returnHome r).teams, bins := (s.returnHome r).bins }
      ∧ (∀ k, (s.returnHome r).team k = { s.team k with groups := ((s.returnHome r).team k).groups })
      ∧ SameGroupRegs s (s.returnHome r) ∧ (Tab.find (s.returnHome r).teams r.team).isSome := by
  unfold State.returnHome
  split
  · next h => exact ⟨by rw [← h], fun _ _ => rfl, rfl, fun _ => rfl, fun _ => rfl, ht⟩
  · refine ⟨State.lane_modLane_same ht _, fun q hq => State.lane_modLane_other _ _ (Ne.symm hq), ?_, fun k => State.team_modLane s r k _,
      fun q => State.group_modLane s r q _, by simpa [State.modLane, State.modGroup] using ht⟩
    rw [State.modLane_frame]

/-- Counting changes counters alone. -/
theorem State.count_frame (s : State) (c i n k p : Nat) : s.count c i n k p = { s with counters := (s.count c i n k p).counters } := by
  unfold State.count; split <;> rfl
/-- Counting a fault changes counters alone. -/
theorem State.countFault_frame (s : State) (t c : Nat) : s.countFault t c = { s with counters := (s.countFault t c).counters } := by
  unfold State.countFault
  split
  · exact State.count_frame ..
  · split
    · exact State.count_frame ..
    · rfl

/-- A fault parks its lane, where a handler is to take it. -/
theorem State.raise_parked (s : State) {r : LaneRef} (code addr detail : Nat) (ht : (Tab.find s.teams r.team).isSome) (hh : HandlerReady s r) :
    Parked s (s.raise r code addr detail) r code detail addr ∧ SameMemory s (s.raise r code addr detail)
      ∧ SameGroupRegs s (s.raise r code addr detail) := by
  obtain ⟨h1, h2, h3, h4, h5, h6⟩ := State.returnHome_spec s ht
  have hc := State.countFault_frame (s.returnHome r) r.team code
  obtain ⟨hi, hg⟩ := hh
  have hl : ∀ q, ((s.returnHome r).countFault r.team code).lane q = (s.returnHome r).lane q := fun q => by rw [hc]; rfl
  have ht' : (Tab.find ((s.returnHome r).countFault r.team code).teams r.team).isSome := by rw [hc]; exact h6
  have hi' : (((s.returnHome r).countFault r.team code).lane r).inHandler = false := by rw [hl, h1]; exact hi
  have hg' : ∀ f, (((s.returnHome r).countFault r.team code).modLane r f).gridOf r.team = s.gridOf r.team := fun f => by
    have e1 : ((s.returnHome r).countFault r.team code).gridOf r.team = (s.returnHome r).gridOf r.team := by rw [hc]; rfl
    have e2 : (s.returnHome r).grids = s.grids := by rw [h3]
    rw [State.gridOf_modLane, e1]
    have e3 : ((s.returnHome r).team r.team).grid = (s.team r.team).grid := by rw [h4 r.team]
    simp only [State.gridOf, State.grid, e3, e2]
  have e : s.raise r code addr detail = ((s.returnHome r).countFault r.team code).modLane r (fun x =>
      { x with parked := true, faultCode := code, staged := some (s.faultHere code detail addr, false), cond := .running, back := none }) := by
    simp [State.raise, State.park, hi', hg', hg, State.faultHere]
  rw [e]
  refine ⟨⟨?_, fun q hq => ?_⟩, ⟨fun a => ?_, fun k a => ?_⟩, fun q => ?_⟩
  · rw [State.lane_modLane_same ht', hl, h1]
  · rw [State.lane_modLane_other _ _ (Ne.symm hq), hl, h2 q hq]
  · rw [State.modLane_mem, hc, h3]
  · rw [State.team_modLane, show ((s.returnHome r).countFault r.team code).team k = (s.returnHome r).team k by rw [hc]; rfl, h4 k]
  · rw [State.group_modLane, show ((s.returnHome r).countFault r.team code).group q = (s.returnHome r).group q by rw [hc]; rfl, h5 q]

/-- An X form that one lane runs alone is its lane meaning. -/
theorem runLanes_alone {i : Instr} {x : XForm} {r : LaneRef} {s : State} (h : Alone i x r s) (f : State → LaneRef → State) :
    runLanes i x f s = .next (f s r) := by
  obtain ⟨hu, hp, hg, -, -⟩ := h
  have ha : s.active x.p x.pn = [r] := by simp [State.active, hp, hg]
  have hn : s.present.filter (fun r => !s.guard x.p x.pn r) = [] := by simp [hp, hg]
  rw [runLanes, runX, runGuarded, execute_undisturbed hu, ha, hn]
  rfl

/-- The same for an X form whose lanes act together. -/
theorem runX_alone {i : Instr} {x : XForm} {r : LaneRef} {s : State} (h : Alone i x r s) (f : State → List LaneRef → State) :
    runX i x f s = .next (f s [r]) := by
  obtain ⟨hu, hp, hg, -, -⟩ := h
  have ha : s.active x.p x.pn = [r] := by simp [State.active, hp, hg]
  have hn : s.present.filter (fun r => !s.guard x.p x.pn r) = [] := by simp [hp, hg]
  rw [runX, runGuarded, execute_undisturbed hu, ha, hn]
  rfl

end Sys2Proof.Machine
end

