-- ==== Sys2Proof/Tests/Slice0.lean ====
section
/-! SUPPORT. The model's own tests: static checks that refuse, words of the spec's encodings, single steps with results worked out by hand
from the spec, and for each statement with hypotheses a state and operands that meet them (the theorems witness_…). -/

namespace Sys2Proof.Tests

set_option Elab.async false

open Sys2Proof Sys2Proof.Machine

/-! ### Static checks (R84) -/

/-- A plain X form without a guard, a wait or a slot. -/
def xf (d a b c fs md : Nat) : XForm :=
  { d := BitVec.ofNat 8 d, a := BitVec.ofNat 8 a, b := BitVec.ofNat 8 b, c := BitVec.ofNat 8 c, p := 0, pn := false, wm := 0, ss := 0, se := false,
    fs := BitVec.ofNat 3 fs, md := BitVec.ofNat 4 md }
/-- The same with slot sb2 set. -/
def xs (d a b c fs md : Nat) : XForm := { xf d a b c fs md with ss := 2, se := true }
/-- Each instruction fails the check named beside it. -/
def refuses (rows : List (Instr × IllFormed)) : Bool := rows.all (fun e => e.1.check == some e.2)

/-- R form, predicates, moves and special registers (R23, R67, R104, R105, R107). -/
theorem test_refuses_r : refuses [
  (.add ⟨1, 2, 3, 1⟩, .mode), (.add ⟨1, 2, 64, 2⟩, .registerNumber), (.add ⟨64, 2, 3, 3⟩, .registerNumber), (.add64 ⟨1, 2, 4, 0⟩, .unalignedRun),
  (.lea ⟨2, 4, 5, 0⟩, .unalignedRun), (.abs ⟨1, 2, 0, 2⟩, .mode), (.abs ⟨1, 2, 3, 0⟩, .nonZeroField), (.abs ⟨1, 64, 0, 3⟩, .registerNumber),
  (.cmpeq ⟨1, 2, 3, 3⟩, .mode), (.cmpeq ⟨8, 2, 3, 0⟩, .predicateNumber), (.fcmplt ⟨1, 2, 64, 2⟩, .registerNumber), (.pand ⟨1, 2, 3, 2⟩, .mode),
  (.por ⟨1, 8, 3, 0⟩, .predicateNumber), (.pnot ⟨1, 2, 1, 0⟩, .nonZeroField), (.sel ⟨1, 2, 3, 3⟩, .mode), (.sel ⟨1, 8, 3, 0⟩, .predicateNumber),
  (.mov ⟨1, 2, 3, 0⟩, .nonZeroField), (.mov ⟨64, 0, 3, 1⟩, .registerNumber), (.radd ⟨2, 4, 6, 3⟩, .mode), (.radd ⟨3, 4, 6, 0⟩, .unalignedRun),
  (.srd ⟨1, 15, 0, 0⟩, .specialRegister), (.srd ⟨1, 8, 0, 0⟩, .unalignedRun), (.swr ⟨11, 1, 0, 0⟩, .specialRegister), (.swr ⟨14, 3, 0, 0⟩, .unalignedRun),
  (.p2v ⟨1, 2, 0, 0⟩, .nonZeroField), (.v2p ⟨1, 2, 0, 0⟩, .nonZeroField), (.hadd2 ⟨1, 2, 64, 2⟩, .registerNumber)] = true := by decide +kernel

/-- The 0x70 range, I, B and J forms (R67, R69, R71, R141, R162). -/
theorem test_refuses_32 : refuses [
  (.dp4a ⟨1, 2, 3, 3⟩, .mode), (.shfli ⟨1, 2, 64, 2⟩, .registerNumber), (.qbc ⟨1, 2, 4, 1⟩, .range), (.voteall ⟨1, 2, 3, 0⟩, .nonZeroField),
  (.elect ⟨1, 2, 0, 0⟩, .nonZeroField), (.lred ⟨1, 2, 64, 0⟩, .nonZeroField), (.lred ⟨1, 2, 8, 0⟩, .operation), (.lscan ⟨1, 2, 12, 0⟩, .operation),
  (.brx ⟨0, 0, 2, 1⟩, .mode), (.brx ⟨2, 0, 2, 0⟩, .nonZeroField), (.ret ⟨0, 0, 3, 0⟩, .unalignedRun), (.callx ⟨3, 0, 2, 0⟩, .unalignedRun),
  (.shli ⟨1, 2, 32⟩, .nonZeroField), (.cmpeqi ⟨8, 2, 1⟩, .predicateNumber), (.wait ⟨0, 0, 256⟩, .nonZeroField), (.trap ⟨1, 0, 3⟩, .nonZeroField),
  (.jmset ⟨12, 0, 0, false⟩, .registerNumber), (.jmset ⟨0, 72, 0, false⟩, .registerNumber), (.jmget ⟨0, 64, 0, false⟩, .registerNumber),
  (.join ⟨0, 1, 0, false⟩, .nonZeroField)] = true := by decide +kernel

/-- Memory, tiles, fences and conversions (R75 to R81). -/
theorem test_refuses_x : refuses [
  (.ld { xf 8 4 4 0 0 0 with ss := 1 }, .slotField), (.ld (xf 8 4 8 0 0 0), .widthCode), (.ld (xf 8 4 0x44 0 0 0), .widthCode),
  (.ld (xf 8 4 4 0 0 4), .nonZeroField), (.ld (xf 8 4 4 0 1 2), .ordering), (.ld (xf 8 4 4 0 0 1), .ordering), (.st (xf 8 4 4 0 1 1), .ordering),
  (.ldl (xf 8 4 4 0 5 0), .ordering), (.ld (xf 9 4 5 0 0 0), .unalignedRun), (.ld (xf 8 5 4 0 0 0), .unalignedRun), (.ld (xf 130 4 4 0 0 0), .registerKind),
  (.pf (xf 1 4 4 0 0 0), .nonZeroField), (.pf (xf 0 4 4 0 1 0), .ordering), (.ldv (xf 8 4 7 6 0 0), .widthCode), (.ldv (xf 8 4 0x84 6 0 0), .predicateNumber),
  (.ldv (xf 8 4 4 7 0 0), .unalignedRun), (.vpin (xf 1 4 0 0 0 0), .nonZeroField), (.vunpin (xf 0 5 0 0 0 0), .unalignedRun),
  (.smap (xf 0 3 134 137 0 0), .registerKind), (.smap (xf 0 131 135 137 0 0), .unalignedRun), (.sunmap (xf 0 131 134 137 0 0), .nonZeroField),
  (.sflush (xf 0 131 0 137 4 0), .ordering), (.sinv (xf 0 131 0 137 5 0), .ordering), (.acp16 (xf 63 4 6 0 0 0), .operandName),
  (.acps16 (xf 64 5 6 0 0 0), .unalignedRun), (.talloc (xf 5 0 139 0 0 0), .registerKind), (.tfree (xf 0 5 0 0 0 0), .operandName),
  (.twait (xf 0 64 5 0 0 0), .unalignedRun), (.tstate (xf 5 64 0 0 0 0), .registerKind), (.fence (xf 0 0 0 0 0 1), .ordering),
  (.fence (xf 0 0 0 1 4 1), .nonZeroField), (.fencex (xf 0 0 0 0x11 4 1), .range), (.movi ⟨8, 0, false, 4, 0⟩, .operation),
  (.movi ⟨9, 0, false, 1, 0⟩, .unalignedRun), (.cvt (xf 1 2 3 0 0 0), .nonZeroField), (.cvtpk (xf 1 200 3 0 0 0), .registerNumber),
  (.dph (xf 1 2 0 0 0 0), .nonZeroField), (.fma (xf 1 2 3 4 0 1), .nonZeroField)] = true := by decide +kernel

/-- Atomics, barriers, queues, the Pricker, the matrix, the fabric and the system (R78 to R80, R232, R247, R266, R288, R310, R339, R390). -/
theorem test_refuses_x2 : refuses [
  (.atom (xf 1 4 6 8 1 0), .widthCode), (.atom (xf 1 4 6 0 0 0), .ordering), (.chain (xf 1 130 6 0 1 0), .ordering), (.upd (xf 1 4 6 0 1 0), .nonZeroField),
  (.atom (xf 130 4 6 0 1 0), .registerKind), (.atom (xf 1 4 6 4 1 0), .unalignedRun), (.atom (xf 1 255 6 0 1 0), .registerKind),
  (.chain (xf 1 4 6 3 1 0), .registerKind), (.cas (xf 1 4 255 0 1 0), .unalignedRun), (.cas (xf 1 4 7 0 1 0), .unalignedRun),
  (.cas (xf 1 4 6 0 1 1), .nonZeroField), (.atom (xf 1 4 6 0 1 12), .operation), (.atom (xf 2 4 6 4 1 9), .operation), (.upd (xf 0 4 6 0 1 8), .operation),
  (.chain (xf 1 130 6 3 1 1), .operation), (.binit (xf 1 4 6 0 1 0), .nonZeroField), (.barr (xf 130 4 0 0 1 0), .registerKind),
  (.btestp (xf 0 4 6 0 1 0), .predicateNumber), (.bwait (xf 1 4 255 0 1 0), .registerNumber), (.bdrop (xf 0 5 6 0 1 0), .unalignedRun),
  (.barw (xf 1 4 0 0 5 1), .ordering), (.tbar (xf 0 0 0 16 0 0), .range), (.qinit (xf 0 4 6 0 1 0), .unalignedRun), (.qclose (xf 0 4 0 0 0 0), .ordering),
  (.enq (xf 0 4 6 255 1 1), .range), (.deq (xf 130 4 0 255 1 0), .registerKind), (.qstat (xf 1 4 16 0 1 0), .range), (.qldt (xf 0 4 131 0 0 0), .registerKind),
  (.qrnd2 (xf 1 4 5 0 0 0), .unalignedRun), (.qbern (xf 8 4 5 6 0 0), .predicateNumber), (.last (xf 0 16 255 0 0 0), .operandName),
  (.lswap (xf 0 0 0 1 0 0), .nonZeroField), (.mstr (xf 15 64 5 255 0 0), .operandName), (.mdrn (xf 4 17 5 1 0 2), .operandName),
  (.mdrn (xf 4 16 5 129 0 0), .range), (.mzero (xf 17 0 5 0 0 2), .operandName), (.mstat (xf 3 0 0 0 0 0), .unalignedRun),
  (.twalk (xf 130 132 134 5 0 0), .range), (.twnext (xf 4 5 0 0 0 1), .nonZeroField), (.twdone (xf 0 255 0 0 0 0), .registerKind),
  (.hread (xf 255 5 0 0 0 0), .registerKind), (.col (xf 130 4 0 0 0 0), .registerKind), (.gettime (xf 3 4 0 0 0 0), .unalignedRun),
  (.launch (xf 1 3 0 0 0 0), .unalignedRun), (.assert (xf 0 4 0 0 0 0), .registerKind), (.brk (xf 0 1 0 0 0 0), .nonZeroField),
  (.rtrap (xf 0 0 0 0 0 2), .nonZeroField), (.ctxr (xf 1 0 0 12 0 0), .specialRegister), (.ctxr (xf 1 0 0 0 0 0), .unalignedRun),
  (.ctxw (xf 0 1 0 1 0 0), .specialRegister), (.ctxw (xf 0 130 0 8 0 0), .registerKind)] = true := by decide +kernel

/-! ### Words of the spec's encodings (R63 to R83): every instruction that has one -/

/-- Each word, of the length beside it, decodes to its instruction. -/
def reads (rows : List (Instr × Nat × Nat)) : Bool :=
  rows.all (fun e => match decodeBits e.2.1 e.2.2 with | .ok i => decide (i = e.1) | .error _ => false)

theorem test_decode_compact_1 : reads [
  (.cMov ⟨21, 14⟩, 1, 0x0AB8),
  (.cMovImm ⟨21, 30⟩, 1, 0x0AFA),
  (.cAdd ⟨21, 14⟩, 1, 0x1AB8),
  (.cAddImm ⟨21, 30⟩, 1, 0x1AFA),
  (.cSub ⟨21, 14⟩, 1, 0x2AB8),
  (.cSubImm ⟨21, 30⟩, 1, 0x2AFA),
  (.cMul ⟨21, 14⟩, 1, 0x3AB8),
  (.cMulImm ⟨21, 30⟩, 1, 0x3AFA),
  (.cAnd ⟨21, 14⟩, 1, 0x4AB8),
  (.cAndImm ⟨21, 30⟩, 1, 0x4AFA),
  (.cOr ⟨21, 14⟩, 1, 0x5AB8),
  (.cOrImm ⟨21, 30⟩, 1, 0x5AFA),
  (.cXor ⟨21, 14⟩, 1, 0x6AB8),
  (.cXorImm ⟨21, 30⟩, 1, 0x6AFA),
  (.cShl ⟨21, 14⟩, 1, 0x7AB8),
  (.cShlImm ⟨21, 30⟩, 1, 0x7AFA),
  (.cShrl ⟨21, 14⟩, 1, 0x8AB8),
  (.cShrlImm ⟨21, 30⟩, 1, 0x8AFA),
  (.cShra ⟨21, 14⟩, 1, 0x9AB8),
  (.cShraImm ⟨21, 30⟩, 1, 0x9AFA),
  (.cFadd ⟨21, 14⟩, 1, 0xAAB8),
  (.cFsub ⟨21, 14⟩, 1, 0xBAB8),
  (.cFmul ⟨21, 14⟩, 1, 0xCAB8),
  (.cFmax ⟨21, 14⟩, 1, 0xDAB8)] = true := by decide +kernel
theorem test_decode_compact_2 : reads [
  (.cFmin ⟨21, 14⟩, 1, 0xEAB8),
  (.nop, 1, 0xF000),
  (.cExit, 1, 0xF080),
  (.cYield, 1, 0xF100),
  (.waitAll, 1, 0xF180)] = true := by decide +kernel
theorem test_decode_integer_1 : reads [
  (.add ⟨100, 67, 39, 2⟩, 2, 0x01921A79),
  (.sub ⟨100, 67, 39, 2⟩, 2, 0x03921A79),
  (.mul ⟨100, 67, 39, 2⟩, 2, 0x05921A79),
  (.mulhi ⟨100, 67, 39, 2⟩, 2, 0x07921A79),
  (.mulhiu ⟨100, 67, 39, 2⟩, 2, 0x09921A79),
  (.and ⟨100, 67, 39, 2⟩, 2, 0x0B921A79),
  (.or ⟨100, 67, 39, 2⟩, 2, 0x0D921A79),
  (.xor ⟨100, 67, 39, 2⟩, 2, 0x0F921A79),
  (.andn ⟨100, 67, 39, 2⟩, 2, 0x11921A79),
  (.orn ⟨100, 67, 39, 2⟩, 2, 0x13921A79),
  (.shl ⟨100, 67, 39, 2⟩, 2, 0x15921A79),
  (.shrl ⟨100, 67, 39, 2⟩, 2, 0x17921A79),
  (.shra ⟨100, 67, 39, 2⟩, 2, 0x19921A79),
  (.rotl ⟨100, 67, 39, 2⟩, 2, 0x1B921A79),
  (.rotr ⟨100, 67, 39, 2⟩, 2, 0x1D921A79),
  (.min ⟨100, 67, 39, 2⟩, 2, 0x1F921A79),
  (.max ⟨100, 67, 39, 2⟩, 2, 0x21921A79),
  (.minu ⟨100, 67, 39, 2⟩, 2, 0x23921A79),
  (.maxu ⟨100, 67, 39, 2⟩, 2, 0x25921A79),
  (.abs ⟨100, 67, 0, 0⟩, 2, 0x27921801),
  (.addsat ⟨100, 67, 39, 2⟩, 2, 0x29921A79),
  (.subsat ⟨100, 67, 39, 2⟩, 2, 0x2B921A79),
  (.popc ⟨100, 67, 0, 0⟩, 2, 0x2D921801),
  (.clz ⟨100, 67, 0, 0⟩, 2, 0x2F921801)] = true := by decide +kernel
theorem test_decode_integer_2 : reads [
  (.ctz ⟨100, 67, 0, 0⟩, 2, 0x31921801),
  (.brev ⟨100, 67, 0, 0⟩, 2, 0x33921801),
  (.bfx ⟨100, 67, 39, 2⟩, 2, 0x35921A79),
  (.bfi ⟨100, 67, 39, 2⟩, 2, 0x37921A79),
  (.permb ⟨100, 67, 39, 2⟩, 2, 0x39921A79),
  (.lea ⟨100, 66, 58, 2⟩, 2, 0x3B9213A9),
  (.add64 ⟨100, 66, 58, 2⟩, 2, 0x3D9213A9),
  (.sub64 ⟨100, 66, 58, 2⟩, 2, 0x3F9213A9)] = true := by decide +kernel
theorem test_decode_predicates : reads [
  (.sel ⟨100, 5, 39, 1⟩, 2, 0x41902A75),
  (.mov ⟨60, 0, 99, 1⟩, 2, 0x42F00635),
  (.cmpeq ⟨6, 67, 39, 2⟩, 2, 0x441A1A79),
  (.cmpne ⟨6, 67, 39, 2⟩, 2, 0x461A1A79),
  (.cmplt ⟨6, 67, 39, 2⟩, 2, 0x481A1A79),
  (.cmple ⟨6, 67, 39, 2⟩, 2, 0x4A1A1A79),
  (.cmpltu ⟨6, 67, 39, 2⟩, 2, 0x4C1A1A79),
  (.cmpleu ⟨6, 67, 39, 2⟩, 2, 0x4E1A1A79),
  (.pand ⟨6, 5, 3, 0⟩, 2, 0x50182831),
  (.por ⟨6, 5, 3, 0⟩, 2, 0x52182831),
  (.pxor ⟨6, 5, 3, 0⟩, 2, 0x54182831),
  (.pnot ⟨6, 5, 0, 0⟩, 2, 0x56182801),
  (.p2v ⟨100, 0, 0, 0⟩, 2, 0x59900001),
  (.v2p ⟨0, 67, 0, 0⟩, 2, 0x5A021801),
  (.srd ⟨100, 8, 0, 0⟩, 2, 0x5D904001),
  (.swr ⟨14, 68, 0, 0⟩, 2, 0x5E3A2001)] = true := by decide +kernel
theorem test_decode_immediates : reads [
  (.addi ⟨100, 67, 421⟩, 2, 0x61921E95),
  (.muli ⟨100, 67, 421⟩, 2, 0x63921E95),
  (.andi ⟨100, 67, 421⟩, 2, 0x65921E95),
  (.ori ⟨100, 67, 421⟩, 2, 0x67921E95),
  (.xori ⟨100, 67, 421⟩, 2, 0x69921E95),
  (.shli ⟨100, 67, 29⟩, 2, 0x6B921875),
  (.shrli ⟨100, 67, 29⟩, 2, 0x6D921875),
  (.shrai ⟨100, 67, 29⟩, 2, 0x6F921875),
  (.rotli ⟨100, 67, 29⟩, 2, 0x71921875),
  (.mini ⟨100, 67, 421⟩, 2, 0x73921E95),
  (.maxi ⟨100, 67, 421⟩, 2, 0x75921E95),
  (.cmpeqi ⟨6, 67, 421⟩, 2, 0x761A1E95),
  (.cmpnei ⟨6, 67, 421⟩, 2, 0x781A1E95),
  (.cmplti ⟨6, 67, 421⟩, 2, 0x7A1A1E95),
  (.cmplei ⟨6, 67, 421⟩, 2, 0x7C1A1E95),
  (.cmpltui ⟨6, 67, 421⟩, 2, 0x7E1A1E95)] = true := by decide +kernel
theorem test_decode_floating_1 : reads [
  (.fadd ⟨100, 67, 39, 2⟩, 2, 0x81921A79),
  (.fsub ⟨100, 67, 39, 2⟩, 2, 0x83921A79),
  (.fmul ⟨100, 67, 39, 2⟩, 2, 0x85921A79),
  (.fmac ⟨100, 67, 39, 2⟩, 2, 0x87921A79),
  (.fmin ⟨100, 67, 39, 2⟩, 2, 0x89921A79),
  (.fmax ⟨100, 67, 39, 2⟩, 2, 0x8B921A79),
  (.fabs ⟨100, 67, 0, 0⟩, 2, 0x8D921801),
  (.fneg ⟨100, 67, 0, 0⟩, 2, 0x8F921801),
  (.fcmpeq ⟨6, 67, 39, 2⟩, 2, 0x901A1A79),
  (.fcmpne ⟨6, 67, 39, 2⟩, 2, 0x921A1A79),
  (.fcmplt ⟨6, 67, 39, 2⟩, 2, 0x941A1A79),
  (.fcmple ⟨6, 67, 39, 2⟩, 2, 0x961A1A79),
  (.fcmpun ⟨6, 67, 39, 2⟩, 2, 0x981A1A79),
  (.frcp ⟨100, 67, 0, 0⟩, 2, 0x9B921801),
  (.frsq ⟨100, 67, 0, 0⟩, 2, 0x9D921801),
  (.fsqrt ⟨100, 67, 0, 0⟩, 2, 0x9F921801),
  (.fdiv ⟨100, 67, 39, 2⟩, 2, 0xA1921A79),
  (.fexp2 ⟨100, 67, 0, 0⟩, 2, 0xA3921801),
  (.flog2 ⟨100, 67, 0, 0⟩, 2, 0xA5921801),
  (.fsin ⟨100, 67, 0, 0⟩, 2, 0xA7921801),
  (.fcos ⟨100, 67, 0, 0⟩, 2, 0xA9921801),
  (.ftanh ⟨100, 67, 0, 0⟩, 2, 0xAB921801),
  (.ffloor ⟨100, 67, 0, 0⟩, 2, 0xAD921801),
  (.fceil ⟨100, 67, 0, 0⟩, 2, 0xAF921801)] = true := by decide +kernel
theorem test_decode_floating_2 : reads [
  (.frint ⟨100, 67, 0, 0⟩, 2, 0xB1921801),
  (.ftrunc ⟨100, 67, 0, 0⟩, 2, 0xB3921801),
  (.fscale ⟨100, 67, 39, 2⟩, 2, 0xB5921A79),
  (.fgetexp ⟨100, 67, 0, 0⟩, 2, 0xB7921801),
  (.fclass ⟨100, 67, 0, 0⟩, 2, 0xB9921801),
  (.hadd2 ⟨100, 67, 91, 1⟩, 2, 0xBB921DB5),
  (.hmul2 ⟨100, 67, 91, 1⟩, 2, 0xBD921DB5),
  (.hmac2 ⟨100, 67, 91, 1⟩, 2, 0xBF921DB5)] = true := by decide +kernel
theorem test_decode_control : reads [
  (.bra ⟨5, true, 0x7FFEC⟩, 2, 0xC17FFFB1),
  (.brx ⟨0, 0, 58, 2⟩, 2, 0xC20003A9),
  (.call ⟨5, true, 0x7FFEC⟩, 2, 0xC57FFFB1),
  (.callx ⟨100, 0, 58, 2⟩, 2, 0xC79003A9),
  (.ret ⟨0, 0, 58, 2⟩, 2, 0xC80003A9),
  (.jmset ⟨11, 63, 4, true⟩, 2, 0xCB6FE401),
  (.jmget ⟨11, 63, 4, true⟩, 2, 0xCD6FE401),
  (.join ⟨6, 0, 3, false⟩, 2, 0xCEC01801),
  (.leave ⟨6, 0, 3, false⟩, 2, 0xD0C01801),
  (.waitj ⟨6, 0, 3, false⟩, 2, 0xD2C01801),
  (.reform, 2, 0xD4000001),
  (.home, 2, 0xD6000001),
  (.yield, 2, 0xD8000001),
  (.exit, 2, 0xDA000001),
  (.wait ⟨0, 0, 165⟩, 2, 0xDC000295),
  (.trap ⟨0, 0, 421⟩, 2, 0xDE000695)] = true := by decide +kernel
theorem test_decode_cross_lane : reads [
  (.shfli ⟨100, 67, 121, 1⟩, 2, 0xE1921F95),
  (.shflu ⟨100, 67, 121, 1⟩, 2, 0xE3921F95),
  (.shfld ⟨100, 67, 121, 1⟩, 2, 0xE5921F95),
  (.shflx ⟨100, 67, 121, 1⟩, 2, 0xE7921F95),
  (.voteall ⟨100, 67, 0, 0⟩, 2, 0xE9921801),
  (.voteany ⟨100, 67, 0, 0⟩, 2, 0xEB921801),
  (.ballot ⟨100, 67, 0, 0⟩, 2, 0xED921801),
  (.lred ⟨100, 67, 9, 0⟩, 2, 0xEF921891),
  (.lscan ⟨100, 67, 75, 0⟩, 2, 0xF1921CB1),
  (.qxh ⟨100, 67, 0, 0⟩, 2, 0xF3921801),
  (.qxv ⟨100, 67, 0, 0⟩, 2, 0xF5921801),
  (.qxd ⟨100, 67, 0, 0⟩, 2, 0xF7921801),
  (.qbc ⟨100, 67, 3, 1⟩, 2, 0xF9921835),
  (.elect ⟨100, 0, 0, 0⟩, 2, 0xFB900001),
  (.dp4a ⟨100, 67, 121, 1⟩, 2, 0xFD921F95),
  (.radd ⟨100, 66, 58, 1⟩, 2, 0xFF9213A5)] = true := by decide +kernel
theorem test_decode_access : reads [
  (.ld ⟨8, 68, 22, 243, 3, true, 0xA6, 5, true, 5, 1⟩, 4, 0x1BB4D7E62C881003),
  (.st ⟨9, 68, 36, 127, 3, true, 0xA6, 5, true, 6, 2⟩, 4, 0x2DB4D6FE48881207),
  (.ldl ⟨16, 69, 7, 3, 3, true, 0xA6, 5, true, 4, 1⟩, 4, 0x19B4D6060E8A200B),
  (.stl ⟨10, 130, 53, 128, 3, true, 0xA6, 5, true, 0, 0⟩, 4, 0x01B4D7006B04140F),
  (.ldv ⟨12, 70, 118, 72, 3, true, 0xA6, 5, true, 7, 1⟩, 4, 0x1FB4D690EC8C1813),
  (.vpin ⟨0, 70, 0, 0, 3, true, 0xA6, 5, true, 0, 0⟩, 4, 0x01B4D600008C0017),
  (.vunpin ⟨0, 140, 0, 0, 3, true, 0xA6, 5, true, 0, 0⟩, 4, 0x01B4D6000118001B),
  (.pf ⟨0, 70, 19, 9, 3, true, 0xA6, 5, true, 0, 0⟩, 4, 0x01B4D612268C001F),
  (.fence ⟨0, 0, 0, 0, 3, true, 0xA6, 5, true, 6, 3⟩, 4, 0x3DB4D6000000004B),
  (.fencex ⟨0, 0, 0, 64, 3, true, 0xA6, 5, true, 4, 1⟩, 4, 0x19B4D6800000004F)] = true := by decide +kernel
theorem test_decode_stash_and_tiles : reads [
  (.smap ⟨0, 131, 134, 137, 3, true, 0xA6, 5, true, 0, 0⟩, 4, 0x01B4D7130D060023),
  (.sunmap ⟨0, 131, 0, 137, 3, true, 0xA6, 5, true, 0, 0⟩, 4, 0x01B4D71201060027),
  (.sflush ⟨0, 131, 0, 137, 3, true, 0xA6, 5, true, 6, 0⟩, 4, 0x0DB4D7120106002B),
  (.sinv ⟨0, 131, 0, 137, 3, true, 0xA6, 5, true, 0, 0⟩, 4, 0x01B4D7120106002F),
  (.acp16 ⟨70, 68, 33, 0, 3, true, 0xA6, 5, true, 0, 1⟩, 4, 0x11B4D60042888C33),
  (.acps16 ⟨130, 68, 33, 0, 3, true, 0xA6, 5, true, 0, 0⟩, 4, 0x01B4D60042890437),
  (.talloc ⟨133, 0, 139, 0, 3, true, 0xA6, 5, true, 0, 1⟩, 4, 0x11B4D60116010A3B),
  (.tfree ⟨0, 77, 0, 0, 3, true, 0xA6, 5, true, 0, 0⟩, 4, 0x01B4D600009A003F),
  (.twait ⟨0, 77, 36, 0, 3, true, 0xA6, 5, true, 0, 0⟩, 4, 0x01B4D600489A0043),
  (.tstate ⟨133, 140, 0, 0, 3, true, 0xA6, 5, true, 0, 0⟩, 4, 0x01B4D60001190A47)] = true := by decide +kernel
theorem test_decode_conversion : reads [
  (.cvt ⟨33, 34, 0, 7, 3, true, 0xA6, 5, true, 6, 0⟩, 4, 0x0DB4D60E00444267),
  (.cvtpk ⟨33, 34, 35, 6, 3, true, 0xA6, 5, true, 5, 0⟩, 4, 0x0BB4D60C4644426B),
  (.cvtq ⟨33, 34, 160, 1, 3, true, 0xA6, 5, true, 7, 0⟩, 4, 0x0FB4D6034044426F),
  (.dph ⟨33, 34, 0, 0, 3, true, 0xA6, 5, true, 0, 1⟩, 4, 0x11B4D60000444273),
  (.fma ⟨33, 34, 35, 36, 3, true, 0xA6, 5, true, 3, 0⟩, 4, 0x07B4D64846444277),
  (.movi ⟨34, 3, true, 1, 0xFFFF0001⟩, 4, 0xFFFF000102164463)] = true := by decide +kernel
theorem test_decode_atomics : reads [
  (.atom ⟨34, 68, 36, 7, 3, true, 0xA6, 5, true, 5, 12⟩, 4, 0xCBB4D60E48884483),
  (.upd ⟨0, 68, 37, 2, 3, true, 0xA6, 5, true, 4, 9⟩, 4, 0x99B4D6044A880087),
  (.cas ⟨34, 68, 36, 5, 3, true, 0xA6, 5, true, 6, 0⟩, 4, 0x0DB4D60A4888448B),
  (.chain ⟨34, 130, 37, 3, 3, true, 0xA6, 5, true, 7, 9⟩, 4, 0x9FB4D6064B04448F)] = true := by decide +kernel
theorem test_decode_barriers : reads [
  (.binit ⟨0, 68, 37, 0, 3, true, 0xA6, 5, true, 5, 0⟩, 4, 0x0BB4D6004A880093),
  (.barr ⟨33, 68, 0, 0, 3, true, 0xA6, 5, true, 6, 0⟩, 4, 0x0DB4D60000884297),
  (.bwait ⟨33, 69, 37, 0, 3, true, 0xA6, 5, true, 4, 1⟩, 4, 0x19B4D6004A8A429B),
  (.barw ⟨33, 68, 0, 0, 3, true, 0xA6, 5, true, 7, 0⟩, 4, 0x0FB4D6000088429F),
  (.btestp ⟨7, 68, 37, 0, 3, true, 0xA6, 5, true, 5, 0⟩, 4, 0x0BB4D6004A880EA3),
  (.bdrop ⟨0, 68, 37, 0, 3, true, 0xA6, 5, true, 5, 0⟩, 4, 0x0BB4D6004A8800A7),
  (.tbar ⟨0, 0, 0, 15, 3, true, 0xA6, 5, true, 0, 0⟩, 4, 0x01B4D61E000000AB)] = true := by decide +kernel
theorem test_decode_queues : reads [
  (.qinit ⟨0, 68, 36, 0, 3, true, 0xA6, 5, true, 5, 0⟩, 4, 0x0BB4D600488800C3),
  (.enq ⟨0, 68, 33, 39, 3, true, 0xA6, 5, true, 6, 14⟩, 4, 0xEDB4D64E428800C7),
  (.deq ⟨33, 68, 0, 255, 3, true, 0xA6, 5, true, 6, 7⟩, 4, 0x7DB4D7FE008842CB),
  (.qstat ⟨33, 68, 15, 0, 3, true, 0xA6, 5, true, 4, 0⟩, 4, 0x09B4D6001E8842CF),
  (.qclose ⟨0, 68, 0, 0, 3, true, 0xA6, 5, true, 5, 0⟩, 4, 0x0BB4D600008800D3)] = true := by decide +kernel
theorem test_decode_pricker : reads [
  (.qldt ⟨0, 130, 133, 0, 3, true, 0xA6, 5, true, 0, 0⟩, 4, 0x01B4D6010B0400E3),
  (.qrnd ⟨33, 34, 35, 0, 3, true, 0xA6, 5, true, 0, 0⟩, 4, 0x01B4D600464442E7),
  (.qrndf ⟨33, 34, 35, 0, 3, true, 0xA6, 5, true, 0, 0⟩, 4, 0x01B4D600464442EB),
  (.qrnd2 ⟨32, 34, 35, 0, 3, true, 0xA6, 5, true, 0, 0⟩, 4, 0x01B4D600464440EF),
  (.qbern ⟨7, 34, 35, 37, 3, true, 0xA6, 5, true, 0, 0⟩, 4, 0x01B4D64A46440EF3)] = true := by decide +kernel
theorem test_decode_matrix : reads [
  (.last ⟨0, 15, 77, 31, 3, true, 0xA6, 5, true, 6, 0⟩, 4, 0x0DB4D63E9A1E0103),
  (.lswap ⟨0, 0, 0, 0, 3, true, 0xA6, 5, true, 0, 0⟩, 4, 0x01B4D60000000107),
  (.mstr ⟨23, 77, 35, 14, 3, true, 0xA6, 5, true, 5, 0⟩, 4, 0x0BB4D61C469A2F0B),
  (.mdrn ⟨36, 18, 35, 128, 3, true, 0xA6, 5, true, 4, 3⟩, 4, 0x39B4D7004624490F),
  (.mzero ⟨22, 0, 35, 0, 3, true, 0xA6, 5, true, 0, 2⟩, 4, 0x21B4D60046002D13),
  (.mstat ⟨34, 0, 0, 0, 3, true, 0xA6, 5, true, 0, 0⟩, 4, 0x01B4D60000004517),
  (.twalk ⟨133, 134, 137, 4, 3, true, 0xA6, 5, true, 0, 0⟩, 4, 0x01B4D609130D0B1B),
  (.twnext ⟨36, 35, 0, 0, 3, true, 0xA6, 5, true, 0, 14⟩, 4, 0xE1B4D6000046491F),
  (.twdone ⟨0, 35, 0, 0, 3, true, 0xA6, 5, true, 0, 0⟩, 4, 0x01B4D60000460123)] = true := by decide +kernel
theorem test_decode_fabric_and_system : reads [
  (.hstep ⟨33, 35, 0, 0, 3, true, 0xA6, 5, true, 0, 0⟩, 4, 0x01B4D60000464343),
  (.hread ⟨36, 35, 0, 0, 3, true, 0xA6, 5, true, 0, 0⟩, 4, 0x01B4D60000464947),
  (.col ⟨33, 34, 0, 0, 3, true, 0xA6, 5, true, 0, 0⟩, 4, 0x01B4D6000044434B),
  (.cwait ⟨36, 34, 0, 39, 3, true, 0xA6, 5, true, 0, 0⟩, 4, 0x01B4D64E0044494F),
  (.slotq ⟨33, 34, 35, 0, 3, true, 0xA6, 5, true, 0, 0⟩, 4, 0x01B4D60046444353),
  (.gettime ⟨34, 36, 0, 0, 3, true, 0xA6, 5, true, 0, 0⟩, 4, 0x01B4D60000484557),
  (.assert ⟨0, 130, 0, 0, 3, true, 0xA6, 5, true, 0, 0⟩, 4, 0x01B4D60001040163),
  (.brk ⟨0, 0, 0, 197, 3, true, 0xA6, 5, true, 0, 0⟩, 4, 0x01B4D78A00000167),
  (.rtrap ⟨0, 0, 0, 0, 3, true, 0xA6, 5, true, 0, 1⟩, 4, 0x11B4D6000000016B),
  (.idemb ⟨0, 0, 0, 0, 3, true, 0xA6, 5, true, 0, 0⟩, 4, 0x01B4D6000000016F),
  (.ideme ⟨0, 0, 0, 0, 3, true, 0xA6, 5, true, 0, 0⟩, 4, 0x01B4D60000000173),
  (.launch ⟨33, 34, 0, 0, 3, true, 0xA6, 5, true, 0, 0⟩, 4, 0x01B4D60000444377),
  (.ctxr ⟨34, 0, 0, 7, 3, true, 0xA6, 5, true, 0, 0⟩, 4, 0x01B4D60E0000457B),
  (.ctxw ⟨0, 33, 0, 11, 3, true, 0xA6, 5, true, 0, 0⟩, 4, 0x01B4D6160042017F)] = true := by decide +kernel

/-! ### Small states -/

/-- A grid of one team of one group of one lane, with a handler. -/
def grid1 : Grid :=
  { Grid.zero with
    root := programRoot, entry := programBase, handler := programBase + 4096, status := programBase + 65536, nteams := 1, shape := 1, regs := 128,
    fmt := [(1, 1), (2, 2), (3, 0x23), (4, 0xC01), (5, 0x201), (6, 0x223)], localSize := 65536, nextTeam := 1, liveTeams := 1, first := true, contexts := [(0, 0)] }
/-- A running lane at the program. -/
def lane1 : Lane := { Lane.zero with pc := BitVec.ofNat 64 programBase }
/-- A team of one group of the given lanes. -/
def team1 (ls : List (Nat × Lane)) : Team :=
  { Team.zero with grid := 1, phase := .running, tag := 1, gate := true, groups := [(0, { Group.zero with lanes := ls })] }
/-- The lane that issues. -/
def r0 : LaneRef := ⟨1, 0, 0⟩
/-- A ready package with one team of the given lanes, all of which issue, 4 halfwords at the program. -/
def pack (ls : List Nat) : State :=
  { State.reset.placeTables with
    boot := .ready, ready := true, cycle := 100, now := 100000, nextKey := 8, nextGrid := 2, grids := [(1, grid1)],
    teams := [(1, team1 (ls.map (fun l => (l, lane1))))],
    tlb := [{ grid := 1, va := programBase, size := 2 ^ 30, pte := programBase + 31 }],
    cur := { team := 1, lanes := ls.map (fun l => ⟨1, 0, l⟩), formation := false, pc := BitVec.ofNat 64 programBase, len := 4, insn := 0, num := 7 } }
/-- One lane issues alone. -/
def one : State := pack [0]
/-- Two lanes issue together. -/
def two : State := pack [0, 1]
/-- Three lanes issue together. -/
def three : State := pack [0, 1, 2]
/-- The same for an instruction of 2 halfwords. -/
def short (s : State) : State := { s with cur := { s.cur with len := 2 } }
/-- With registers of lane 0 and of its group set. -/
def regs (s : State) (ws : List (Nat × Word)) : State := s.setRegs r0 ws
/-- With lane 0 changed. -/
def lane0 (s : State) (f : Lane → Lane) : State := s.modLane r0 f
/-- With the team changed. -/
def inTeam (s : State) (f : Team → Team) : State := s.modTeam 1 f
/-- With the grid changed. -/
def inGrid (s : State) (f : Grid → Grid) : State := s.setGrid 1 (f (s.grid 1))
/-- The next state. -/
def after (o : Host.Outcome State Fault Refusal) : State := match o with | .next t => t | .fault _ => State.reset | .refused _ => State.reset

/-! ### What a step left, as tests -/

/-- Physical memory and every region are as they were. -/
def kept (s t : State) : Bool := t.mem == s.mem && s.teams.all (fun e => (t.team e.1).localMem == e.2.localMem)
/-- Bytes have been stored at a physical address and nowhere else. -/
def stored (s t : State) (pa : Nat) (bs : List Byte) : Bool :=
  t.mem == memSetN s.mem pa bs && s.teams.all (fun e => (t.team e.1).localMem == e.2.localMem)
/-- Bytes have been stored in the team's region and nowhere else. -/
def storedLocal (s t : State) (off : Nat) (bs : List Byte) : Bool :=
  t.mem == s.mem && (t.team 1).localMem == memSetN (s.team 1).localMem off bs
/-- An operation of lane 0 with these results is in flight and the lane has gone on. -/
def done (s t : State) (x : XForm) (ws : List (Nat × Word)) (ps : List (Nat × Bool)) : Bool :=
  t.ops.any (fun e => e.2.lane == r0 && e.2.slot == slotOf x && e.2.writes == ws && e.2.preds == ps && e.2.wait == .ready && e.2.late == none)
    && t.lane r0 == { ((s.lane r0).slotRaised x).passed s with sig := (t.lane r0).sig, seen := (t.lane r0).seen, fenced := (t.lane r0).fenced }
/-- Lane 0 is parked with a fault at its instruction. -/
def parked (s t : State) (code detail addr : Nat) : Bool :=
  t.lane r0 == { s.lane r0 with parked := true, faultCode := code, staged := some (s.faultHere code detail addr, false), cond := .running, away := none, back := none }
    && kept s t
/-- Lane 0 is held in a blocking instruction. -/
def heldAs (s t : State) (h : Hold) : Bool := t.lane r0 == { (s.lane r0).slotRaised h.x with cond := .held h }

/-! ### The step, lanes, guards and registers -/

/-- ADDI v1, v0, 5 (op7 0x30, d7 1, imm9 5) placed for fetching. -/
def placed : State := State.reset.withFetchWord 32 (0x30 * 2 ^ 25 + 1 * 2 ^ 18 + 5 * 4 + 1)
/-- The turn of StepRunsDecoded: the placed group issues what its bytes decode to. -/
theorem witness_StepRunsDecoded : placed.boot ≠ .failed ∧ placed.turns = [.issue 1 0]
    ∧ ({ placed with turns := [] } : State).turnPlace (.issue 1 0) = some (0, 0)
    ∧ (({ placed with turns := [] } : State).choice 0 0).map (fun e => (e.1, e.2.lanes.length, e.2.len, decide e.2.lanes.Nodup)) =
      some (.issue 1 0, 32, 2, true) := by decide +kernel
/-- With no turn named and no event due, the default policy picks the same subset. -/
theorem witness_StepRunsDecoded_default : ({ placed with turns := [] } : State).ownMove = none
    ∧ (({ placed with turns := [] } : State).pick).map Prod.fst = some (.issue 1 0) := by decide +kernel
theorem test_step_addi : (match step placed with
    | .next t => decide ((t.reg ⟨1, 0, 31⟩ 1).toNat = 5 ∧ (t.lane ⟨1, 0, 31⟩).pc.toNat = programBase + 4 ∧ t.mem = placed.mem)
    | _ => false) = true := by decide +kernel
/-- A word of a reserved op7 of the 64-bit map (0x60) is placed, and its lanes park with ILLEGAL_INSTRUCTION. -/
def placedBad : State := State.reset.withFetchWord 64 (0x60 * 4 + 3)
theorem witness_StepStops : (({ placedBad with turns := [] } : State).choice 0 0).map (fun e => (e.1, e.2.len, (decodeBits e.2.len e.2.insn).isOk)) =
    some (.issue 1 0, 4, false) ∧ (∀ l, l < 32 → placedBad.guardLost 0 ⟨1, 0, l⟩ = false ∧ placedBad.guard 0 false ⟨1, 0, l⟩ = true
      ∧ (placedBad.lane ⟨1, 0, l⟩).inHandler = false) := by decide +kernel
/-- A formation that does not exist issues nothing: only the list of turns changes. -/
theorem witness_StepStops_turn : ({ placed with turns := [] } : State).turnPlace (.issue 1 0) = some (0, 0)
    ∧ (({ placed with turns := [], issuedNow := [(0, 0)] } : State).choice 0 0).isNone = true := by decide +kernel
theorem test_step_illegal : (match step placedBad with
    | .next t => decide ((t.lane ⟨1, 0, 3⟩).faultCode = 1 ∧ (t.lane ⟨1, 0, 3⟩).parked = true ∧ (t.lane ⟨1, 0, 3⟩).pc.toNat = programBase)
    | _ => false) = true := by decide +kernel
/-- A failed bring-up still answers a host's read, with bit 1 of STATUS and the die, and takes no other event. -/
def dead (us : List Turn) : State := { State.reset with boot := .failed, bootFail := some 2, turns := us }
theorem test_step_failed : (match step (dead []) with | .next t => decide (t = dead []) | _ => false) = true
    ∧ (match step (dead [.event .ready]) with | .next t => decide (t = dead []) | _ => false) = true
    ∧ (match step (dead [.hostRead 0 4]) with | .next t => t.outgoing == [.aperture [0x22, 0, 0, 0]] | _ => false) = true
    ∧ (match step (dead [.powerOff]) with | .next t => decide (t.boot = .off) | _ => false) = true := by decide +kernel
/-- The premises of StepKeepsMemory and StepKeepsRegions hold in a state that takes a step. -/
theorem witness_StepKeepsMemory : Memory.wf placed.mem = true ∧ (∀ e ∈ placed.teams, Memory.wf e.2.localMem = true) ∧ placed.images = []
    ∧ (match step placed with | .next _ => true | _ => false) = true := by decide +kernel
theorem witness_StepKeepsRegions : placed.regionsKept ∧ (match step placed with | .next _ => true | _ => false) = true :=
  ⟨by unfold State.regionsKept; and_intros <;> decide +kernel, by decide +kernel⟩
theorem witness_DecodedWordsEncodeBack : 0x06241031 < 2 ^ (16 * 2) ∧ lengthOf 0x06241031 = 2
    ∧ (match decodeBits 2 0x06241031 with | .ok _ => true | _ => false) = true := by decide +kernel
theorem witness_DecodeEncodeRoundTrip : Instr.wf (.mulhi ⟨9, 2, 3, 0⟩) = true ∧ encode (.mulhi ⟨9, 2, 3, 0⟩) = some (2, 0x06241031)
    ∧ 0x06241031 < 2 ^ 32 ∧ lengthOf 0x06241031 = 2 ∧ (match decodeBits 2 0x06241031 with | .ok i => i == .mulhi ⟨9, 2, 3, 0⟩ | _ => false) = true := by
  decide +kernel
theorem witness_LanesAndRegisters : two.cur.lanes.Nodup ∧ (∀ r ∈ two.cur.lanes, (Tab.find two.teams r.team).isSome = true)
    ∧ (⟨1, 0, 2⟩ : LaneRef) ∉ two.cur.lanes := by decide +kernel
/-- A branch and a store under (!p0) pass; so does a join whose predicate p1 is false in every lane. -/
theorem witness_FalseGuardsPass : guardOf (.bra ⟨0, true, 5⟩) = some (0, true) ∧ Undisturbed (.bra ⟨0, true, 5⟩) 0 true (short two)
    ∧ (short two).active 0 true = [] ∧ guardOf (.join ⟨3, 0, 1, false⟩) = some (1, false)
    ∧ Undisturbed (.join ⟨3, 0, 1, false⟩) 1 false (short two) ∧ (short two).active 1 false = [] := by
  unfold Undisturbed; and_intros <;> decide +kernel
/-- A lane outside a handler with and without a handler of the launch, and one in handler. -/
theorem witness_FaultsTaken : (Tab.find two.teams r0.team).isSome = true ∧ (two.lane r0).inHandler = false ∧ (two.gridOf 1).handler ≠ 0
    ∧ ((inGrid two (fun g => { g with handler := 0 })).gridOf 1).handler = 0 ∧ (two.gridOf 1).stop = none
    ∧ ((lane0 two (fun x => { x with trap := { x.trap with cause := 256 } })).lane r0).inHandler = true := by decide +kernel
/-- A second stopping event of the same cycle in an earlier lane takes the record over. -/
theorem test_stop_record : (let s := inGrid two (fun g => { g with handler := 0 })
    let t := (s.raise ⟨1, 0, 1⟩ 4 0 9).raise ⟨1, 0, 0⟩ 6 0 0
    (t.gridOf 1).stop.map (fun i => (i.cause, i.where_, i.count))) = some (6, 0, 2) := by decide +kernel

/-! ### Integer, predicate, compact and floating instructions -/

/-- v1 is 0x80000005, v2 is 7, v3 is 0x11223344. -/
def ints : State := short (regs two [(1, 0x80000005#32), (2, 7#32), (3, 0x11223344#32), (129, 9#32), (130, 4#32)])
/-- v3 after the instruction, in lane 0. -/
def gives (rows : List (Instr × Word)) : Bool := rows.all (fun e => (after (exec e.1 ints)).reg r0 3 == e.2)
/-- By R97 to R101 and R111, worked out by hand. -/
theorem test_integers : gives [
  (.add ⟨3, 1, 2, 0⟩, 0x8000000C#32), (.sub ⟨3, 2, 1, 0⟩, 0x80000002#32), (.mul ⟨3, 1, 2, 0⟩, 0x80000023#32), (.mulhi ⟨3, 1, 2, 0⟩, 0xFFFFFFFC#32),
  (.mulhiu ⟨3, 1, 2, 0⟩, 3#32), (.and ⟨3, 1, 2, 0⟩, 5#32), (.or ⟨3, 1, 2, 0⟩, 0x80000007#32), (.xor ⟨3, 1, 2, 0⟩, 0x80000002#32),
  (.andn ⟨3, 1, 2, 0⟩, 0x80000000#32), (.orn ⟨3, 1, 2, 0⟩, 0xFFFFFFFD#32), (.shl ⟨3, 1, 2, 0⟩, 0x280#32), (.shl ⟨3, 2, 1, 0⟩, 0#32),
  (.shrl ⟨3, 1, 2, 0⟩, 0x1000000#32), (.shra ⟨3, 1, 2, 0⟩, 0xFF000000#32), (.shra ⟨3, 1, 1, 0⟩, 0xFFFFFFFF#32), (.rotl ⟨3, 1, 2, 0⟩, 0x2C0#32),
  (.rotr ⟨3, 1, 2, 0⟩, 0x0B000000#32), (.min ⟨3, 1, 2, 0⟩, 0x80000005#32), (.max ⟨3, 1, 2, 0⟩, 7#32), (.minu ⟨3, 1, 2, 0⟩, 7#32),
  (.maxu ⟨3, 1, 2, 0⟩, 0x80000005#32), (.abs ⟨3, 1, 0, 0⟩, 0x7FFFFFFB#32), (.addsat ⟨3, 1, 1, 0⟩, 0x80000000#32), (.subsat ⟨3, 2, 1, 0⟩, 0x7FFFFFFF#32),
  (.popc ⟨3, 1, 0, 0⟩, 3#32), (.clz ⟨3, 2, 0, 0⟩, 29#32), (.ctz ⟨3, 1, 0, 0⟩, 0#32), (.brev ⟨3, 1, 0, 0⟩, 0xA0000001#32),
  (.bfx ⟨3, 1, 2, 0⟩, 0#32), (.bfi ⟨3, 1, 2, 0⟩, 0x11223344#32), (.permb ⟨3, 1, 2, 0⟩, 0x05050511#32), (.dp4a ⟨3, 1, 2, 1⟩, 0x1122324E#32),
  (.add ⟨3, 1, 2, 2⟩, 0x80000009#32)] = true := by decide +kernel
/-- The worked values of R100 and R101. -/
theorem test_bitfields :
    (after (exec (.bfx ⟨3, 1, 2, 0⟩) (short (regs one [(1, 0xF0A0#32), (2, 0x8808#32)])))).reg r0 3 = 0xFFFFFFF0#32
      ∧ (after (exec (.bfx ⟨3, 1, 2, 0⟩) (short (regs one [(1, 0x80000000#32), (2, 0x901C#32)])))).reg r0 3 = 0xFFFFFFF8#32
      ∧ (after (exec (.bfi ⟨3, 1, 2, 0⟩) (short (regs one [(1, 5#32), (2, 0x410#32), (3, 0xAAAAAAAA#32)])))).reg r0 3 = 0xAAA5AAAA#32
      ∧ (after (exec (.permb ⟨3, 1, 2, 0⟩) (short (regs one [(1, 0x44332211#32), (2, 0x7C40#32), (3, 0x88776655#32)])))).reg r0 3 = 0x88005511#32 := by
  decide +kernel
/-- A per-lane, an s-register and a uniform form; and no present lane. -/
theorem witness_IntegerForms : Undisturbed (.add ⟨3, 1, 2, 0⟩) 0 false ints ∧ Undisturbed (.add ⟨3, 1, 2, 2⟩) 0 false ints
    ∧ Undisturbed (.add ⟨3, 1, 2, 3⟩) 0 false ints ∧ ints.present.getLast? = some ⟨1, 0, 1⟩
    ∧ Undisturbed (.add ⟨3, 1, 2, 3⟩) 0 false (short (pack [])) ∧ (short (pack [])).present = [] := by
  unfold Undisturbed; and_intros <;> decide +kernel
theorem test_uniform : (let t := after (exec (.add ⟨3, 1, 2, 3⟩) ints); (t.reg r0 131, t.reg r0 3)) = (13#32, 0x11223344#32) := by decide +kernel
/-- The worked sum and difference of R112, ADD64 with a carry and LEA at the end of the fabric window (R103). -/
theorem test_pairs :
    (let s := short (regs one [(2, 0x7D0003E8#32), (3, 0x000FA000#32), (4, 0xFF7FFFFA#32), (5, 0x7FFFF3FF#32)])
     ((after (exec (.radd ⟨0, 2, 4, 0⟩) s)).regRun r0 0 2, (after (exec (.radd ⟨0, 2, 4, 1⟩) s)).regRun r0 0 2)) = (0x000F8C007C6003E3, 0x000FB4007DA003ED)
      ∧ (let s := short (regs one [(2, 0xFFFFFFFF#32), (3, 0x01003FFF#32), (4, 1#32), (5, 0#32)])
         ((after (exec (.add64 ⟨0, 2, 4, 0⟩) s)).regRun r0 0 2, (after (exec (.lea ⟨0, 2, 4, 0⟩) s)).regRun r0 0 2,
          (after (exec (.sub64 ⟨0, 4, 2, 0⟩) s)).regRun r0 0 2)) = (0x0100400000000000, 0x0100000000000000, 0xFEFFC00000000002) := by decide +kernel
/-- MOVI into a pair of v-registers, into an s-register under a guard, and into register 255. -/
theorem witness_PairAndImmediateForms : Undisturbed (.add64 ⟨4, 2, 2, 0⟩) 0 false ints ∧ Undisturbed (.sub64 ⟨4, 2, 2, 3⟩) 0 false ints
    ∧ Undisturbed (.addi ⟨3, 1, 0x1FF⟩) 0 false ints ∧ Undisturbed (.movi ⟨4, 0, false, 1, 0x80000000⟩) 0 false two
    ∧ Undisturbed (.movi ⟨132, 0, false, 3, 7⟩) 0 false two ∧ two.active 0 false = [⟨1, 0, 0⟩, ⟨1, 0, 1⟩]
    ∧ Undisturbed (.movi ⟨255, 0, false, 0, 7⟩) 0 false two := by
  unfold Undisturbed; and_intros <;> decide +kernel
theorem test_immediates : (after (exec (.addi ⟨3, 1, 0x1FF⟩) ints)).reg r0 3 = 0x80000004#32 ∧ (after (exec (.muli ⟨3, 2, 0x1FE⟩) ints)).reg r0 3 = 0xFFFFFFF2#32
    ∧ (after (exec (.andi ⟨3, 1, 0x1F0⟩) ints)).reg r0 3 = 0x80000000#32 ∧ (after (exec (.ori ⟨3, 2, 8⟩) ints)).reg r0 3 = 15#32
    ∧ (after (exec (.xori ⟨3, 2, 0x1FF⟩) ints)).reg r0 3 = 0xFFFFFFF8#32 ∧ (after (exec (.shli ⟨3, 2, 30⟩) ints)).reg r0 3 = 0xC0000000#32
    ∧ (after (exec (.shrli ⟨3, 1, 31⟩) ints)).reg r0 3 = 1#32 ∧ (after (exec (.shrai ⟨3, 1, 31⟩) ints)).reg r0 3 = 0xFFFFFFFF#32
    ∧ (after (exec (.rotli ⟨3, 1, 4⟩) ints)).reg r0 3 = 0x58#32 ∧ (after (exec (.mini ⟨3, 2, 0x1FF⟩) ints)).reg r0 3 = 0xFFFFFFFF#32
    ∧ (after (exec (.maxi ⟨3, 1, 6⟩) ints)).reg r0 3 = 6#32
    ∧ (let t := after (exec (.movi ⟨4, 0, false, 1, 0x80000000⟩) two); (t.reg ⟨1, 0, 1⟩ 4, t.reg ⟨1, 0, 1⟩ 5)) = (0x80000000#32, 0xFFFFFFFF#32)
    ∧ (after (exec (.movi ⟨132, 0, false, 3, 7⟩) two)).reg r0 133 = 7#32 := by decide +kernel
/-- p3 after a compare of lane 0: v1 against v2, unsigned and signed. -/
theorem test_compares : ((after (exec (.cmplt ⟨3, 1, 2, 0⟩) ints)).lane r0).pred 3 = true ∧ ((after (exec (.cmpltu ⟨3, 1, 2, 0⟩) ints)).lane r0).pred 3 = false
    ∧ ((after (exec (.cmple ⟨3, 1, 1, 0⟩) ints)).lane r0).pred 3 = true ∧ ((after (exec (.cmpleu ⟨3, 2, 1, 0⟩) ints)).lane r0).pred 3 = true
    ∧ ((after (exec (.cmpeqi ⟨3, 2, 7⟩) ints)).lane r0).pred 3 = true ∧ ((after (exec (.cmplti ⟨3, 1, 0x100⟩) ints)).lane r0).pred 3 = true
    ∧ ((after (exec (.cmpltui ⟨3, 2, 0x1FF⟩) ints)).lane r0).pred 3 = true ∧ ((after (exec (.cmpne ⟨0, 1, 1, 0⟩) ints)).lane r0).pred 0 = true
    ∧ ((after (exec (.pnot ⟨3, 0, 0, 0⟩) ints)).lane r0).pred 3 = false ∧ ((after (exec (.por ⟨3, 0, 1, 0⟩) ints)).lane r0).pred 3 = true
    ∧ ((after (exec (.pxor ⟨3, 0, 0, 0⟩) ints)).lane r0).pred 3 = false ∧ ((after (exec (.pand ⟨3, 0, 0, 0⟩) ints)).lane r0).pred 3 = true
    ∧ ((after (exec (.v2p ⟨0, 3, 0, 0⟩) ints)).lane r0).p = 0x45#8 ∧ (after (exec (.p2v ⟨3, 0, 0, 0⟩) ints)).reg r0 3 = 1#32
    ∧ (after (exec (.sel ⟨3, 0, 2, 1⟩) ints)).reg r0 3 = 0x11223344#32 ∧ (after (exec (.sel ⟨3, 1, 2, 1⟩) ints)).reg r0 3 = 7#32
    ∧ (after (exec (.mov ⟨5, 0, 3, 1⟩) (regs ints [(3, 6#32)]))).reg r0 133 = 0#32 := by decide +kernel
theorem witness_PredicatesAndMoves : (∀ i ∈ ([.cmpeq ⟨3, 1, 2, 2⟩, .fcmpun ⟨0, 1, 2, 0⟩, .pnot ⟨3, 1, 0, 0⟩, .cmpltui ⟨3, 1, 0x1FF⟩] : List Instr),
      (predResult ints r0 i).isSome = true) ∧ Undisturbed (.cmpeq ⟨3, 1, 2, 2⟩) 0 false ints ∧ Undisturbed (.sel ⟨3, 1, 2, 1⟩) 0 false ints
    ∧ Undisturbed (.mov ⟨3, 0, 2, 2⟩) 0 false ints ∧ Undisturbed (.mov ⟨3, 0, 2, 1⟩) 0 false ints ∧ Undisturbed (.mov ⟨3, 0, 2, 3⟩) 0 false ints
    ∧ Undisturbed (.p2v ⟨3, 0, 0, 0⟩) 0 false ints ∧ Undisturbed (.v2p ⟨0, 3, 0, 0⟩) 0 false ints := by
  unfold Undisturbed; and_intros <;> decide +kernel
/-- The compact forms, with v1 as both destination and first source. -/
def tiny : State := { regs two [(1, 0x80000005#32), (2, 7#32)] with cur := { two.cur with len := 1 } }
theorem test_compact : ([(.cMov ⟨1, 2⟩, 7#32), (.cMovImm ⟨1, 0x1F⟩, 0xFFFFFFFF#32), (.cAdd ⟨1, 2⟩, 0x8000000C#32), (.cAddImm ⟨1, 0x10⟩, 0x7FFFFFF5#32),
    (.cSub ⟨1, 2⟩, 0x7FFFFFFE#32), (.cSubImm ⟨1, 0x10⟩, 0x80000015#32), (.cMul ⟨1, 2⟩, 0x80000023#32), (.cMulImm ⟨1, 2⟩, 10#32),
    (.cAnd ⟨1, 2⟩, 5#32), (.cAndImm ⟨1, 0x10⟩, 0x80000000#32), (.cOr ⟨1, 2⟩, 0x80000007#32), (.cOrImm ⟨1, 2⟩, 0x80000007#32),
    (.cXor ⟨1, 2⟩, 0x80000002#32), (.cXorImm ⟨1, 0x1F⟩, 0x7FFFFFFA#32), (.cShl ⟨1, 2⟩, 0x280#32), (.cShlImm ⟨1, 31⟩, 0x80000000#32),
    (.cShrl ⟨1, 2⟩, 0x1000000#32), (.cShrlImm ⟨1, 31⟩, 1#32), (.cShra ⟨1, 2⟩, 0xFF000000#32), (.cShraImm ⟨1, 31⟩, 0xFFFFFFFF#32)]
      : List (Instr × Word)).all (fun e => (after (exec e.1 tiny)).reg r0 1 == e.2) = true := by decide +kernel
theorem witness_CompactForms : Undisturbed (.cShraImm ⟨31, 31⟩) 0 false tiny ∧ Undisturbed (.cFadd ⟨1, 2⟩) 0 false tiny :=
  by unfold Undisturbed; and_intros <;> decide +kernel
/-- v1 is 1.5, v2 is -0.25, v3 is 2. -/
def floats : State := short (regs two [(1, 0x3FC00000#32), (2, 0xBE800000#32), (3, 0x40000000#32), (4, 0x7F800000#32), (5, 1#32)])
theorem test_floats : ([(.fadd ⟨3, 1, 2, 0⟩, 0x3FA00000#32), (.fsub ⟨3, 1, 2, 0⟩, 0x3FE00000#32), (.fmul ⟨3, 1, 2, 0⟩, 0xBEC00000#32),
    (.fmac ⟨3, 1, 2, 0⟩, 0x3FD00000#32), (.fmin ⟨3, 1, 2, 0⟩, 0xBE800000#32), (.fmax ⟨3, 1, 2, 0⟩, 0x3FC00000#32), (.fabs ⟨3, 2, 0, 0⟩, 0x3E800000#32),
    (.fneg ⟨3, 1, 0, 0⟩, 0xBFC00000#32), (.fdiv ⟨3, 1, 2, 0⟩, 0xC0C00000#32), (.ffloor ⟨3, 2, 0, 0⟩, 0xBF800000#32), (.fceil ⟨3, 1, 0, 0⟩, 0x40000000#32),
    (.frint ⟨3, 1, 0, 0⟩, 0x40000000#32), (.ftrunc ⟨3, 1, 0, 0⟩, 0x3F800000#32), (.fclass ⟨3, 2, 0, 0⟩, 2#32), (.fscale ⟨3, 1, 5, 0⟩, 0x40400000#32),
    (.fgetexp ⟨3, 2, 0, 0⟩, 0xFFFFFFFE#32)] : List (Instr × Word)).all (fun e => (after (exec e.1 floats)).reg r0 3 == e.2) = true := by decide +kernel
theorem test_float_flags : (let t := after (exec (.fmul ⟨3, 4, 0, 0⟩) floats); decide (t.reg r0 3 = 0x7FC00000#32 ∧ (t.team 1).terr = 64#7)) = true := by
  decide +kernel
theorem witness_FloatForms : Undisturbed (.fadd ⟨3, 1, 2, 0⟩) 0 false floats ∧ Undisturbed (.fmac ⟨3, 1, 2, 3⟩) 0 false floats
    ∧ Undisturbed (.fexp2 ⟨3, 1, 0, 0⟩) 0 false floats ∧ Undisturbed (.hadd2 ⟨3, 1, 2, 1⟩) 0 false floats
    ∧ floats.present.getLast? = some ⟨1, 0, 1⟩ := by
  unfold Undisturbed; and_intros <;> decide +kernel
/-- 1.5 and -0.25 add, subtract, multiply and divide within the range; 2^127 times 4 leaves it; 1 and -1 cancel; each target of a conversion has its slot. -/
theorem witness_FloatOrderByBits :
    ((codeFinite 23 8 0x3FC00000 ∧ codeFinite 23 8 0xBE800000 ∧ codeFinite 23 8 0x7F000000 ∧ codeFinite 23 8 0x40800000)
      ∧ codeValue 23 8 0x3FC00000 + codeValue 23 8 0xBE800000 = 5 / 4 ∧ (5 / 4 : ℚ) < overflowAt 23 8
      ∧ overflowAt 23 8 ≤ |codeValue 23 8 0x7F000000 * codeValue 23 8 0x40800000| ∧ codeValue 23 8 0x3F800000 + codeValue 23 8 0xBF800000 = 0)
    ∧ (∀ e ∈ [((0 : Nat), (23 : Nat), (8 : Nat)), (1, 10, 5), (2, 7, 8)],
        slotFmt (BitVec.ofNat 32 e.1) = e.1 ∧ slotFtz (BitVec.ofNat 32 e.1) = false ∧ slotRnd (BitVec.ofNat 32 e.1) = 0)
    ∧ |codeValue 23 8 0x3FC00000| < overflowAt 10 5 := by
  refine ⟨?_, by decide +kernel, ?_⟩ <;> norm_num [codeFinite, codeValue, overflowAt]

/-! ### Conversion -/

/-- v1 is 1.5 in lane 0 and 2^40 in lane 1. -/
def convs : State := (regs two [(1, 0x3FC00000#32)]).setReg ⟨1, 0, 1⟩ 1 0x53800000#32
/-- In deterministic mode with two groups. -/
def detTwo (s : State) : State := inGrid s (fun g => { g with flags := 1, shape := 64 + 2 ^ 16 })
/-- CVT to FP16 under TRAP: lane 0 completes and lane 1 traps; CVTPK, FMA and CVTQ into v- and s-registers; DPH; and DET_VIOLATION. -/
theorem witness_Conversions : (∀ r ∈ convs.present, r.team = convs.cur.team ∧ (Tab.find convs.teams r.team).isSome = true)
    ∧ Undisturbed (.cvt (xs 3 1 0 0 4 0)) 0 false convs
    ∧ ((convertCode (convs.gridOf 1 |>.slot 4) 0 0 0 0x3FC00000).trap = false ∧ (convertCode (convs.gridOf 1 |>.slot 4) 0 1 0 0x53800000).trap = true)
    ∧ (∀ r ∈ convs.active 0 false, (convs.lane r).inHandler = false)
    ∧ Undisturbed (.cvtpk (xs 3 1 1 0 1 0)) 0 false convs ∧ Undisturbed (.fma (xs 3 1 1 1 2 0)) 0 false convs
    ∧ Undisturbed (.cvtq (xs 3 1 4 0 3 0)) 0 false convs ∧ slotRnd (convs.gridOf 1 |>.slot 3) ≠ 4
    ∧ Undisturbed (.cvtq (xs 3 1 130 0 6 0)) 0 false convs ∧ slotRnd (convs.gridOf 1 |>.slot 6) = 4 ∧ (convs.gridOf 1).det = false
    ∧ Undisturbed (.dph (xs 3 1 0 0 0 1)) 0 false convs
    ∧ Undisturbed (.cvtq (xs 3 1 130 0 6 0)) 0 false (detTwo convs) ∧ Undisturbed (.dph (xs 3 1 0 0 0 1)) 0 false (detTwo convs)
    ∧ ((detTwo convs).gridOf 1).det = true ∧ ((detTwo convs).gridOf 1).ngroups ≠ 1 := by
  unfold Undisturbed; and_intros <;> decide +kernel
/-- 1.5 is 0x3E00 in FP16 (R33), and 2^40 traps. -/
theorem test_cvt : (let t := after (exec (.cvt (xs 3 1 0 0 4 0)) convs)
    decide (done convs t (xs 3 1 0 0 4 0) [(3, 0x3E00#32)] [] ∧ (t.lane ⟨1, 0, 1⟩).faultCode = 0x17 ∧ t.ops.length = 1)) = true := by decide +kernel
/-- 1.5 × 1.5 + 1.5 is 3.75, 0x4070 in BF16. -/
theorem test_fma : done convs (after (exec (.fma (xs 3 1 1 1 2 0)) convs)) (xs 3 1 1 1 2 0) [(3, 0x4070#32)] [] = true := by decide +kernel
theorem test_cvtpk : done (regs one [(1, 0x3FC00000#32), (2, 0xBE800000#32)]) (after (exec (.cvtpk (xs 3 1 2 0 1 0))
    (regs one [(1, 0x3FC00000#32), (2, 0xBE800000#32)]))) (xs 3 1 2 0 1 0) [(3, 0xB4003E00#32)] [] = true := by decide +kernel
/-- The block of R130's worked example, in its first three lanes and with 23.25 in the third place of amax: c is 0x7B. -/
def block : State := ((pack [0, 1, 31]).setReg ⟨1, 0, 1⟩ 1 0x3F400000#32).setReg ⟨1, 0, 31⟩ 1 0x41BA0000#32
theorem test_cvtq : ((after (exec (.cvtq (xs 3 1 130 0 3 0)) block)).ops.map (fun e => (e.2.writes, e.2.together))) =
    [([(3, 0#32)], true), ([(3, 0x54#32)], true), ([(3, 0x7C#32), (130, 0x7B#32)], true)] := by decide +kernel
theorem test_dph : (let t := after (exec (.dph (xs 3 1 0 0 0 1)) (inTeam (regs one [(1, 0x2A#32)]) (fun x => { x with dphase := 3 })))
    (t.ops.map (fun e => e.2.writes), (t.team 1).dphase)) = ([[(3, 3#32)]], 10#5) := by decide +kernel
theorem test_det_violation : (let t := after (exec (.dph (xs 3 1 0 0 0 1)) (detTwo convs)); ((t.lane r0).faultCode, (t.lane ⟨1, 0, 1⟩).faultCode, t.ops.length)) =
    (0x19, 0x19, 0) := by decide +kernel

/-! ### Special registers, control flow, joins and cross-lane exchange -/

/-- Group 3 has written %dphase in this cycle, and an event has set bits 0 and 1 of %terr. -/
def rival : State := inTeam ints (fun x => { x with swrs := [(12, 100, 3)], terr := 0x7F, terrSet := 3, terrAt := 100 })
/-- SRD of a pair, uniform; SWR of each register; deterministic mode forbids %dphase alone; and helper lanes only. -/
theorem witness_SpecialRegisters : Undisturbed (.srd ⟨4, 8, 0, 0⟩) 0 false ints ∧ Undisturbed (.srd ⟨4, 9, 0, 3⟩) 0 false ints
    ∧ Undisturbed (.swr ⟨12, 1, 0, 0⟩) 0 false ints ∧ Undisturbed (.swr ⟨13, 1, 0, 0⟩) 0 false ints ∧ Undisturbed (.swr ⟨14, 2, 0, 3⟩) 0 false ints
    ∧ (ints.gridOf 1).det = false ∧ (ints.workers ints.present).getLast? = some ⟨1, 0, 1⟩
    ∧ Undisturbed (.swr ⟨12, 1, 0, 0⟩) 0 false (short (lane0 one (fun x => { x with helper := true })))
    ∧ (let s := short (lane0 one (fun x => { x with helper := true })); s.workers s.present = [])
    ∧ Tab.find (ints.team 1).swrs 12 = none ∧ Undisturbed (.swr ⟨12, 1, 0, 0⟩) 0 false rival ∧ rival.cur.team = 1
    ∧ Tab.find (rival.team 1).swrs 12 = some (rival.cycle, 3) := by
  unfold Undisturbed; and_intros <;> decide +kernel
theorem test_special : (after (exec (.srd ⟨4, 0, 0, 0⟩) ints)).reg ⟨1, 0, 1⟩ 4 = 1#32
    ∧ ((after (exec (.swr ⟨13, 2, 0, 0⟩) (inTeam ints (fun x => { x with terr := 0x7F })))).team 1).terr = 0x7F#7
    ∧ ((after (exec (.swr ⟨13, 2, 0, 0⟩) (inTeam (short (regs one [(2, 7#32)])) (fun x => { x with terr := 0x7F })))).team 1).terr = 0x78#7
    ∧ ((after (exec (.swr ⟨13, 2, 0, 0⟩) (regs rival [(2, 7#32)]))).team 1).terr = 0x7F#7
    ∧ (let s := inTeam (short (regs one [(2, 7#32)])) (fun x => { x with terr := 0x7F, terrSet := 3, terrAt := 100, swrs := [(12, 100, 3)] })
       (((after (exec (.swr ⟨13, 2, 0, 0⟩) s)).team 1).terr, ((after (exec (.swr ⟨12, 2, 0, 0⟩) s)).team 1).dphase)) = (0x7B#7, 0#5)
    ∧ (let t := after (exec (.srd ⟨4, 14, 0, 3⟩) (inTeam ints (fun x => { x with qseed := 0x100000007 }))); (t.reg r0 132, t.reg r0 133)) = (7#32, 1#32)
    ∧ ((after (exec (.swr ⟨14, 2, 0, 0⟩) (short (regs one [(2, 7#32), (3, 3#32)])))).team 1).qseed = 0x100000007#33 := by decide +kernel
/-- The links and targets: v2:v3 holds an odd address of the program. -/
def goes : State := short (regs two [(2, 0x40000101#32), (3, 0#32), (132, 0x40000200#32)])
theorem witness_Branches : Undisturbed (.bra ⟨1, true, 0x7FFEC⟩) 1 true goes ∧ Undisturbed (.call ⟨0, false, 0x3FFFF⟩) 0 false goes
    ∧ Undisturbed (.brx ⟨0, 0, 2, 0⟩) 0 false goes ∧ Undisturbed (.ret ⟨0, 0, 4, 2⟩) 0 false goes ∧ Undisturbed (.callx ⟨8, 0, 2, 0⟩) 0 false goes := by
  unfold Undisturbed; and_intros <;> decide +kernel
theorem test_branches : ((after (exec (.bra ⟨1, true, 0x7FFEC⟩) goes)).lane r0).pc = 0x3FFFFFD8#64
    ∧ ((after (exec (.bra ⟨1, false, 0x7FFEC⟩) goes)).lane r0).pc = 0x40000004#64
    ∧ (let t := after (exec (.call ⟨0, false, 6⟩) goes); ((t.lane r0).pc, t.reg r0 6, t.reg r0 7)) = (0x4000000C#64, 0x40000004#32, 0#32)
    ∧ ((after (exec (.brx ⟨0, 0, 2, 0⟩) goes)).lane r0).pc = 0x40000100#64 ∧ ((after (exec (.ret ⟨0, 0, 4, 2⟩) goes)).lane r0).pc = 0x40000200#64
    ∧ (let t := after (exec (.callx ⟨8, 0, 2, 0⟩) goes); ((t.lane r0).pc, t.reg r0 8)) = (0x40000100#64, 0x40000004#32) := by decide +kernel
/-- NOP, the yields, the waits; REFORM into a bin that fits, into a new bin, with 16 bins in use, and of a lane already there; HOME of an away
lane. -/
def bin1 : Bin := { core := 0, team := 1, pc := BitVec.ofNat 64 (programBase + 4), members := [⟨1, 1, 5⟩], formed := false, place := none }
def binned : State := { short one with bins := [(3, bin1)] }
theorem witness_PassingAndReform : Undisturbed .nop 0 false tiny ∧ Undisturbed .cYield 0 false tiny ∧ Undisturbed .waitAll 0 false tiny
    ∧ Undisturbed .yield 0 false ints ∧ Undisturbed (.wait ⟨0, 0, 0xFF⟩) 0 false ints
    ∧ Undisturbed .reform 0 false (detTwo ints) ∧ ((detTwo ints).gridOf 1).det = true
    ∧ Undisturbed .home 0 false ints ∧ (∀ r ∈ ints.present, (ints.lane r).away = none)
    ∧ Undisturbed .reform 0 false ints ∧ ints.cur.len = 2 ∧ (∀ r ∈ ints.present, (Tab.find ints.teams r.team).isSome = true)
    ∧ binned.present = [r0] ∧ Undisturbed .reform 0 false binned ∧ (binned.gridOf 1).det = false
    ∧ binned.bins = [] ++ (3, bin1) :: [] ∧ bin1.core = (binned.team 1).gcore ∧ bin1.team = 1 ∧ bin1.pc = (binned.lane r0).pc + 4 := by
  unfold Undisturbed; and_intros <;> decide +kernel
theorem test_reform : (let t := after (exec .reform binned); ((t.lane r0).away, t.bins.map (fun e => e.2.members))) = (some 3, [[r0, ⟨1, 1, 5⟩]])
    ∧ (let t := after (exec .reform (short one)); ((t.lane r0).away, t.bins.map Prod.fst)) = (some 8, [8])
    ∧ (let s : State := { short one with bins := (List.range 16).map (fun n => (n, { bin1 with pc := 8 })) }
       let t := after (exec .reform s); ((t.lane r0).away, (t.lane r0).pc == (s.lane r0).pc + 4, t.bins == s.bins)) = (none, true, true)
    ∧ (let s : State := { lane0 (short one) (fun x => { x with away := some 3 }) with bins := [(3, { bin1 with members := [r0] })] }
       ((after (exec .home s)).lane r0).away = none) := by decide +kernel
theorem test_waits : (let s := lane0 one (fun x => { x with sb := [(3, 1)] })
    (s.unready r0 2 0 (.ok (.wait ⟨0, 0, 8⟩)), s.unready r0 2 0 (.ok (.wait ⟨0, 0, 4⟩)), s.unready r0 1 0 (.ok .waitAll))) = (2, 0, 2) := by decide +kernel
/-- A lane that is a helper beside one that is none. -/
def helped : State := lane0 (short two) (fun x => { x with helper := true })
theorem witness_ExitAndTrap : Undisturbed .exit 0 false ints ∧ Undisturbed .cExit 0 false tiny ∧ Undisturbed (.trap ⟨0, 0, 0x1FF⟩) 0 false helped
    ∧ (∀ r ∈ helped.present, (Tab.find helped.teams r.team).isSome = true ∧ (helped.lane r).inHandler = false ∧ (helped.gridOf r.team).handler ≠ 0)
    ∧ helped.isHelper r0 = true ∧ helped.isHelper ⟨1, 0, 1⟩ = false := by
  unfold Undisturbed; and_intros <;> decide +kernel
theorem test_exit_trap : (let t := after (exec .exit ints); (t.group r0).exited) = 3#32
    ∧ (let t := after (exec (.trap ⟨0, 0, 0x1FF⟩) helped)
       ((t.lane r0).parked, (t.lane ⟨1, 0, 1⟩).faultCode, (t.lane ⟨1, 0, 1⟩).staged.map (fun e => e.1.detail))) = (false, 0x1B, some 0x1FF) := by
  decide +kernel
/-- Lane 0 issues; lane 1 runs, or waits at join mask 3. -/
def joins (m a : Nat) (c : Cond) : State :=
  { (short two).modGroup r0 (fun x => { x with j := [(3, BitVec.ofNat 32 m)], arrival := [(3, BitVec.ofNat 32 a)] }) with
    cur := { (short one).cur with len := 2 } }.modLane ⟨1, 0, 1⟩ (fun x => { x with cond := c })
/-- Lane 1 has arrived at join mask 3, and a SAVE found it waiting there. -/
def returning : State := (joins 3 2 .running).modLane ⟨1, 0, 1⟩ (fun x => { x with back := some 3 })
/-- JMSET from a predicate, JMGET; JOIN past a clear mask bit, while lane 1 is pending, and as the last one; LEAVE; WAITJ that passes and waits. -/
theorem witness_Joins : ((short two).active 0 false).getLast? = some ⟨1, 0, 1⟩
    ∧ (∀ q ∈ (short two).active 0 false, q.team = 1 ∧ q.g = 0 ∧ q.l < 32) ∧ Undisturbed (.jmset ⟨11, 71, 0, false⟩) 0 false (short two)
    ∧ (⟨1, 0, 1⟩ : LaneRef) ∈ (short two).groupLanes 1 0 ∧ (∀ q ∈ (short two).groupLanes 1 0, ((short two).lane q).cond = .running)
    ∧ Undisturbed (.jmget ⟨11, 63, 0, false⟩) 0 false (short two)
    ∧ (joins 2 0 .running).present = [r0] ∧ r0 ∈ (joins 2 0 .running).groupLanes 1 0 ∧ Undisturbed (.join ⟨3, 0, 0, false⟩) 0 false (joins 2 0 .running)
    ∧ Undisturbed (.join ⟨3, 0, 0, false⟩) 0 false (joins 3 0 .running)
    ∧ (∃ q ∈ (joins 3 0 .running).groupLanes 1 0, q ≠ r0 ∧ (joins 3 0 .running).exited q = false ∧ ((joins 3 0 .running).lane q).cond = .running)
    ∧ Undisturbed (.join ⟨3, 0, 0, false⟩) 0 false (joins 3 2 (.join 3)) ∧ ((joins 3 2 (.join 3)).groupLanes 1 0).Nodup
    ∧ ((joins 3 2 (.join 3)).lane ⟨1, 0, 1⟩).cond = .join 3
    ∧ Undisturbed (.leave ⟨3, 0, 0, false⟩) 0 false (joins 3 0 .running)
    ∧ (Undisturbed (.join ⟨3, 0, 0, false⟩) 0 false returning ∧ ∃ q ∈ returning.groupLanes 1 0, q ≠ r0 ∧ returning.exited q = false
      ∧ (returning.lane q).cond = .running ∧ (returning.lane q).back = some 3)
    ∧ Undisturbed (.waitj ⟨3, 0, 0, false⟩) 0 false (joins 0 0 .running) ∧ Undisturbed (.waitj ⟨3, 0, 0, false⟩) 0 false (joins 2 0 .running) := by
  unfold Undisturbed; and_intros <;> decide +kernel
theorem test_joins : ((after (exec (.jmset ⟨11, 64, 0, false⟩) (short two))).group r0).mask 11 = 3#32
    ∧ (after (exec (.jmget ⟨3, 63, 0, false⟩) (joins 5 0 .running))).reg r0 191 = 5#32
    ∧ ((after (exec (.join ⟨3, 0, 0, false⟩) (joins 2 0 .running))).lane r0).pc = BitVec.ofNat 64 (programBase + 4)
    ∧ (let t := after (exec (.join ⟨3, 0, 0, false⟩) (joins 3 0 .running)); ((t.lane r0).cond, (t.group r0).arrived 3)) = (.join 3, 1#32)
    ∧ (let t := after (exec (.join ⟨3, 0, 0, false⟩) (joins 3 2 (.join 3)))
       ((t.lane r0).pc, (t.lane ⟨1, 0, 1⟩).pc, (t.lane ⟨1, 0, 1⟩).cond, (t.group r0).arrived 3)) =
        (BitVec.ofNat 64 (programBase + 4), BitVec.ofNat 64 (programBase + 4), .running, 0#32)
    ∧ (let t := after (exec (.join ⟨3, 0, 0, false⟩) returning); ((t.lane r0).cond, (t.group r0).arrived 3)) = (.join 3, 3#32)
    ∧ ((after (exec (.leave ⟨3, 0, 0, false⟩) (joins 3 0 .running))).group r0).mask 3 = 2#32
    ∧ ((after (exec (.waitj ⟨3, 0, 0, false⟩) (joins 2 0 .running))).lane r0).cond = .waitj 3 := by decide +kernel
/-- No register of any lane has bad parity, as a test. -/
def clean (s : State) : Bool := s.teams.all (fun t => t.2.groups.all (fun g => g.2.lanes.all (fun l => l.2.badParity == [])))
theorem clean_of {s : State} (h : clean s = true) (q : LaneRef) : (s.lane q).badParity = [] := by
  simp only [clean, List.all_eq_true, beq_iff_eq] at h
  unfold State.lane Group.lane Tab.getD
  cases hl : Tab.find (s.group q).lanes q.l with
  | none => rfl
  | some x =>
    unfold State.group Team.group Tab.getD at hl
    cases hg : Tab.find (s.team q.team).groups q.g with
    | none => rw [hg] at hl; simp [Group.zero, Tab.find] at hl
    | some g =>
      rw [hg] at hl
      unfold State.team Tab.getD at hg
      cases ht : Tab.find s.teams q.team with
      | none => rw [ht] at hg; simp [Team.zero, Tab.find] at hg
      | some t =>
        rw [ht] at hg
        exact h _ (Tab.mem_of_find ht) _ (Tab.mem_of_find hg) _ (Tab.mem_of_find hl)
/-- Lanes 0 to 2 hold 5, 0 and 9 in v1. -/
def lanes3 : State := ((short three).setReg r0 1 5#32).setReg ⟨1, 0, 2⟩ 1 9#32
theorem witness_CrossLaneForms : (∀ q, (lanes3.lane q).badParity = [])
    ∧ (∀ i ∈ ([.shflx ⟨2, 1, 1, 1⟩, .lscan ⟨2, 1, 64, 0⟩, .qbc ⟨2, 1, 3, 1⟩, .elect ⟨2, 0, 0, 0⟩] : List Instr), (crossForm i).isSome = true)
    ∧ Undisturbed (.shflx ⟨2, 1, 1, 1⟩) 0 false lanes3 ∧ Undisturbed (.lred ⟨2, 1, 9, 0⟩) 0 false lanes3
    ∧ (∀ r ∈ lanes3.present, (lanes3.group r).badParity = []) :=
  ⟨clean_of (by decide +kernel), by unfold Undisturbed; and_intros <;> decide +kernel⟩
/-- v2 of lanes 0 to 2 after the exchange (R160 to R163). -/
theorem test_cross_lane : ([(.shflx ⟨2, 1, 1, 1⟩, [0, 5, 9]), (.shflu ⟨2, 1, 1, 1⟩, [5, 5, 0]), (.shfld ⟨2, 1, 1, 1⟩, [0, 9, 9]),
    (.shfli ⟨2, 1, 2, 1⟩, [9, 9, 9]), (.voteall ⟨2, 1, 0, 0⟩, [0, 0, 0]), (.voteany ⟨2, 1, 0, 0⟩, [1, 1, 1]), (.ballot ⟨2, 1, 0, 0⟩, [5, 5, 5]),
    (.lred ⟨2, 1, 0, 0⟩, [14, 14, 14]), (.lscan ⟨2, 1, 0, 0⟩, [5, 5, 14]), (.lscan ⟨2, 1, 64, 0⟩, [0, 5, 5]), (.elect ⟨2, 0, 0, 0⟩, [1, 0, 0]),
    (.qxh ⟨2, 1, 0, 0⟩, [0, 5, 0]), (.qxv ⟨2, 1, 0, 0⟩, [9, 0, 5]), (.qxd ⟨2, 1, 0, 0⟩, [0, 9, 0]), (.qbc ⟨2, 1, 2, 1⟩, [9, 9, 9])]
      : List (Instr × List Nat)).all (fun e => (List.range 3).map (fun l => ((after (exec e.1 lanes3)).reg ⟨1, 0, l⟩ 2).toNat) == e.2) = true := by
  decide +kernel

/-! ### Memory -/

/-- v2:v3 holds the last word of a sector, v4 up hold data, and memory there holds 0x81 0x82 0x83 0x84. -/
def glob : State := (regs one [(2, 0x4000013C#32), (4, 0xDDCCBBAA#32), (5, 0x44332211#32), (9, 0x40000140#32)]).poke 0x4000013C [0x81, 0x82, 0x83, 0x84]
/-- The core holds an L1 copy of the sector, of other bytes. -/
def globL1 : State := { glob with l1 := [(5, { core := 0, pa := 0x40000100, data := List.replicate 64 7#8, filled := 50 })] }
/-- A helper lane. -/
def aid (s : State) : State := lane0 s (fun x => { x with helper := true })
/-- A load, plain and acquiring at device scope, of one L1 copy's sector; a store, releasing, of the last word; a helper's store. -/
theorem witness_GlobalAccesses : Alone (.ld (xs 8 2 4 0 0 0)) (xs 8 2 4 0 0 0) r0 glob ∧ Uncached glob ∧ glob.bad = [] ∧ glob.marks = [] ∧ glob.l1 = [] ∧ globL1.l1.all (fun e => !e.2.bad)
    ∧ glob.globalEa r0 (xs 8 2 4 0 0 0) % 4 = 0 ∧ glob.place (glob.team 1).grid 0x4000013C 0 = .mem 0x4000013C none
    ∧ glob.globalEa r0 (xs 8 2 4 0 0 0) = 0x4000013C
    ∧ Alone (.ld (xs 8 2 4 0 5 1)) (xs 8 2 4 0 5 1) r0 globL1 ∧ Alone (.ld (xs 8 2 4 0 3 1)) (xs 8 2 4 0 3 1) r0 globL1
    ∧ (globL1.team 1).gcore = 0 ∧ sectorOf 0x4000013C = 0x40000100 ∧ isHost 0x4000013C = false
    ∧ Alone (.st (xs 4 2 4 0 5 2)) (xs 4 2 4 0 5 2) r0 glob ∧ glob.isHelper r0 = false ∧ glob.waiters = [] ∧ Memory.wf glob.mem = true
    ∧ glob.place (glob.team 1).grid 0x4000013C 1 = .mem 0x4000013C none
    ∧ Alone (.st (xs 4 2 4 0 0 0)) (xs 4 2 4 0 0 0) r0 (aid glob) ∧ (aid glob).isHelper r0 = true := by
  unfold Alone Undisturbed Uncached; and_intros <;> decide +kernel
theorem test_ld : (let t := after (exec (.ld (xs 8 2 4 0 0 0)) glob)
    decide (done glob t (xs 8 2 4 0 0 0) [(8, 0x84838281#32)] [] ∧ kept glob t ∧ t.l1.map (fun e => e.2.pa) = [0x40000100])) = true
    ∧ done glob (after (exec (.ld (xs 8 2 0 1 0 0)) (glob.poke 0x4000013D [0xF0]))) (xs 8 2 0 1 0 0) [(8, 0xFFFFFFF0#32)] [] = true
    ∧ done globL1 (after (exec (.ld (xs 8 2 4 0 3 1)) globL1)) (xs 8 2 4 0 3 1) [(8, 0x07070707#32)] [] = true
    ∧ done globL1 (after (exec (.ld (xs 8 2 4 0 5 1)) globL1)) (xs 8 2 4 0 5 1) [(8, 0x84838281#32)] [] = true := by decide +kernel
theorem test_st : (let t := after (exec (.st (xs 4 2 4 0 5 2)) glob)
    decide (stored glob t 0x4000013C [0xAA, 0xBB, 0xCC, 0xDD] ∧ Tab.find t.sigs 0x1000004F = some (.lines [0x40000100]))) = true
    ∧ kept glob (after (exec (.st (xs 4 2 4 0 0 0)) (aid glob))) = true := by decide +kernel
/-- v2 is a local address at the end of the region, v3 the same through the gang window of rank 0. -/
def locals_ : State := (regs one [(2, 0xFFFC#32), (3, 0x20FFFC#32), (4, 0xDDCCBBAA#32)]).pokeLocal 1 0xFFFC [1, 2, 3, 4]
/-- The word of an instruction. -/
def wordOf (i : Instr) : Nat := match encode i with | some e => e.2 | none => 0
/-- A gang access that is on its way, with the tag that stands and with one that has gone. -/
def onWay (s : State) (tag : Nat) (data : List Byte) (fill : Option (Nat × Nat)) : State :=
  let o := s.newOp r0 (xs 8 3 4 0 0 0) [] []
  let i : Instr := if data = [] then .ldl (xs 8 3 4 0 0 0) else .stl (xs 8 3 4 0 0 0)
  { s with ops := [(3, { o with wait := .gang 1 0xFFFC 4 tag data, fill := fill, info := { o.info with insn := wordOf i, len := 4 } })] }
/-- Operation 3 is that access, of a lane that has gone on, and its instruction is `i`. -/
def coming (tag : Nat) (d : List Byte) (fill : Option (Nat × Nat)) (i : Instr) : Bool :=
  let s := onWay locals_ tag d fill
  (s.lane r0).cond == .running && s.ops.all (fun e => e.1 == 3 && e.2.lane == r0 && e.2.late == none && !e.2.together && e.2.phase == 0 && e.2.writes == []
    && e.2.slot == some 2 && e.2.wait == .gang 1 0xFFFC 4 tag d && e.2.fill == fill && e.2.instr == some i)
theorem witness_LocalAccesses : locals_.localEa r0 (xs 8 2 4 0 0 0) % 4 = 0
    ∧ locals_.localPlace 1 (locals_.localEa r0 (xs 8 2 4 0 0 0)) 4 = some (1, 0xFFFC) ∧ bit (locals_.localEa r0 (xs 8 2 4 0 0 0)) 21 = false
    ∧ Uncached locals_ ∧ locals_.waiters = [] ∧ (locals_.team 1).localBad = [] ∧ Memory.wf (locals_.team 1).localMem = true
    ∧ Alone (.ldl (xs 8 2 4 0 0 0)) (xs 8 2 4 0 0 0) r0 locals_ ∧ Alone (.stl (xs 4 2 4 0 0 0)) (xs 4 2 4 0 0 0) r0 locals_
    ∧ locals_.isHelper r0 = false ∧ locals_.localEa r0 (xs 8 3 4 0 0 0) % 4 = 0
    ∧ locals_.localPlace 1 (locals_.localEa r0 (xs 8 3 4 0 0 0)) 4 = some (1, 0xFFFC) ∧ bit (locals_.localEa r0 (xs 8 3 4 0 0 0)) 21 = true
    ∧ Alone (.ldl (xs 8 3 4 0 0 0)) (xs 8 3 4 0 0 0) r0 locals_ ∧ Alone (.stl (xs 4 2 4 0 0 0)) (xs 4 2 4 0 0 0) r0 (aid locals_)
    ∧ (locals_.team 1).tag = 1 ∧ (locals_.team 1).resident = true
    ∧ (∀ tag ∈ [1, 9], coming tag [] (some (8, 4)) (.ldl (xs 8 3 4 0 0 0)) = true ∧ coming tag [9, 8, 7, 6] none (.stl (xs 8 3 4 0 0 0)) = true) := by
  unfold Alone Undisturbed Uncached; and_intros <;> decide +kernel
theorem test_ldl : done locals_ (after (exec (.ldl (xs 8 2 4 0 0 0)) locals_)) (xs 8 2 4 0 0 0) [(8, 0x04030201#32)] [] = true
    ∧ (let t := after (exec (.ldl (xs 8 3 4 0 0 0)) locals_); (t.ops.map (fun e => (e.2.wait, e.2.fill)))) = [(.gang 1 0xFFFC 4 1 [], some (8, 4))]
    ∧ (let t := after (exec (.operationCompletion 3 []) (onWay locals_ 1 [] (some (8, 4)))); (t.reg r0 8, t.ops.length)) = (0x04030201#32, 0)
    ∧ (let t := after (exec (.operationCompletion 3 []) (onWay locals_ 9 [] (some (8, 4)))); t.ops.map (fun e => e.2.late.map FaultInfo.code)) = [some 9] := by
  decide +kernel
theorem test_stl : storedLocal locals_ (after (exec (.stl (xs 4 2 4 0 0 0)) locals_)) 0xFFFC [0xAA, 0xBB, 0xCC, 0xDD] = true
    ∧ storedLocal locals_ (after (exec (.operationCompletion 3 []) (onWay locals_ 1 [9, 8, 7, 6] none))) 0xFFFC [9, 8, 7, 6] = true
    ∧ storedLocal locals_ (after (exec (.operationCompletion 3 []) (onWay locals_ 9 [9, 8, 7, 6] none))) 0 [] = true := by decide +kernel
/-- Peer 5 is reached through port 0, which is up. -/
def reach (s : State) : State := { s with peers := [(5, 2 ^ 63 + 7)], ports := [(0, { config := 4, links := [(0, true)], busy := 0 })] }
/-- v2:v3 is misaligned, v6:v7 not mapped, v8 beyond the region, v10:v11 in the fabric window of peer 5. -/
def away_ : State := regs (reach one) [(2, 0x40000102#32), (7, 0x100#32), (8, 0x10000#32), (9, 2#32), (10, 0x40#32), (11, 0x01014000#32)]
/-- The page is read-only. -/
def readOnly : State := { regs one [(3, 0#32), (2, 0x40000100#32)] with tlb := [{ grid := 1, va := programBase, size := 2 ^ 30, pte := programBase + 7 }] }
theorem witness_FaultsAndFabricAccesses : HandlerReady away_ r0 ∧ Alone (.ld (xs 12 2 4 0 0 0)) (xs 12 2 4 0 0 0) r0 away_
    ∧ away_.globalEa r0 (xs 12 2 4 0 0 0) % 4 ≠ 0 ∧ away_.isHelper r0 = false ∧ (aid away_).isHelper r0 = true
    ∧ Alone (.ld (xs 12 2 4 0 0 0)) (xs 12 2 4 0 0 0) r0 (aid away_)
    ∧ Alone (.ld (xs 12 6 4 0 0 0)) (xs 12 6 4 0 0 0) r0 away_ ∧ away_.globalEa r0 (xs 12 6 4 0 0 0) % 4 = 0
    ∧ away_.place 1 (away_.globalEa r0 (xs 12 6 4 0 0 0)) 0 = .bad 5 false
    ∧ Alone (.st (xs 12 2 4 0 0 0)) (xs 12 2 4 0 0 0) r0 away_ ∧ Alone (.st (xs 12 2 4 0 0 0)) (xs 12 2 4 0 0 0) r0 readOnly
    ∧ readOnly.globalEa r0 (xs 12 2 4 0 0 0) % 4 = 0 ∧ readOnly.place 1 (readOnly.globalEa r0 (xs 12 2 4 0 0 0)) 1 = .bad 6 false
    ∧ Alone (.ldl (xs 12 9 4 0 0 0)) (xs 12 9 4 0 0 0) r0 away_ ∧ away_.localEa r0 (xs 12 9 4 0 0 0) % 4 ≠ 0
    ∧ Alone (.ldl (xs 12 8 4 0 0 0)) (xs 12 8 4 0 0 0) r0 away_ ∧ away_.localPlace 1 (away_.localEa r0 (xs 12 8 4 0 0 0)) 4 = none
    ∧ Alone (.stl (xs 12 9 4 0 0 0)) (xs 12 9 4 0 0 0) r0 away_ ∧ Alone (.stl (xs 12 8 4 0 0 0)) (xs 12 8 4 0 0 0) r0 away_
    ∧ Alone (.ld (xs 12 10 4 0 0 0)) (xs 12 10 4 0 0 0) r0 away_ ∧ away_.globalEa r0 (xs 12 10 4 0 0 0) % 4 = 0
    ∧ away_.fabricBusy (fabricPeer (away_.globalEa r0 (xs 12 10 4 0 0 0))) = false
    ∧ away_.place 1 (away_.globalEa r0 (xs 12 10 4 0 0 0)) 0 = .fabric ∧ away_.fabricFault (away_.globalEa r0 (xs 12 10 4 0 0 0)) = none
    ∧ away_.sharedRead (away_.globalEa r0 (xs 12 10 4 0 0 0)) = none
    ∧ ({ away_ with peers := [] } : State).fabricFault (away_.globalEa r0 (xs 12 10 4 0 0 0)) = some 5
    ∧ Alone (.st (xs 12 10 4 0 7 2)) (xs 12 10 4 0 7 2) r0 away_ := by
  unfold Alone Undisturbed HandlerReady; and_intros <;> decide +kernel
theorem test_access_faults : parked away_ (after (exec (.ld (xs 12 2 4 0 0 0)) away_)) 4 0 0x40000102 = true
    ∧ parked away_ (after (exec (.ld (xs 12 6 4 0 0 0)) away_)) 5 0 0x10000000000 = true
    ∧ parked readOnly (after (exec (.st (xs 12 2 4 0 0 0)) readOnly)) 6 0 0x40000100 = true
    ∧ parked away_ (after (exec (.stl (xs 12 8 4 0 0 0)) away_)) 9 0 0x10000 = true
    ∧ done (aid away_) (after (exec (.ld (xs 12 2 4 0 0 0)) (aid away_))) (xs 12 2 4 0 0 0) [(12, 0#32)] [] = true := by decide +kernel
theorem test_fabric_access : (let t := after (exec (.st (xs 12 10 4 0 7 2)) away_)
    t.sent.map (fun e => (e.2.peer, e.2.seq, e.2.count, e.2.kind)) == [(5, 0, some 0, .write)] && t.sent.map (fun e => e.2.offset) == [0x40]
      && t.sent.map (fun e => e.2.data) == [[0, 0, 0, 0]] && (t.stream 5 0).epoch == 1) = true
    ∧ (let t := after (exec (.ld (xs 12 10 4 0 0 0)) away_); t.sent.map (fun e => e.2.kind) == [.read 4]) = true := by decide +kernel
/-- Version 9 of the page at 2^31, mapped by a leaf without R in `noR`. -/
def paged (pte : Nat) (x : Version) : State :=
  { regs one [(2, 0x80000040#32), (6, 8#32), (8, 2#32)] with
    versions := [(9, x)], tlb := [{ grid := 1, va := 2 ^ 31, size := 2 ^ 21, pte := pte + 9 * 256 }] }
def ver0 : Version := { version := 8, incoming := 11, pins := 0, state := 2, sel := false, frame0 := 600, frame1 := 601 }
def full : State := (paged 71 ver0).poke (600 * 2 ^ 21 + 0x40) [5, 6, 7, 8]
/-- The floor in v6 is the version (reached), 9 (not yet), or 7 in deterministic mode (past it); v7 is a timeout of 0 or 2. -/
def floor (n tmo : Nat) (det : Bool) : State :=
  inGrid (regs full [(6, BitVec.ofNat 32 n), (7, BitVec.ofNat 32 tmo)]) (fun g => { g with flags := if det then 1 else 0 })
/-- A lane held in an LDV whose deadline has passed, with and without a status predicate. -/
def lapsed (b : Nat) : State := lane0 full (fun x => { x with
  sb := [(2, 1)]
  cond := .held { kind := .ldv, x := xs 8 2 b 6 0 0, insn := 0, ea := 0x80000040, pa := 9, v1 := 9, v2 := 0, deadline := some 100, order := 3, issue := 3 } })
theorem witness_VersionedPages : Tab.find full.versions 9 = some ver0 ∧ ver0.state = 2 ∧ ver0.pins = 0 ∧ full.publications = []
    ∧ full.heldIn .ldv = [] ∧ Tab.find full.versions 4095 = none
    ∧ Alone (.ldv (xs 8 2 0x34 6 0 0)) (xs 8 2 0x34 6 0 0) r0 (floor 8 0 false) ∧ Uncached (floor 8 0 false) ∧ (floor 8 0 false).l1 = []
    ∧ (floor 8 0 false).bad = [] ∧ (floor 8 0 false).marks = [] ∧ (floor 8 0 false).reg64 r0 2 % 4 = 0
    ∧ (floor 8 0 false).place 1 0x80000040 0 = .mem (600 * 2 ^ 21 + 0x40) (some 9) ∧ versionDiff ((floor 8 0 false).versionOf 9) 8 = 0
    ∧ Alone (.ldv (xs 8 2 0x34 6 0 0)) (xs 8 2 0x34 6 0 0) r0 (floor 9 2 false) ∧ 2 ^ 31 ≤ versionDiff ((floor 9 2 false).versionOf 9) 9
    ∧ Alone (.ldv (xs 8 2 0x34 6 0 0)) (xs 8 2 0x34 6 0 0) r0 (floor 7 0 true) ∧ ((floor 7 0 true).gridOf 1).det = true
    ∧ versionDiff ((floor 7 0 true).versionOf 9) 7 = 1 ∧ HandlerReady (floor 7 0 true) r0
    ∧ (match ((lapsed 0x34).lane r0).cond with | .held h => h.kind == .ldv && h.deadline == some 100 && h.x.b.toNat / 16 == 3 | _ => false) = true
    ∧ HandlerReady (lapsed 4) r0
    ∧ Alone (.vpin (xs 0 2 0 0 0 0)) (xs 0 2 0 0 0 0) r0 (paged 67 ver0) ∧ (paged 67 ver0).place 1 0x80000040 3 = .mem (600 * 2 ^ 21 + 0x40) (some 9)
    ∧ Tab.getD ((paged 67 ver0).team 1).pins 9 0 < 255
    ∧ Alone (.vpin (xs 0 2 0 0 0 0)) (xs 0 2 0 0 0 0) r0 (inTeam full (fun x => { x with pins := [(9, 255)] }))
    ∧ Alone (.vunpin (xs 0 2 0 0 0 0)) (xs 0 2 0 0 0 0) r0 (inTeam full (fun x => { x with pins := [(9, 1)] })) := by
  unfold Alone Undisturbed Uncached HandlerReady; and_intros <;> decide +kernel
theorem test_ldv : done (floor 8 0 false) (after (exec (.ldv (xs 8 2 0x34 6 0 0)) (floor 8 0 false))) (xs 8 2 0x34 6 0 0) [(8, 0x08070605#32)] [(3, true)] = true
    ∧ (match ((after (exec (.ldv (xs 8 2 0x34 6 0 0)) (floor 9 2 false))).lane r0).cond with | .held h => h.deadline == some 102 | _ => false) = true
    ∧ parked (floor 7 0 true) (after (exec (.ldv (xs 8 2 0x34 6 0 0)) (floor 7 0 true))) 0x19 0 0x80000040 = true
    ∧ (let t := after (exec (.ldvTimeout r0) (lapsed 0x34)); ((t.lane r0).cond, (t.lane r0).slotCount 2, (t.lane r0).pred 3)) = (.running, 0, false)
    ∧ ((after (exec (.ldvTimeout r0) (lapsed 4))).lane r0).faultCode = 0x0E := by decide +kernel
theorem test_pins : (let t := after (exec (.vpin (xs 0 2 0 0 0 0)) (paged 67 ver0))
    (Tab.getD (t.team 1).pins 9 0, (Tab.find t.versions 9).map Version.pins)) = (1, some 1)
    ∧ ((after (exec (.vpin (xs 0 2 0 0 0 0)) (inTeam full (fun x => { x with pins := [(9, 255)] })))).lane r0).faultCode = 0x0F
    ∧ (let t := after (exec (.versionFlip 9) full); (Tab.find t.versions 9).map (fun v => (v.version, v.state, v.sel))) = some (11, 0, true)
    ∧ (Tab.find (after (exec (.versionEntryCreate 4095 1 24575 true 3) full)).versions 4095).isSome = true
    ∧ (Tab.find (after (exec (.versionEntryDestroy 9) full)).versions 9).isNone = true := by decide +kernel
/-- A lane that has met a line, and the core's copies of it and of another one. -/
def fences : State :=
  lane0 { glob with l1 := [(5, { core := 0, pa := 0x40000100, data := [], filled := 50 }), (6, { core := 0, pa := 0x40000200, data := [], filled := 50 })] }
    (fun x => { x with seen := .lines [0x40000100] })
theorem witness_PrefetchAndFences : Uncached glob ∧ Uncached fences ∧ Alone (.pf (xs 0 2 4 0 0 0)) (xs 0 2 4 0 0 0) r0 glob
    ∧ Alone (.fence (xs 0 0 0 0 4 3)) (xs 0 0 0 0 4 3) r0 fences ∧ Alone (.fencex (xs 0 0 0 0x10 4 1)) (xs 0 0 0 0x10 4 1) r0 fences
    ∧ Alone (.fencex (xs 0 0 0 0x21 4 1)) (xs 0 0 0 0x21 4 1) r0 fences := by
  unfold Alone Undisturbed Uncached; and_intros <;> decide +kernel
theorem test_fences : (let t := after (exec (.fence (xs 0 0 0 0 4 3)) fences); (t.l1.map Prod.fst, (t.lane r0).fenced, (t.lane r0).sig)) =
      ([6], 4, .lines [0x40000100])
    ∧ ((after (exec (.fence (xs 0 0 0 0 3 1)) fences)).l1.map Prod.fst) = [5, 6]
    ∧ (let t := after (exec (.fencex (xs 0 0 0 0x10 4 1)) fences); (t.l1.map Prod.fst, (t.lane r0).sig)) = ([], .all)
    ∧ (let t := after (exec (.fencex (xs 0 0 0 0x21 4 1)) fences); (t.l1.map Prod.fst, (t.lane r0).sig)) = ([], .all)
    ∧ (let t := after (exec (.fencex (xs 0 0 0 0x21 4 0)) fences); (t.l1.map Prod.fst, (t.lane r0).sig)) = ([5, 6], .lines [])
    ∧ ((after (exec (.pf (xs 0 2 4 0 0 0)) glob)).l1.map (fun e => (e.2.pa, e.2.data.drop 60))) = [(0x40000100, [0x81, 0x82, 0x83, 0x84])] := by
  decide +kernel

/-! ### Atomics, chains and barriers -/

/-- v2:v3 is a word of memory that holds 7, v4 holds 5, v5 9, v6 and v7 are 0; v10:v11 lies in the fabric window of peer 5. -/
def atoms : State := (regs (reach one)
  [(2, 0x40000100#32), (4, 5#32), (5, 9#32), (10, 0x40#32), (11, 0x01014000#32), (12, 0x40000102#32)]).poke 0x40000100 [7]
/-- The grid is deterministic. -/
def inDet (s : State) : State := inGrid s (fun g => { g with flags := 1 })
/-- A helper lane. -/
def helps (s : State) : State := lane0 s (fun x => { x with helper := true })
theorem witness_AtomicsAtHome : (Alone (.atom (xs 8 2 4 0 4 0)) (xs 8 2 4 0 4 0) r0 atoms ∧ Alone (.atom (xs 8 2 4 4 3 0)) (xs 8 2 4 4 3 0) r0 atoms
      ∧ Alone (.cas (xs 8 2 4 0 4 0)) (xs 8 2 4 0 4 0) r0 atoms ∧ Uncached atoms)
    ∧ ((atoms.gridOf 1).det = false ∧ atoms.isHelper r0 = false ∧ atoms.bad = [] ∧ atoms.marks = [] ∧ atoms.waiters = []
      ∧ Memory.wf atoms.mem = true ∧ atoms.reg64 r0 2 % 8 = 0 ∧ atoms.place (atoms.team 1).grid (atoms.reg64 r0 2) 1 = .mem 0x40000100 none
      ∧ isHost 0x40000100 = false)
    ∧ (Alone (.atom (xs 8 2 4 0 4 0)) (xs 8 2 4 0 4 0) r0 (inDet atoms) ∧ ((inDet atoms).gridOf 1).det = true ∧ HandlerReady (inDet atoms) r0
      ∧ Alone (.cas (xs 8 2 4 0 4 0)) (xs 8 2 4 0 4 0) r0 (helps atoms) ∧ (helps atoms).isHelper r0 = true)
    ∧ (Alone (.atom (xs 8 12 4 0 4 0)) (xs 8 12 4 0 4 0) r0 atoms ∧ atoms.reg64 r0 12 % 4 ≠ 0
      ∧ Alone (.atom (xs 8 10 4 2 6 0)) (xs 8 10 4 2 6 0) r0 atoms ∧ atoms.place (atoms.team 1).grid (atoms.reg64 r0 10) 1 = .fabric
      ∧ atoms.fabricFault (atoms.reg64 r0 10) = none ∧ atoms.fabricBusy (fabricPeer (atoms.reg64 r0 10)) = false) := by
  unfold Alone Undisturbed Uncached HandlerReady; and_intros <;> decide +kernel
/-- The operations with codes 0 ADD, AND, OR, XOR, MIN, MAX, MINU, MAXU and 8 XCHG on the old value 7 and 5 (R232, R234). -/
theorem test_atom : (let t := after (exec (.atom (xs 8 2 4 0 4 0)) atoms)
    done atoms t (xs 8 2 4 0 4 0) [(8, 7#32)] [] && stored atoms t 0x40000100 [12, 0, 0, 0]) = true
    ∧ ([(0, 12), (1, 5), (2, 7), (3, 2), (4, 5), (5, 7), (6, 5), (7, 7), (8, 5)] : List (Nat × Nat)).all (fun e =>
        leNat (memGetN (after (exec (.atom (xs 8 2 4 0 4 e.1)) atoms)).mem 0x40000100 4) == e.2) = true
    ∧ parked (inDet atoms) (after (exec (.atom (xs 8 2 4 0 4 0)) (inDet atoms))) 0x19 0 0 = true
    ∧ (let t := after (exec (.atom (xs 8 10 4 2 6 0)) atoms); t.sent.map (fun e => (e.2.peer, e.2.kind, e.2.count)) == [(5, .atomic 0 32 5, some 0)]) = true := by
  decide +kernel
theorem test_cas : (let s := atoms.poke 0x40000100 [5]; let t := after (exec (.cas (xs 8 2 4 0 4 0)) s)
    done s t (xs 8 2 4 0 4 0) [(8, 5#32)] [] && stored s t 0x40000100 [9, 0, 0, 0]) = true
    ∧ (let t := after (exec (.cas (xs 8 2 4 0 4 0)) atoms); done atoms t (xs 8 2 4 0 4 0) [(8, 7#32)] [] && kept atoms t) = true := by
  decide +kernel
/-- An update-only copy of the line at 2^30 + 256 holds the sum 5 for its word 0. -/
def copied : State := { atoms with upd := [(3, { core := 0, line := 0x40000100, op := 0, width := 32, parts := [(0, 5)], team := 1, rel := false, sig := .lines [] })] }
/-- A lane held in a CHAIN of a team whose contribution, 5, is complete; the object's turn is n and its value 100. -/
def chained (n : Nat) : State :=
  { lane0 ((regs one [(130, 0x40000200#32), (4, 5#32)]).poke 0x40000200 (leBytes 16 (100 + n * 2 ^ 64))) (fun x => { x with
      cond := .held { kind := .chain, x := xs 8 130 4 3 4 0, insn := 0, ea := 0x40000200, pa := 0x40000200, v1 := 5, v2 := 0, deadline := none, order := 3, issue := 3 } }) with
    chains := [(4, { team := 1, pa := 0x40000200, op := 0, width := 32, total := 5, lanes := [(r0, 0, 0)] })] }
/-- A lane about to issue a CHAIN. -/
def chains_ : State := regs one [(130, 0x40000200#32), (4, 5#32)]
theorem witness_UpdatesAndChains : (Alone (.upd (xs 0 2 4 0 4 0)) (xs 0 2 4 0 4 0) r0 atoms ∧ Uncached atoms ∧ atoms.isHelper r0 = false
      ∧ (atoms.gridOf 1).det = false ∧ atoms.place (atoms.team 1).grid (atoms.reg64 r0 2) 1 = .mem 0x40000100 none
      ∧ Alone (.upd (xs 0 2 4 0 4 0)) (xs 0 2 4 0 4 0) r0 (helps atoms) ∧ ((helps atoms).gridOf 1).det = false ∧ (helps atoms).isHelper r0 = true)
    ∧ (copied.upd.length = 1 ∧ (∀ e ∈ copied.teams, e.2.stash = []) ∧ copied.waiters = [] ∧ copied.bad = [] ∧ Memory.wf copied.mem = true)
    ∧ (Alone (.chain (xs 8 130 4 3 4 0)) (xs 8 130 4 3 4 0) r0 chains_ ∧ (chains_.lane r0).away = none ∧ chains_.exited r0 = false
      ∧ chains_.chains = [] ∧ (chains_.team 1).groups.map (fun e => (e.1, e.2.lanes.map Prod.fst)) = [(0, [0])]
      ∧ chains_.reg64 r0 130 % 16 = 0 ∧ chains_.place (chains_.team 1).grid (chains_.reg64 r0 130) 1 = .mem 0x40000200 none)
    ∧ ((Tab.find (chained 0).chains 4).map (fun c => c.lanes) = some [(r0, 0, 0)] ∧ Uncached (chained 0) ∧ (chained 0).bad = []
      ∧ (chained 0).marks = [] ∧ Memory.wf (chained 0).mem = true ∧ ((chained 0).team 1).teamid = 0
      ∧ leNat (memGetN (chained 0).mem 0x40000200 16) / 2 ^ 64 % 2 ^ 32 = 0
      ∧ chainWhen (leNat (memGetN (chained (2 ^ 32 - 1)).mem 0x40000200 16) / 2 ^ 64 % 2 ^ 32) 0 = 2) := by
  unfold Alone Undisturbed Uncached; and_intros <;> decide +kernel
theorem test_upd : (let t := after (exec (.upd (xs 0 2 4 0 4 0)) atoms)
      kept atoms t && t.upd.map (fun e => (e.2.line, e.2.parts)) == [(0x40000100, [(0, 5)])]) = true
    ∧ (let t := after (exec (.updCopyEviction 3) copied); stored copied t 0x40000100 [12, 0, 0, 0] && t.upd == []) = true := by decide +kernel
theorem test_chain : (let t := after (exec (.chain (xs 8 130 4 3 4 0)) chains_); kept chains_ t && t.chains.map (fun e => (e.2.total, e.2.lanes)) == [(5, [(r0, 0, 0)])]) = true
    ∧ (let t := after (exec (.chainTurn 4) (chained 0)); t.reg r0 8 == 100#32 && memGetN t.mem 0x40000200 16 == leBytes 16 (105 + 2 ^ 64)
        && (t.lane r0).cond == .running) = true
    ∧ decide (after (exec (.chainTurn 4) (chained (2 ^ 32 - 1))) = chained (2 ^ 32 - 1)) = true := by decide +kernel
/-- Objects at v2:v3 in memory and at v5 in the region, which v14 reaches through the gang window: n bits; v4 is a count or a phase. -/
def bars (n b : Nat) : State := ((regs one [(2, 0x40000100#32), (4, BitVec.ofNat 32 b), (5, 0x100#32), (14, 0x200100#32)]).poke 0x40000100 (leBytes 16 n)).pokeLocal 1 0x100 (leBytes 16 n)
theorem witness_Barriers : ((bars 3 1).isHelper r0 = false ∧ Uncached (bars 3 1) ∧ (bars 3 1).waiters = []
      ∧ (match (bars 3 1).barPlace r0 (xs 8 2 4 0 4 0) with | .ok (some o) => o == .mem 0x40000100 | _ => false) = true
      ∧ (bars 3 1).objectKept (.mem 0x40000100)
      ∧ (match (bars 3 1).barPlace r0 (xs 8 5 4 0 4 1) with | .ok (some o) => o == .loc 1 0x100 | _ => false) = true
      ∧ (bars 3 1).objectKept (.loc 1 0x100) ∧ (bars 3 1).objectBits (.loc 1 0x100) 16 = 3)
    ∧ (Alone (.binit (xs 0 2 4 0 4 0)) (xs 0 2 4 0 4 0) r0 (bars 3 1) ∧ Alone (.barr (xs 8 5 0 0 3 1)) (xs 8 5 0 0 3 1) r0 (bars 3 1)
      ∧ Alone (.bwait (xs 8 2 4 0 4 0)) (xs 8 2 4 0 4 0) r0 (bars 3 1) ∧ Alone (.barw (xs 8 2 0 0 4 0)) (xs 8 2 0 0 4 0) r0 (bars 3 1)
      ∧ Alone (.btestp (xs 1 2 4 0 4 0)) (xs 1 2 4 0 4 0) r0 (bars 3 1) ∧ Alone (.bdrop (xs 0 2 4 0 4 0)) (xs 0 2 4 0 4 0) r0 (bars 3 1))
    ∧ ((barArrive 3).isSome = true ∧ barArrive 0x00010001 = none ∧ barOk 3 = true ∧ barOk 0x00010000 = false ∧ barPassed 3 0 = true
      ∧ barPassed 3 1 = false ∧ (barArrive 1).map (fun m => barPassed m 1) = some true ∧ (barArrive 3).map (fun m => barPassed m 1) = some false
      ∧ (barWithdraw 3 1).isSome = true ∧ barWithdraw 3 4 = none)
    ∧ (Alone (.barw (xs 8 2 0 0 4 0)) (xs 8 2 0 0 4 0) r0 (helps (bars 3 1)) ∧ (helps (bars 3 1)).isHelper r0 = true)
    ∧ (Alone (.tbar (xs 0 0 0 2 0 0)) (xs 0 0 0 2 0 0) r0 one ∧ (one.lane r0).away = none ∧ (one.lane r0).cond = .running ∧ one.exited r0 = false
      ∧ one.cur.len = 4 ∧ (one.team 1).groups.map (fun e => (e.1, e.2.lanes.map Prod.fst)) = [(0, [0])]
      ∧ Alone (.tbar (xs 0 0 0 2 0 0)) (xs 0 0 0 2 0 0) r0 { two with cur := one.cur }
      ∧ (⟨1, 0, 1⟩ : LaneRef) ∈ two.teamLanes 1 ∧ two.isHelper ⟨1, 0, 1⟩ = false ∧ (two.teamLanes 1).Nodup ∧ two.chains = []) := by
  unfold Alone Undisturbed Uncached State.objectKept; and_intros <;> decide +kernel
theorem test_barriers : (let t := after (exec (.binit (xs 0 2 4 0 4 0)) (bars 3 2)); stored (bars 3 2) t 0x40000100 (leBytes 16 2)) = true
    ∧ (let t := after (exec (.barr (xs 8 5 0 0 3 1)) (bars 0x20003 1)); storedLocal (bars 0x20003 1) t 0x100 (leBytes 16 (3 + 2 ^ 32))
        && done (bars 0x20003 1) t (xs 8 5 0 0 3 1) [(8, 0#32)] []) = true
    ∧ (let t := after (exec (.barw (xs 8 2 0 0 4 0)) (bars 3 1)); stored (bars 3 1) t 0x40000100 (leBytes 16 0x10003) && t.waiters.length == 1) = true
    ∧ (let t := after (exec (.bdrop (xs 0 2 4 0 4 0)) (bars 0x20003 1)); stored (bars 0x20003 1) t 0x40000100 (leBytes 16 (2 + 2 ^ 32))) = true
    ∧ (let t := after (exec (.barr (xs 8 2 0 0 4 0)) (bars 0x10001 1)); kept (bars 0x10001 1) t && t.ops.map (fun e => e.2.late.map FaultInfo.code) == [some 0x10]) = true
    ∧ (let s := bars (3 + 2 ^ 32) 0; done s (after (exec (.btestp (xs 1 2 4 0 4 0)) s)) (xs 1 2 4 0 4 0) [] [(1, false)]) = true := by decide +kernel
theorem test_tbar : (let t := after (exec (.tbar (xs 0 0 0 2 0 0)) one); (t.lane r0).cond == .running && (t.lane r0).pc == BitVec.ofNat 64 (programBase + 8)) = true
    ∧ ((after (exec (.tbar (xs 0 0 0 2 0 0)) { two with cur := one.cur })).lane r0).cond = .tbar 2 := by decide +kernel
/-- A barrier instruction of lane 0 on its way to the object in the region, the lane running or held in it. -/
def gangBar (n : Nat) (i : Instr) (x : XForm) (held : Bool) (d : List Byte) : State :=
  let s := bars n 0
  let o := s.newOp r0 x [] []
  let h : Hold := { kind := .bwait, x := x, insn := wordOf i, ea := 0x200100, pa := localKey 1 0x100, v1 := leNat d, v2 := 0, deadline := none, order := 3, issue := 7 }
  { lane0 s (fun l => { l with cond := if held then .held h else .running }) with
    ops := [(3, { o with slot := if held then none else o.slot, wait := .gang 1 0x100 16 1 d, info := { o.info with insn := wordOf i, len := 4 } })] }
theorem witness_Barriers_gang : ((bars 3 1).barEa r0 (xs 8 14 4 0 3 1) = 0x200100 ∧ bit 0x200100 21 = true
      ∧ (match (bars 3 1).barPlace r0 (xs 8 14 4 0 3 1) with | .ok (some o) => o == .loc 1 0x100 | _ => false) = true
      ∧ Alone (.binit (xs 0 14 4 0 3 1)) (xs 0 14 4 0 3 1) r0 (bars 3 1) ∧ Alone (.barr (xs 8 14 0 0 3 1)) (xs 8 14 0 0 3 1) r0 (bars 3 1)
      ∧ Alone (.bwait (xs 8 14 4 0 3 1)) (xs 8 14 4 0 3 1) r0 (bars 3 1) ∧ Alone (.barw (xs 8 14 0 0 3 1)) (xs 8 14 0 0 3 1) r0 (bars 3 1)
      ∧ Alone (.btestp (xs 1 14 4 0 3 1)) (xs 1 14 4 0 3 1) r0 (bars 3 1) ∧ Alone (.bdrop (xs 0 14 4 0 3 1)) (xs 0 14 4 0 3 1) r0 (bars 3 1))
    ∧ (∀ n ∈ [3, 0x10001], (gangBar n (.barr (xs 8 14 0 0 3 1)) (xs 8 14 0 0 3 1) false [0, 0, 0, 0]).ops.map (fun e => e.2.instr) = [some (.barr (xs 8 14 0 0 3 1))])
    ∧ (∀ b ∈ [0, 1], (gangBar 3 (.bwait (xs 8 14 4 0 3 1)) (xs 8 14 4 0 3 1) true [b, 0, 0, 0]).ops.map (fun e => e.2.instr) = [some (.bwait (xs 8 14 4 0 3 1))])
    ∧ (let s := gangBar 3 (.barr (xs 8 14 0 0 3 1)) (xs 8 14 0 0 3 1) false [0, 0, 0, 0]
       s.objectKept (.loc 1 0x100) ∧ Uncached s ∧ s.waiters = [] ∧ (s.team 1).tag = 1 ∧ (s.team 1).resident = true ∧ s.isHelper r0 = false
         ∧ s.ops.map (fun e => (e.2.together, e.2.phase, e.2.late)) = [(false, 0, none)]) := by
  dsimp only; unfold Alone Undisturbed Uncached State.objectKept; and_intros <;> decide +kernel
theorem test_gang_barriers : (after (exec (.barr (xs 8 14 0 0 3 1)) (bars 3 1))).ops.map (fun e => e.2.wait) = [.gang 1 0x100 16 1 [0, 0, 0, 0]]
    ∧ (match ((after (exec (.bwait (xs 8 14 4 0 3 1)) (bars 3 1))).lane r0).cond with | .held h => h.v1 == 1 | _ => false) = true
    ∧ (let t := after (exec (.operationCompletion 3 []) (gangBar 3 (.barr (xs 8 14 0 0 3 1)) (xs 8 14 0 0 3 1) false [0, 0, 0, 0]))
       (memGetN (t.team 1).localMem 0x100 4, t.reg r0 8, t.ops.length)) = ([3, 0, 1, 0], 0#32, 0)
    ∧ (let t := after (exec (.operationCompletion 3 []) (gangBar 3 (.bwait (xs 8 14 4 0 3 1)) (xs 8 14 4 0 3 1) true [0, 0, 0, 0]))
       (t.lane r0).cond == .running && t.waiters.isEmpty && t.ops.all (fun e => e.2.wait == .ready && e.2.writes == [(8, 0#32)])) = true
    ∧ (let t := after (exec (.operationCompletion 3 []) (gangBar 3 (.bwait (xs 8 14 4 0 3 1)) (xs 8 14 4 0 3 1) true [1, 0, 0, 0]))
       (t.waiters.length, t.ops.length)) = (1, 0) := by decide +kernel

/-! ### Queues and the Pricker -/

/-- A queue of 4 elements of 8 bytes: its block at v2:v3, its slots at 2^30 + 0x2000. -/
def q0 : QBlock := qMake 0x40002000 4 8 0 1
/-- The same with one element, in slot 0. -/
def q1 : QBlock := { q0 with tail := 1, free := 3 }
/-- The same with four elements, and empty but closed. -/
def q4 : QBlock := { q0 with tail := 4, free := 0 }
def qc : QBlock := { q0 with state := 1 }
/-- The block in memory; v4 to v7 are QINIT's parameters, or v4 and v5 an element. -/
def queue (q : QBlock) : State :=
  ((regs one [(2, 0x40001000#32), (4, 0x40002000#32), (6, 4#32), (7, 8#32), (10, 5#32)]).poke 0x40001000 (leBytes 64 (qEncode q))).poke 0x40002000 [1, 2, 3, 4, 5, 6, 7, 8]
def isOkAt (o : Except (Nat × Bool) Nat) (n : Nat) : Bool := match o with | .ok p => p == n | _ => false
theorem witness_QueueBlocks : (Alone (.qinit (xs 0 2 4 0 4 0)) (xs 0 2 4 0 4 0) r0 (helps (queue q0)) ∧ (helps (queue q0)).isHelper r0 = true
      ∧ Alone (.enq (xs 0 2 4 255 4 0)) (xs 0 2 4 255 4 0) r0 (helps (queue q0))
      ∧ (helps (queue q0)).badReads r0 ((helps (queue q0)).uses r0 (.enq (xs 0 2 4 255 4 0))).reads = (none, none))
    ∧ ((queue q0).isHelper r0 = false ∧ Uncached (queue q0) ∧ (queue q0).waiters = [] ∧ (queue q0).bad = [] ∧ Memory.wf (queue q0).mem = true
      ∧ isOkAt ((queue q0).queueCtl r0 (xs 0 2 4 0 4 0)) 0x40001000 = true)
    ∧ (Alone (.qinit (xs 0 2 4 0 4 0)) (xs 0 2 4 0 4 0) r0 (queue q0) ∧ qParamBad ((queue q0).reg64 r0 2) 0x40002000 4 8 = false
      ∧ qParamBad ((queue q0).reg64 r0 2) 0x40001020 4 8 = true ∧ HandlerReady (queue q0) r0
      ∧ Alone (.qstat (xs 8 2 7 0 4 0)) (xs 8 2 7 0 4 0) r0 (queue q0) ∧ Alone (.qclose (xs 0 2 0 0 4 0)) (xs 0 2 0 0 4 0) r0 (queue q0)
      ∧ (queue q0).queueAt 0x40001000 q0) := by
  unfold Alone Undisturbed Uncached HandlerReady State.queueAt; and_intros <;> decide +kernel
theorem test_queue_blocks : stored (queue q0) (after (exec (.qinit (xs 0 2 4 0 4 0)) (queue q0))) 0x40001000 (leBytes 64 (qEncode (qMake 0x40002000 4 8 0 2))) = true
    ∧ ((after (exec (.qinit (xs 0 2 4 0 4 0)) (regs (queue q0) [(6, 3#32)]))).lane r0).faultCode = 0x12
    ∧ done (queue q1) (after (exec (.qstat (xs 8 2 11 0 4 0)) (queue q1))) (xs 8 2 11 0 4 0) [(8, 1#32)] [] = true
    ∧ stored (queue q0) (after (exec (.qclose (xs 0 2 0 0 4 0)) (queue q0))) 0x40001000 (leBytes 64 (qEncode { q0 with state := 1 })) = true := by
  decide +kernel
/-- A queue operation that fails ends with its status predicate p3 clear, what it writes, and nothing else. -/
def fails (s : State) (i : Instr) (x : XForm) (ws : List (Nat × Word)) : Bool := let t := after (exec i s); done s t x ws [(3, false)] && kept s t
/-- A reserved index 0 whose commit is on its way, with its operation. -/
def reserved : State :=
  { queue { q0 with resv := 1, free := 3 } with
    commits := [(5, { lane := r0, ctl := 0x40001000, index := 0, gen := 1, sig := .lines [], op := 6, bad := false })],
    ops := [(6, { (queue q0).newOp r0 (xs 0 2 4 255 4 0) [] [] with wait := .commit 5 })] }
/-- A lane waiting in a DEQ whose deadline has passed; its status predicate is `b`. -/
def expired (b : Nat) : State :=
  { lane0 (queue q0) (fun x => { x with
      sb := [(2, 1)]
      cond := .held { kind := .deq, x := xs 8 2 0 10 4 (2 * b), insn := 0, ea := 0x40001000, pa := 0x40001000, v1 := 0, v2 := 0, deadline := some 100, order := 3, issue := 3 } }) with
    waiters := [(4, { lane := r0, kind := .deq, pa := 0x40001000, localTo := 0 })] }
/-- A host window on the queue. -/
def windowed (q : QBlock) : State := { queue q with windows := [(2, { grid := 1, ctl := 0x40001000, drops := 7 })] }
theorem witness_QueueElements : ((queue q1).isHelper r0 = false ∧ Uncached (queue q1) ∧ (queue q1).waiters = [] ∧ (queue q1).bad = []
      ∧ (queue q1).marks = [] ∧ Memory.wf (queue q1).mem = true ∧ isOkAt ((queue q1).queueCtl r0 (xs 8 2 0 255 4 6)) 0x40001000 = true
      ∧ (queue q1).queueAt 0x40001000 q1 ∧ ((queue q1).gridOf 1).det = false ∧ ((queue q1).team 1).grid ≠ 0 ∧ (queue q1).commits = [])
    ∧ (Alone (.enq (xs 0 2 4 255 4 6)) (xs 0 2 4 255 4 6) r0 (queue q1) ∧ (queue q1).badReads r0 ((queue q1).uses r0 (.enq (xs 0 2 4 255 4 6))).reads = (none, none)
      ∧ runFits ((queue q1).gridOf 1) 4 2 = true
      ∧ (∀ k, k < 2 → ((queue q1).tlbHit 1 (q1.slotAddr 1 + 4 * k)).isSome = true ∧ isHost (0x40002008 + 4 * k) = false
          ∧ (queue q1).place 1 (q1.slotAddr 1 + 4 * k) 1 = .mem (0x40002008 + 4 * k) none))
    ∧ (Alone (.deq (xs 8 2 0 255 4 6)) (xs 8 2 0 255 4 6) r0 (queue q1) ∧ q1.visible ≠ 0
      ∧ (∀ k, k < 2 → (queue q1).place 1 (q1.slotAddr q1.head + 4 * k) 1 = .mem (0x40002000 + 4 * k) none)
      ∧ Alone (.deq (xs 8 2 0 10 4 6)) (xs 8 2 0 10 4 6) r0 (queue q0) ∧ Alone (.deq (xs 8 2 0 255 4 7)) (xs 8 2 0 255 4 7) r0 (queue q0)
      ∧ q0.visible = 0 ∧ q0.state = 0)
    ∧ ((queue q4).queueAt 0x40001000 q4 ∧ Alone (.enq (xs 0 2 4 10 4 6)) (xs 0 2 4 10 4 6) r0 (queue q4) ∧ Alone (.enq (xs 0 2 4 255 4 7)) (xs 0 2 4 255 4 7) r0 (queue q4)
      ∧ (queue qc).queueAt 0x40001000 qc ∧ Alone (.deq (xs 8 2 0 255 4 6)) (xs 8 2 0 255 4 6) r0 (queue qc) ∧ Alone (.enq (xs 0 2 4 255 4 6)) (xs 0 2 4 255 4 6) r0 (queue qc)
      ∧ Alone (.enq (xs 0 2 4 255 4 0)) (xs 0 2 4 255 4 0) r0 (queue qc))
    ∧ (Alone (.enq (xs 0 2 4 255 4 0)) (xs 0 2 4 255 4 0) r0 (inDet (queue q1)) ∧ Alone (.deq (xs 8 2 0 255 3 7)) (xs 8 2 0 255 3 7) r0 (inDet (queue q1))
      ∧ Alone (.deq (xs 8 2 0 10 3 0)) (xs 8 2 0 10 3 0) r0 (inDet (queue q1)) ∧ ((inDet (queue q1)).gridOf 1).det = true ∧ HandlerReady (inDet (queue q1)) r0
      ∧ (inDet (queue q1)).badReads r0 ((inDet (queue q1)).uses r0 (.enq (xs 0 2 4 255 4 0))).reads = (none, none) ∧ (inDet (queue q1)).isHelper r0 = false)
    ∧ ((Tab.find reserved.commits 5).isSome = true ∧ reserved.migrations = [] ∧ Uncached reserved ∧ reserved.waiters = []
      ∧ reserved.queueAt 0x40001000 { q0 with resv := 1, free := 3 } ∧ (Tab.find reserved.ops 6).isSome = true)
    ∧ (∀ b ∈ [0, 3], (match ((expired b).lane r0).cond with
          | .held h => h.kind == .deq && h.deadline == some 100 && h.x.md.toNat / 2 == b && (expired b).mates r0 h.order == [r0] | _ => false) = true)
    ∧ ((expired 0).waiters.length = 1 ∧ HandlerReady (expired 0) r0)
    ∧ ((Tab.find (windowed q1).windows 2).isSome = true ∧ isOkAt ((windowed q1).queuePlace 1 0x40001000 1) 0x40001000 = true
      ∧ isOkAt ((windowed q1).queuePlace 1 0x40001000 0) 0x40001000 = true ∧ (windowed q1).queueAt 0x40001000 q1 ∧ q1.state = 0 ∧ q1.esize = 8) := by
  unfold Alone Undisturbed Uncached HandlerReady State.queueAt; and_intros <;> decide +kernel
theorem test_queue_elements : (let t := after (exec (.enq (xs 0 2 4 255 4 6)) (queue q1))
      memGetN t.mem 0x40002008 8 == [0, 0x20, 0, 0x40, 0, 0, 0, 0] && memGetN t.mem 0x40001000 64 == leBytes 64 (qEncode { q1 with resv := 1, free := 2 })
        && t.commits.map (fun e => e.2.index) == [1]) = true
    ∧ (let t := after (exec (.deq (xs 8 2 0 255 4 6)) (queue q1))
      done (queue q1) t (xs 8 2 0 255 4 6) [(8, 0x04030201#32), (9, 0x08070605#32)] [(3, true)]
        && memGetN t.mem 0x40001000 64 == leBytes 64 (qEncode { q1 with head := 1, free := 4 })) = true
    ∧ (match ((after (exec (.deq (xs 8 2 0 10 4 6)) (queue q0))).lane r0).cond with | .held h => h.deadline == some 105 | _ => false) = true
    ∧ fails (queue q0) (.deq (xs 8 2 0 255 4 7)) (xs 8 2 0 255 4 7) [(8, 1#32)] = true
    ∧ fails (queue qc) (.deq (xs 8 2 0 255 4 6)) (xs 8 2 0 255 4 6) [(8, 3#32)] = true ∧ fails (queue q4) (.enq (xs 0 2 4 255 4 7)) (xs 0 2 4 255 4 7) [] = true
    ∧ fails (queue qc) (.enq (xs 0 2 4 255 4 6)) (xs 0 2 4 255 4 6) [] = true := by decide +kernel
theorem test_queue_holds_and_faults : (match ((after (exec (.enq (xs 0 2 4 10 4 6)) (queue q4))).lane r0).cond with | .held h => h.deadline == some 105 | _ => false) = true
    ∧ (after (exec (.enq (xs 0 2 4 255 4 0)) (queue qc))).ops.map (fun e => e.2.late.map FaultInfo.code) = [some 0x14]
    ∧ (∀ i ∈ [Instr.enq (xs 0 2 4 255 4 0), .deq (xs 8 2 0 255 3 7), .deq (xs 8 2 0 10 3 0)],
        parked (inDet (queue q1)) (after (exec i (inDet (queue q1)))) 0x19 0 0 = true) := by decide +kernel
theorem test_queue_ends : (let t := after (exec (.commit 5) reserved)
      memGetN t.mem 0x40001000 64 == leBytes 64 (qEncode q1) && t.ops.map (fun e => e.2.wait) == [.ready]) = true
    ∧ (let t := after (exec (.timeout r0) (expired 3)); t.reg r0 8 == 2#32 && (t.lane r0).cond == .running && t.waiters == []) = true
    ∧ ((after (exec (.timeout r0) (expired 0))).lane r0).faultCode = 0x13
    ∧ (let t := after (exec (.qwData 2 0 (.store [9, 9, 9, 9, 8, 8, 8, 8])) (windowed q1))
      memGetN t.mem 0x40002008 8 == [9, 9, 9, 9, 8, 8, 8, 8] && memGetN t.mem 0x40001000 64 == leBytes 64 (qEncode { q1 with tail := 2, free := 2 })) = true
    ∧ (after (exec (.qwData 2 4 (.store [1])) (windowed q1))).windows.map (fun e => e.2.drops) = [8]
    ∧ (after (exec (.qwData 2 0x800 (.load 4)) (windowed q1))).outgoing = [.aperture [3, 0, 0, 0]] := by decide +kernel
/-- The team's grid has a table of 2 dimensions at 2^30 + 0x3000, dimension 2 cached; v2 is the index i and v4 the dimension d. -/
def points (i d seed : Nat) : State :=
  { inTeam (inGrid (regs one [(2, BitVec.ofNat 32 i), (4, BitVec.ofNat 32 d), (6, 0x80000000#32), (130, 0x40003000#32), (132, 2#32)])
      (fun g => { g with qtabP := 0x40003000, qtabN := 2 })) (fun t => { t with qseed := BitVec.ofNat 33 seed }) with
    qcache := [(0, 1, 2, (List.range 32).map (fun k => 2 ^ k)), (0, 9, 2, [])] }
/-- The address of the new table is no multiple of 128. -/
def askew : State := regs (points 1 0 0) [(130, 0x40003004#32)]
theorem witness_PrickerPoints : (Alone (.qrnd (xs 8 2 4 0 0 0)) (xs 8 2 4 0 0 0) r0 (points 1 0 0) ∧ Alone (.qrndf (xs 8 2 4 0 0 0)) (xs 8 2 4 0 0 0) r0 (points 1 2 0)
      ∧ Alone (.qbern (xs 1 2 4 6 0 0)) (xs 1 2 4 6 0 0) r0 (points 1 1 0) ∧ Alone (.qrnd2 (xs 8 2 4 0 0 0)) (xs 8 2 4 0 0 0) r0 (points 1 1 0)
      ∧ (points 1 2 0).cachedDir 0 1 2 = some ((List.range 32).map (fun k => 2 ^ k)) ∧ ((points 1 1 0).team 1).gcore = 0
      ∧ ((points 1 1 0).gridOf 1).qtabN = 2 ∧ ((points 1 1 0).qcache.filter (fun e => e.1 == 0)).length ≤ 64)
    ∧ (Alone (.qrnd2 (xs 8 2 4 0 0 0)) (xs 8 2 4 0 0 0) r0 (points 1 3 0) ∧ HandlerReady (points 1 3 0) r0 ∧ ((points 1 3 0).reg r0 4).toNat = 3
      ∧ Alone (.qbern (xs 1 2 4 6 0 0)) (xs 1 2 4 6 0 0) r0 (points 1 4 0))
    ∧ (Alone (.qldt (xs 0 130 132 0 0 0)) (xs 0 130 132 0 0 0) r0 (points 1 0 0) ∧ (points 1 0 0).isHelper r0 = false ∧ (points 1 0 0).cur.formation = false
      ∧ (points 1 0 0).regRun r0 130 2 % 128 = 0 ∧ ((points 1 0 0).grid 1).det = false
      ∧ Alone (.qldt (xs 0 130 132 0 0 0)) (xs 0 130 132 0 0 0) r0 (regs (points 1 0 0) [(132, 4095#32)]) ∧ HandlerReady (regs (points 1 0 0) [(132, 4095#32)]) r0
      ∧ Alone (.qldt (xs 0 130 132 0 0 0)) (xs 0 130 132 0 0 0) r0 askew ∧ HandlerReady askew r0 ∧ askew.regRun r0 130 2 % 128 = 4 ∧ (askew.grid 1).det = false
      ∧ Alone (.qldt (xs 0 130 132 0 0 0)) (xs 0 130 132 0 0 0) r0 (inDet (points 1 0 0)) ∧ ((inDet (points 1 0 0)).grid 1).det = true
      ∧ HandlerReady (inDet (points 1 0 0)) r0)
    ∧ ((points 1 0 0).place 1 (((points 1 0 0).grid 1).qtabP + 128 * (3 - 2)) 0 = .mem 0x40003080 none ∧ Uncached (points 1 0 0) ∧ (points 1 0 0).bad = []) := by
  unfold Alone Undisturbed Uncached HandlerReady; and_intros <;> decide +kernel
/-- The worked point of R286, and points of the table of R281 with NOSCRAMBLE set. -/
theorem test_points : done (points 1 0 0) (after (exec (.qrnd (xs 8 2 4 0 0 0)) (points 1 0 0))) (xs 8 2 4 0 0 0) [(8, 0x8911DA17#32)] [] = true
    ∧ done (points 1 0 0) (after (exec (.qrndf (xs 8 2 4 0 0 0)) (points 1 0 0))) (xs 8 2 4 0 0 0) [(8, 0x3F0911DA#32)] [] = true
    ∧ done (points 1 0 0) (after (exec (.qbern (xs 1 2 4 6 0 0)) (points 1 0 0))) (xs 1 2 4 6 0 0) [] [(1, false)] = true
    ∧ done (points 13 0 (2 ^ 32)) (after (exec (.qrnd2 (xs 8 2 4 0 0 0)) (points 13 0 (2 ^ 32)))) (xs 8 2 4 0 0 0) [(8, 0xB0000000#32), (9, 0xD0000000#32)] [] = true := by
  decide +kernel
theorem test_tables : (let t := after (exec (.qldt (xs 0 130 132 0 0 0)) (points 1 0 0)); t.qcache.map (fun e => e.2.1) == [9] && (t.grid 1).qtabN == 2) = true
    ∧ ((after (exec (.qldt (xs 0 130 132 0 0 0)) (regs (points 1 0 0) [(132, 4095#32)]))).lane r0).faultCode = 0x16
    ∧ ((after (exec (.qldt (xs 0 130 132 0 0 0)) askew)).lane r0).faultCode = 4
    ∧ ((after (exec (.qrnd2 (xs 8 2 4 0 0 0)) (points 1 3 0))).lane r0).faultCode = 0x15
    ∧ ((after (exec (.tableFetch 0 1 3) ((points 1 0 0).poke 0x40003084 [5]))).cachedDir 0 1 3).map (fun v => (v.take 3, v.length)) = some ([0, 5, 0], 32) := by
  decide +kernel

/-! ### Tiles, the stash and command rings -/

/-- Entry 0 of core 0 is a tile of 2 chunks at offset 0x1000 of the region; s130 names an entry beyond 63, s131 is a request word, s136 one with reserved bit 8 set. -/
def tiled (t : Tile) : State :=
  { regs one [(130, 64#32), (131, 0x8002#32), (136, 0x8100#32), (2, 0x40000100#32), (4, 0x10#32), (8, 1#32)] with tiles := [(0, t)] }.poke 0x40000100 [1, 2, 3, 4, 5]
def tile0 : Tile := { Tile.zero with team := 1, size := 1, base := 8 }
/-- Every entry of core 0 is allocated. -/
def crowded : State := { tiled tile0 with tiles := (List.range 64).map (fun e => (e, tile0)) }
/-- Lane 0 is held in a TFREE of the entry. -/
def freeing : State := lane0 (tiled tile0) (fun x => { x with
  sb := [(2, 1)]
  cond := .held { kind := .tfree, x := xs 0 64 0 0 0 0, insn := 0, ea := 0, pa := 0, v1 := 0, v2 := 0, deadline := none, order := 3, issue := 3 } })
/-- Sixteen bytes are on their way to offset 0x200 of the tile, for an operation. -/
def landing : State :=
  { tiled { tile0 with state := 1 } with
    ops := [(6, { (tiled tile0).newOp r0 (xs 64 2 4 0 0 0) [] [] with wait := .landing 5 })]
    landings := [(5, { core := 0, entry := some 0, team := 1, g := 0, tag := 1, off := 0x200, data := List.replicate 16 7#8, closing := true,
                       op := some 6, cmd := none, order := 5 })] }
theorem witness_Tiles : (Alone (.talloc (xs 135 0 131 0 0 0)) (xs 135 0 131 0 0 0) r0 (tiled tile0) ∧ ((tiled tile0).reg r0 131).toNat = 0x8002
      ∧ (8 + 2) * 512 ≤ (tiled tile0).regionSize 1 ∧ (List.range 64).find? (fun e => (Tab.find (tiled tile0).tiles (tileKey 0 e)).isNone) = some 1
      ∧ Alone (.talloc (xs 135 0 131 0 0 0)) (xs 135 0 131 0 0 0) r0 crowded ∧ (∀ e, e < 64 → (Tab.find crowded.tiles (tileKey 0 e)).isSome = true)
      ∧ Alone (.talloc (xs 135 0 131 0 0 1)) (xs 135 0 131 0 0 1) r0 (tiled tile0) ∧ (tiled tile0).holdsLast 1 = false ∧ HandlerReady (tiled tile0) r0
      ∧ Alone (.talloc (xs 135 0 136 0 0 0)) (xs 135 0 136 0 0 0) r0 (tiled tile0))
    ∧ ((tiled tile0).tileName r0 64 = some 0 ∧ (tiled tile0).heldTile 1 0 = some tile0 ∧ Alone (.tfree (xs 0 64 0 0 0 0)) (xs 0 64 0 0 0 0) r0 (tiled tile0)
      ∧ (tiled tile0).landings = [] ∧ ((tiled tile0).team 1).ring.started = []
      ∧ Alone (.tfree (xs 0 64 0 0 0 0)) (xs 0 64 0 0 0 0) r0 (tiled { tile0 with users := 1 })
      ∧ Alone (.tstate (xs 135 64 0 0 0 0)) (xs 135 64 0 0 0 0) r0 (tiled tile0) ∧ (tiled tile0).regRun r0 8 4 = 1 ∧ (1 < 2 ^ (tile0.size + 1))
      ∧ Alone (.twait (xs 0 64 8 0 0 0)) (xs 0 64 8 0 0 0) r0 (tiled { tile0 with bitmap := 1 })
      ∧ Alone (.twait (xs 0 64 8 0 0 0)) (xs 0 64 8 0 0 0) r0 (tiled tile0))
    ∧ ((tiled tile0).tileName r0 127 = some 63 ∧ (tiled tile0).heldTile 1 63 = none ∧ Alone (.tstate (xs 135 127 0 0 0 0)) (xs 135 127 0 0 0 0) r0 (tiled tile0)
      ∧ Alone (.twait (xs 0 127 8 0 0 0)) (xs 0 127 8 0 0 0) r0 (tiled tile0) ∧ (tiled tile0).tileName r0 130 = none
      ∧ Alone (.tstate (xs 135 130 0 0 0 0)) (xs 135 130 0 0 0 0) r0 (tiled tile0))
    ∧ (Tab.find freeing.tiles 0 = some tile0 ∧ freeing.landings = [] ∧ (match (freeing.lane r0).cond with | .held h => h.kind == .tfree && h.ea == 0 | _ => false) = true)
    ∧ (Alone (.acp16 (xs 64 2 4 0 0 0)) (xs 64 2 4 0 0 0) r0 (tiled tile0) ∧ Alone (.acps16 (xs 64 2 4 0 0 0)) (xs 64 2 4 0 0 0) r0 (tiled tile0)
      ∧ Uncached (tiled tile0) ∧ (tiled tile0).l1 = [] ∧ ((tiled tile0).reg r0 4).toNat % 16 = 0
      ∧ (match (tiled tile0).wordPlaces 1 0x40000100 with | .ok l => l == [0x40000100, 0x40000104, 0x40000108, 0x4000010C] | _ => false) = true)
    ∧ (landing.landings.length = 1 ∧ (Tab.find landing.ops 6).isSome = true ∧ Tab.find landing.tiles (tileKey 0 0) = some { tile0 with state := 1 }
      ∧ (landing.team 1).tag = 1 ∧ Uncached landing ∧ landing.waiters = [] ∧ Memory.wf (landing.team 1).localMem = true ∧ landing.tileWaiters 0 = []) := by
  unfold Alone Undisturbed Uncached HandlerReady; and_intros <;> decide +kernel
theorem witness_Tiles_single : Single (tiled tile0) r0 ∧ Single freeing r0 := ⟨⟨_, _, _, rfl, rfl, rfl⟩, ⟨_, _, _, rfl, rfl, rfl⟩⟩
theorem test_tiles : (let t := after (exec (.talloc (xs 135 0 131 0 0 0)) (tiled tile0))
      done (tiled tile0) t (xs 135 0 131 0 0 0) [(135, 1#32)] [] && Tab.find t.tiles 1 == some { tile0 with base := 8 }) = true
    ∧ (after (exec (.talloc (xs 135 0 131 0 0 0)) crowded)).ops.map (fun e => e.2.writes) = [[(135, 0xFFFFFFFF#32)]]
    ∧ (after (exec (.tfree (xs 0 64 0 0 0 0)) (tiled tile0))).tiles = [] ∧ (after (exec (.tileEntryFree r0) freeing)).tiles = []
    ∧ ((after (exec (.tfree (xs 0 127 0 0 0 0)) (tiled tile0))).lane r0).faultCode = 0x0B
    ∧ ((after (exec (.talloc (xs 135 0 136 0 0 0)) (tiled tile0))).lane r0).faultCode = 0x0C := by decide +kernel
theorem test_tile_copies : (let t := after (exec (.acp16 (xs 64 2 4 0 0 0)) (tiled tile0))
      t.landings.map (fun e => (e.2.off, e.2.data.take 6)) == [(0x10, [1, 2, 3, 4, 5, 0])] && t.tiles == [(0, { tile0 with state := 1 })]) = true
    ∧ (let t := after (exec (.tileLanding 5) landing)
      storedLocal landing t 0x1200 (List.replicate 16 7) && t.tiles.map (fun e => (e.2.bitmap, e.2.state)) == [(2, 1)]
        && t.ops.map (fun e => e.2.wait) == [.ready]) = true := by decide +kernel
/-- Lane 0 names the range of n bytes at offset 0x200, for the line at 2^30 + 0x400; the team's mappings. -/
def stashed (ms : List Mapping) : State :=
  (inTeam (regs one [(130, 0x200#32), (132, 0x40000400#32), (134, 256#32)]) (fun t => { t with stash := ms })).pokeLocal 1 0x240 [9, 8, 7]
def map0 : Mapping := { laddr := 0x200, gaddr := 0x40000400, len := 256, sectors := [] }
theorem witness_Stash : (Alone (.smap (xs 0 130 132 134 0 0)) (xs 0 130 132 134 0 0) r0 (stashed []) ∧ 0x200 + 256 ≤ (stashed []).regionSize 1
      ∧ (stashed []).coreMappings 0 < 32 ∧ ((stashed []).reg r0 130).toNat = 0x200 ∧ ((stashed []).reg r0 134).toNat = 256
      ∧ (stashed []).reg64 r0 132 = 0x40000400
      ∧ Alone (.smap (xs 0 130 132 134 0 0)) (xs 0 130 132 134 0 0) r0 (stashed [map0]) ∧ HandlerReady (stashed [map0]) r0)
    ∧ (Alone (.sunmap (xs 0 130 0 134 0 0)) (xs 0 130 0 134 0 0) r0
        (stashed [{ map0 with sectors := (List.range 4).map (fun k => (k, .clean (0x40000400 + 64 * k))) }]))
    ∧ (Alone (.sflush (xs 0 130 0 134 0 0)) (xs 0 130 0 134 0 0) r0 (stashed [{ map0 with sectors := [(1, .dirty 0x40000440)] }])
      ∧ (stashed [map0]).place 1 0x40000440 1 = .mem 0x40000440 none ∧ ((stashed [map0]).team 1).localBad = [] ∧ Memory.wf (stashed [map0]).mem = true)
    ∧ Alone (.sinv (xs 0 130 0 134 0 0)) (xs 0 130 0 134 0 0) r0 (stashed [{ map0 with sectors := [(1, .dirty 0x40000440)] }]) := by
  unfold Alone Undisturbed HandlerReady; and_intros <;> decide +kernel
theorem test_stash : ((after (exec (.smap (xs 0 130 132 134 0 0)) (stashed []))).team 1).stash = [map0]
    ∧ ((after (exec (.smap (xs 0 130 132 134 0 0)) (stashed [map0]))).lane r0).faultCode = 0x0A
    ∧ (let t := after (exec (.sflush (xs 0 130 0 134 0 0)) (stashed [{ map0 with sectors := [(1, .dirty 0x40000440)] }]))
      memGetN t.mem 0x40000440 4 == [9, 8, 7, 0] && (t.team 1).stash == [{ map0 with sectors := [(1, .clean 0x40000440)] }]) = true
    ∧ (let t := after (exec (.sinv (xs 0 130 0 134 0 0)) (stashed [{ map0 with sectors := [(1, .dirty 0x40000440)] }])); (t.team 1).stash == [map0] && t.mem == (stashed []).mem) = true
    ∧ ((after (exec (.sunmap (xs 0 130 0 134 0 0)) (stashed [{ map0 with sectors := (List.range 4).map (fun k => (k, .clean (0x40000400 + 64 * k))) }]))).team 1).stash = [] := by
  decide +kernel
/-- A team with a ring of 4 entries, one of them published, of which these are the words; `tail` is what its TAIL word holds. -/
def ringed (tail w0 w1 w2 : Nat) : State :=
  ((inTeam (inGrid one (fun g => { g with regs := 128 + 2 * 256 })) (fun t => { t with ring := { t.ring with tail := 1 } })).pokeLocal 1 0
    (leBytes 4 tail)).pokeLocal 1 64 (leBytes 8 w0 ++ leBytes 8 w1 ++ leBytes 8 w2)
/-- Command 0 of the ring has started and has delivered everything. -/
def started (failed : Bool) : State :=
  inTeam (ringed 1 0 0 0) (fun t => { t with ring := { t.ring with
    head := 1
    started := [{ index := 0, w0 := 1, w1 := 0, w2 := 0, w3 := 0, ranges := [], members := [], failed := failed, complete := false }] } })
/-- Bytes of command 0 are on their way to offset 0x300 of the region. -/
def arriving : State :=
  { started false with landings := [(5, { core := 0, entry := none, team := 1, g := 0, tag := 1, off := 0x300, data := [1, 2, 3, 4], closing := false, op := none,
                                          cmd := some (1, 0), order := 5 })] }
/-- Word 0 of a one-row entry of 8 bytes of a kind (R193). -/
def row8 (kind : Nat) : Nat := 8 * 2 ^ 44 + kind
/-- Kinds 1 to 5 between 2^30 + 0x500, or local 0x280, and local 0x300, the last of them filling with 0xA1B2C3D4. -/
def moves (kind : Nat) : State :=
  (ringed 1 (row8 kind) (if kind = 5 then 0xA1B2C3D4 else if kind = 3 then 0x280 else 0x40000500) 0x300).poke 0x40000500 [1, 2, 3, 4, 5, 6, 7, 8]
theorem witness_CommandRings : (∀ s ∈ [ringed 1 0 0 0, ringed 9 0 0 0, started true, arriving, moves 5], s.ringLive 1 = true ∧ (s.team 1).localBad = []
        ∧ s.waiters = [] ∧ s.bad = [] ∧ (Tab.find s.teams 1).isSome = true ∧ Memory.wf (s.team 1).localMem = true ∧ Memory.wf s.mem = true)
    ∧ (Uncached (moves 1) ∧ Uncached (started true))
    ∧ (leNat (memGetN ((ringed 9 0 0 0).team 1).localMem 0 4) = 9 ∧ bit ((ringed 9 0 0 0).team 1).ring.err 31 = false)
    ∧ (∀ k ∈ [1, 2, 3, 4, 5], ((moves k).team 1).ring.head ≠ ((moves k).team 1).ring.tail ∧ ((moves k).team 1).ring.started = []
        ∧ (let e := entryOf (row8 k) (if k = 5 then 0xA1B2C3D4 else if k = 3 then 0x280 else 0x40000500) 0x300 0
           e.formed = true ∧ e.aligned = true ∧ e.tv = false ∧ e.rows = 1 ∧ e.len = 8 ∧ e.kind = k)
        ∧ (moves k).rowPlace 1 0x300 8 true = some (1, 0x300) ∧ (moves k).rowPlace 1 0x300 8 false = some (1, 0x300)
        ∧ (moves k).rowPlace 1 0x280 8 false = some (1, 0x280))
    ∧ (6 ≤ (entryOf 6 0 0 0).kind)
    ∧ (∀ k, k < 2 → (moves 1).place 1 (0x40000500 + 4 * k) 0 = .mem (0x40000500 + 4 * k) none
        ∧ ((moves 2).tlbHit 1 (0x40000500 + 4 * k)).isSome = true ∧ (moves 2).place 1 (0x40000500 + 4 * k) 1 = .mem (0x40000500 + 4 * k) none)
    ∧ (((moves 4).gridOf 1).gangSize = 1 ∧ (moves 4).gangMember 1 0 = some 1 ∧ ((moves 4).team 1).gate = true)
    ∧ (arriving.landings.length = 1 ∧ (arriving.team 1).tag = 1)
    ∧ (∀ b, ((started b).team 1).ring.started.map (fun c => (c.index, c.complete, c.failed)) = [(0, false, b)] ∧ ((started b).team 1).ring.done = 0
        ∧ (started b).landings = [] ∧ (started b).sent = []) := by
  unfold Uncached; and_intros <;> decide +kernel
theorem test_ring_moves : (let t := after (exec (.fill 1) (moves 5))
      t.landings.map (fun e => (e.2.off, e.2.data)) == [(0x300, [0xD4, 0xC3, 0xB2, 0xA1, 0xD4, 0xC3, 0xB2, 0xA1])] && (t.team 1).ring.head == 1
        && memGetN (t.team 1).localMem 4 4 == [1, 0, 0, 0]) = true
    ∧ (after (exec (.copyin 1) (moves 1))).landings.flatMap (fun e => e.2.data) = [1, 2, 3, 4, 5, 6, 7, 8]
    ∧ (after (exec (.mcastin 1) (moves 4))).landings.flatMap (fun e => e.2.data) = [1, 2, 3, 4, 5, 6, 7, 8]
    ∧ (after (exec (.copylocal 1) ((moves 3).pokeLocal 1 0x280 [5, 6]))).landings.flatMap (fun e => e.2.data) = [5, 6, 0, 0, 0, 0, 0, 0]
    ∧ memGetN (after (exec (.copyout 1) ((moves 2).pokeLocal 1 0x300 [5, 6]))).mem 0x40000500 9 = [5, 6, 0, 0, 0, 0, 0, 0, 0] := by decide +kernel
/-- Two rows of 8 bytes, 16 bytes apart, between offset 0x20 of tile 0 and 2^30 + 0x500 or local 0x280, with REARM or without; a COPYOUT is of one row,
with CLR. -/
def tileMoves (kind rearm : Nat) (y : Tile) : State :=
  { ((ringed 1 (row8 kind + 2 ^ 21 + (if kind = 2 then 2 ^ 20 else rearm * 2 ^ 18 + 2 ^ 28)) (if kind = 5 then 7 else if kind = 3 then 0x280 else 0x40000500)
      (0x1020 + 16 * 2 ^ 32)).pokeLocal 1 88 (leBytes 8 (if kind = 5 then 0 else 16))).poke 0x40000500 [1, 2, 3, 4, 5, 6, 7, 8] with tiles := [(0, y)] }
/-- The entry of that ring. -/
def tileEntry (kind rearm : Nat) : Entry :=
  let w (k : Nat) : Nat := leNat (memGetN ((tileMoves kind rearm tile0).team 1).localMem (64 + 8 * k) 8)
  entryOf (w 0) (w 1) (w 2) (w 3)
theorem witness_CommandRings_tiles : (∀ k ∈ [1, 2, 3, 5], (tileMoves k 1 tile0).ringLive 1 = true ∧ (tileEntry k 1).formed = true ∧ (tileEntry k 1).aligned = true
        ∧ (tileEntry k 1).tv = true ∧ (tileEntry k 1).len = 8 ∧ (tileEntry k 1).kind = k ∧ (tileMoves k 1 tile0).heldTile 1 0 = some tile0)
    ∧ (∀ k ∈ [1, 3, 5], (tileEntry k 1).rows = 2 ∧ (tileEntry k 1).rearm = true ∧ (tileEntry k 0).rearm = false
        ∧ (tileMoves k 1 tile0).entryRows 1 (tileEntry k 1) (some tile0) = some [.tile 0x20, .tile 0x30])
    ∧ (tileMoves 2 0 tile0).entryRows 1 (tileEntry 2 0) (some tile0) = some [.tile 0x20] ∧ (tileEntry 2 0).rows = 1
    ∧ ({ tileMoves 1 1 tile0 with tiles := [] } : State).heldTile 1 0 = none
    ∧ (∀ j, j < 2 → ∀ k, k < 2 → (tileMoves 1 1 tile0).place 1 (((tileEntry 1 1).grow j).toNat + 4 * k) 0 = .mem (0x40000500 + 16 * j + 4 * k) none)
    ∧ (∀ j, j < 2 → (tileMoves 3 1 tile0).rowPlace 1 ((tileEntry 3 1).grow j) 8 false = some (1, 0x280 + 16 * j))
    ∧ (started false).landings = [] ∧ bits (2 ^ 21 + 2) 3 0 = 2 ∧ bit (2 ^ 21 + 2) 21 = true := by and_intros <;> decide +kernel
/-- A COPYOUT of tile 0 that is about to end. -/
def draining (clr : Bool) : State :=
  inTeam { started false with tiles := [(0, { tile0 with state := 3, drains := 1, clr := clr })] } (fun t => { t with ring := { t.ring with
    started := t.ring.started.map (fun c => { c with w0 := 2 ^ 21 + 2 }) } })
theorem test_ring_tiles : (let t := after (exec (.copyin 1) (tileMoves 1 1 { tile0 with state := 2, bitmap := 3 }))
      t.landings.map (fun e => (e.2.entry, e.2.off, e.2.data)) == [(some 0, 0x20, [1, 2, 3, 4, 5, 6, 7, 8]), (some 0, 0x30, [0, 0, 0, 0, 0, 0, 0, 0])]
        && t.tiles.map (fun e => (e.2.state, e.2.bitmap)) == [(1, 0)]) = true
    ∧ ((after (exec (.fill 1) (tileMoves 5 0 { tile0 with state := 2 }))).team 1).ring.err = 0x80040000
    ∧ decide (after (exec (.copylocal 1) (tileMoves 3 0 { tile0 with state := 3 })) = tileMoves 3 0 { tile0 with state := 3 }) = true
    ∧ (let t := after (exec (.copyout 1) ((tileMoves 2 0 { tile0 with state := 2 }).pokeLocal 1 0x1020 [9, 8]))
      t.tiles.map (fun e => (e.2.state, e.2.drains, e.2.clr)) == [(3, 1, true)] && memGetN t.mem 0x40000500 4 == [9, 8, 0, 0]) = true
    ∧ (after (exec (.commandCompletion 1 0) (draining true))).tiles.map (fun e => (e.2.state, e.2.drains)) = [(0, 0)]
    ∧ (after (exec (.commandCompletion 1 0) (draining false))).tiles.map (fun e => (e.2.state, e.2.drains)) = [(2, 0)] := by decide +kernel
theorem test_ring_ends : ((after (exec (.tailObservation 1) (ringed 3 0 0 0))).team 1).ring.tail = 3
    ∧ ((after (exec (.tailObservation 1) (ringed 9 0 0 0))).team 1).ring.err = 0x80060000
    ∧ ((after (exec (.ringNop 1) (ringed 1 6 0 0))).team 1).ring.err = 0x80010000
    ∧ memGetN ((after (exec (.tileLanding 5) arriving)).team 1).localMem 0x300 5 = [1, 2, 3, 4, 0]
    ∧ (let t := after (exec (.commandCompletion 1 0) (started false)); ((t.team 1).ring.done, memGetN (t.team 1).localMem 8 4)) = (1, [1, 0, 0, 0])
    ∧ (let t := after (exec (.commandCompletion 1 0) (started true)); ((t.team 1).ring.done, (t.team 1).ring.started)) = (0, []) := by decide +kernel

/-! ### The Last and the Treadle -/

/-- The team's gang holds the Last of its cluster; v2 is 0x8105, a control word, v4 0, s130:s131 the extents 2 and 3, s132 no binding. -/
def held_ (l : Last) : State :=
  { regs one [(2, 0x105#32), (130, 0x20001#32), (5, 1#32)] with
    lasts := [(0, { l with holder := some (1, 0) })]
    tiles := [(3, { Tile.zero with team := 1, kind := true, size := 127 })] }
/-- A request of lane 0. -/
def req (k : ReqKind) (x : XForm) (ctl : Nat) (acc : Bool) : Req :=
  { kind := k, x := x, team := 1, g := 0, quarter := 0, lanes := [r0], ctl := ctl, ctls := [(ctl, 0)], src := (0, 524288, 0), scale := (0, 0, 0),
    gen := 0, prio := 0, accepted := acc, at_ := 50, phase := 0, issue := 3, pc := programBase, insn := 0, res := false }
/-- A posted request, its lane held in it. -/
def posted (q : Req) : State :=
  lane0 (held_ { Last.zero with table := [(5, q)] }) (fun x => { x with
    sb := [(2, 1)]
    cond := .held { kind := .request, x := q.x, insn := 0, ea := 0, pa := 0, v1 := 5, v2 := 0, deadline := none, order := 3, issue := 5 } })
/-- An accepted request with its operation in flight. -/
def running (l : Last) (q : Req) (ws : List (Nat × Word)) : State :=
  { held_ { l with table := [(5, q)] } with ops := [(6, { one.newOp r0 q.x ws [] with wait := .request 0 5 })] }
/-- Both forms of source: operand buffer 0, and tile 3 while it is empty. -/
theorem witness_MatrixRequests : ((held_ Last.zero).isHelper r0 = false ∧ (held_ Last.zero).holdsLast 1 = true
      ∧ Alone (.lswap (xs 0 0 0 0 0 0)) (xs 0 0 0 0 0 0) r0 (held_ Last.zero) ∧ Alone (.mstat (xs 8 0 0 0 0 0)) (xs 8 0 0 0 0 0) r0 (held_ Last.zero)
      ∧ Alone (.mzero (xs 16 0 2 0 0 0)) (xs 16 0 2 0 0 0) r0 (held_ Last.zero)
      ∧ Alone (.mdrn (xs 8 16 2 4 2 0)) (xs 8 16 2 4 2 0) r0 (held_ Last.zero) ∧ ((held_ Last.zero).reg r0 2).toNat % 2 ^ 7 + 4 ≤ 128
      ∧ ((held_ Last.zero).gridOf 1).det = false ∧ bit ((held_ Last.zero).reg r0 2).toNat 7 = false)
    ∧ ((held_ Last.zero).matSource r0 0 = some (0, 524288, 0) ∧ (held_ Last.zero).matSource r0 255 = some (0, 0, 0)
      ∧ (held_ Last.zero).matSource r0 67 = some (0, 65536, 4)
      ∧ (held_ Last.zero).sourceReady 1 (0, 524288, 0) = true ∧ (held_ Last.zero).sourceReady 1 (0, 65536, 4) = false
      ∧ Alone (.last (xs 0 0 255 0 2 0)) (xs 0 0 255 0 2 0) r0 (held_ Last.zero) ∧ slotMx (((held_ Last.zero).gridOf 1).slot 2) = false
      ∧ Alone (.last (xs 0 67 255 0 2 0)) (xs 0 67 255 0 2 0) r0 (held_ Last.zero)
      ∧ Alone (.mstr (xs 16 0 2 255 2 0)) (xs 16 0 2 255 2 0) r0 (held_ Last.zero))
    ∧ (one.holdsLast 1 = false ∧ HandlerReady one r0 ∧ Alone (.mstat (xs 8 0 0 0 0 0)) (xs 8 0 0 0 0 0) r0 one)
    ∧ (∀ k ∈ [ReqKind.last, .lswap, .mstat, .mzero, .mdrn], ((posted (req k (xs 16 16 2 4 2 0) 0x105 false)).last 0).table =
        [(5, req k (xs 16 16 2 4 2 0) 0x105 false)])
    ∧ (bits 0x105 31 15 = 0 ∧ bit 0x105 7 = false ∧ ctlRow 0x105 + ctlLow 0x105 ≤ 127 ∧ ¬ ctlRow 0x7F01 + ctlLow 0x7F01 ≤ 127)
    ∧ ((match (posted (req .mstr (xs 16 0 2 255 2 0) 0x105 false)).mstrCheck ((posted (req .mstr (xs 16 0 2 255 2 0) 0x105 false)).last 0)
          (req .mstr (xs 16 0 2 255 2 0) 0x105 false) with | .ok _ => true | _ => false) = true
      ∧ (posted (req .mdrn (xs 8 16 2 4 2 0) 0x105 false)).drainFault (req .mdrn (xs 8 16 2 4 2 0) 0x105 false) r0 0 = none)
    ∧ HandlerReady (posted (req .mzero (xs 16 0 2 0 0 0) 0x7F01 false)) r0 := by
  unfold Alone Undisturbed HandlerReady; and_intros <;> decide +kernel
theorem test_matrix_requests : (let t := after (exec (.mzero (xs 16 0 2 0 0 0)) (held_ Last.zero))
      (t.last 0).table.map (fun e => (e.2.kind, e.2.ctl, e.2.accepted)) == [(.mzero, 0x105, false)]) = true
    ∧ decide (after (exec (.last (xs 0 67 255 0 2 0)) (held_ Last.zero)) = held_ Last.zero) = true
    ∧ ((after (exec (.mstat (xs 8 0 0 0 0 0)) one)).lane r0).faultCode = 0x0B
    ∧ (let t := after (exec (.requestAcceptance 0) (posted (req .lswap (xs 0 0 0 0 0 0) 0 false)))
      (t.lane r0).cond == .running && (t.last 0).gl == 1 && t.ops.map (fun e => e.2.wait) == [.request 0 5]) = true
    ∧ ((after (exec (.requestAcceptance 0) (posted (req .mzero (xs 16 0 2 0 0 0) 0x7F01 false)))).lane r0).faultCode = 0x0C := by decide +kernel
/-- Accumulator row 1 of tile 0 holds 1.0 in columns 5 and 6. -/
def acc0 : Last := { Last.zero with acc := [(133, 0x3F800000), (134, 0x3F800000)], shv := true, gl := 1 }
theorem witness_MatrixEngine : (∀ k ∈ [ReqKind.last, .lswap, .mstr, .mzero, .mdrn, .mstat],
      (let s := running acc0 (req k (xs 16 16 2 4 2 0) 0x105 true) [(16, 0#32)]
       (s.last 0).table = [(5, req k (xs 16 16 2 4 2 0) 0x105 true)] ∧ s.ops.map (fun e => (e.2.wait, e.2.lane)) = [(.request 0 5, r0)]
         ∧ (∀ e ∈ s.ops, e.2.late = none ∧ e.2.phase = 0 ∧ e.2.writes ≠ []) ∧ (s.last 0).mbBad = []))
    ∧ ctlRow 0x105 + 0 % 8 < 128 ∧ (req .mstr (xs 16 0 2 255 2 0) 0x105 true).res = false
    ∧ (∀ e ∈ (req .mzero (xs 16 0 2 0 0 0) 0x105 true).rows, e.2 < 128)
    ∧ bit (xs 16 16 2 4 2 0).md.toNat 0 = false
    ∧ (let q := req .mdrn (xs 8 16 2 2 2 0) 0x105 true
       let s := running acc0 q [(8, 0#32)]
       ∀ e ∈ s.drainElements (s.last 0) q 0x105, e.trap = false) := by decide +kernel
/-- MZERO of rows 1 to 6; MDRN of columns 5 and 6 of row 1 into FP16, two elements packed in a word (R349); LSWAP; MSTAT. -/
theorem test_matrix_engine : (let t := after (exec (.mzeroExecute 0 5) (running acc0 (req .mzero (xs 16 0 2 0 0 0) 0x105 true) []))
      (t.last 0).acc == [] && (t.last 0).table == [] && t.ops.map (fun e => e.2.wait) == [.ready]) = true
    ∧ (after (exec (.mdrnExecute 0 5) (running acc0 (req .mdrn (xs 8 16 2 2 1 0) 0x105 true) [(8, 0#32)]))).ops.map (fun e => e.2.writes) = [[(8, 0x3C003C00#32)]]
    ∧ (let t := after (exec (.lswapExecute 0 5) (running acc0 (req .lswap (xs 0 0 0 0 0 0) 0 true) [])); ((t.last 0).shv, (t.last 0).ga)) = (false, 1)
    ∧ (after (exec (.mstatExecute 0 5) (running acc0 (req .mstat (xs 8 0 0 0 0 0) 0 true) [(8, 0#32), (9, 0#32)]))).ops.map (fun e => e.2.writes) =
        [[(8, 0x80002000#32), (9, 0x00000001#32)]] := by decide +kernel
/-- A walk of 2 by 3 tuples of which those in `h` have been handed out. -/
def walk (h : List Nat) : Walk := { grid := 1, teamid := 0, levels := 2, extents := [2, 3, 1, 1], bindings := [], handed := h }
/-- The Last with walk 1. -/
def walking (h : List Nat) : State := held_ { Last.zero with walks := [(1, walk h)] }
theorem witness_TreadleWalks : ((walking []).isHelper r0 = false ∧ (walking []).holdsLast 1 = true
      ∧ Alone (.twalk (xs 135 130 132 2 0 0)) (xs 135 130 132 2 0 0) r0 (walking []) ∧ walkBad 2 ((walking []).reg64 r0 130) ((walking []).reg r0 132).toNat = false
      ∧ (List.range 16).find? (fun k => (Tab.find ((walking []).last 0).walks k).isNone) = some 0
      ∧ Alone (.twalk (xs 135 130 132 2 0 0)) (xs 135 130 132 2 0 0) r0 (held_ { Last.zero with walks := (List.range 16).map (fun k => (k, walk [])) })
      ∧ (∀ j, j < 16 → (Tab.find ((held_ { Last.zero with walks := (List.range 16).map (fun k => (k, walk [])) }).last 0).walks j).isSome = true))
    ∧ (((walking [1, 0]).reg r0 5).toNat = 1 ∧ (walking [1, 0]).walkOf 1 1 = some (walk [1, 0]) ∧ (walk [1, 0]).handed.length < (walk [1, 0]).total
      ∧ Alone (.twnext (xs 8 5 0 0 0 6)) (xs 8 5 0 0 0 6) r0 (walking [1, 0]) ∧ ((inDet (walking [1, 0])).gridOf 1).det = true
      ∧ Alone (.twnext (xs 8 5 0 0 0 6)) (xs 8 5 0 0 0 6) r0 (inDet (walking [1, 0]))
      ∧ Alone (.twnext (xs 8 5 0 0 0 6)) (xs 8 5 0 0 0 6) r0 (walking [5, 4, 3, 2, 1, 0]) ∧ (walk [5, 4, 3, 2, 1, 0]).total ≤ 6
      ∧ Alone (.twdone (xs 0 5 0 0 0 0)) (xs 0 5 0 0 0 0) r0 (walking [])) := by
  unfold Alone Undisturbed; and_intros <;> decide +kernel
theorem test_walks : (let t := after (exec (.twalk (xs 135 130 132 2 0 0)) (walking []))
      Tab.find (t.last 0).walks 0 == some (walk []) && t.ops.map (fun e => e.2.writes) == [[(135, 0#32)]]) = true
    ∧ done (inDet (walking [2, 1, 0])) (after (exec (.twnext (xs 8 5 0 0 0 6)) (inDet (walking [2, 1, 0])))) (xs 8 5 0 0 0 6)
        [(8, 1#32), (9, 0#32), (10, 0#32), (11, 0#32)] [(3, true)] = true
    ∧ done (walking [5, 4, 3, 2, 1, 0]) (after (exec (.twnext (xs 8 5 0 0 0 6)) (walking [5, 4, 3, 2, 1, 0]))) (xs 8 5 0 0 0 6) [] [(3, false)] = true
    ∧ ((after (exec (.twdone (xs 0 5 0 0 0 0)) (walking []))).last 0).walks = [] := by decide +kernel

/-! ### The Heel, time and collectives -/

/-- The cohort 9 of peers 0 (own), 1 in a state at a step and 2; %step is 10; v2 is n, v4 is 1. -/
def heels (n state : Nat) : State :=
  { regs one [(2, BitVec.ofNat 32 n), (4, 1#32)] with
    now := 100000000
    heelStep := 10
    cohort := some { ident := 9, own := 0, size := 3, lead := 4, tLate := 50, tSilent := 100,
                     entries := [(0, ⟨0, 10, 1⟩), (1, ⟨3, 8, state⟩), (2, ⟨900000, 9, 4⟩)] } }
/-- A lane held in a GETTIME for the time g. -/
def clocked (g : Nat) : State := lane0 (heels 0 1) (fun x => { x with
  sb := [(2, 1)]
  cond := .held { kind := .gettime, x := xs 8 2 0 0 0 0, insn := 0, ea := 0, pa := 0, v1 := g, v2 := 0, deadline := none, order := 3, issue := 3 } })
theorem witness_HeelAndTime : ((heels 10 1).heldIn .hstep = [] ∧ Alone (.hstep (xs 8 2 0 0 0 0)) (xs 8 2 0 0 0 0) r0 (heels 10 1) ∧ (heels 10 1).isHelper r0 = false
      ∧ newer 10 (heels 10 1).heelStep = false ∧ newer 12 (heels 12 1).heelStep = true ∧ (heels 12 1).heelStalls 12 = false
      ∧ Alone (.hstep (xs 8 2 0 0 0 0)) (xs 8 2 0 0 0 0) r0 (heels 12 1)
      ∧ newer 13 (heels 13 1).heelStep = true ∧ (heels 13 1).heelStalls 13 = true ∧ Alone (.hstep (xs 8 2 0 0 0 0)) (xs 8 2 0 0 0 0) r0 (heels 13 1)
      ∧ Alone (.hstep (xs 8 255 0 0 0 0)) (xs 8 255 0 0 0 0) r0 (helps (heels 13 1)) ∧ (helps (heels 13 1)).isHelper r0 = true
      ∧ Alone (.hread (xs 8 4 0 0 0 0)) (xs 8 4 0 0 0 0) r0 (heels 13 1))
    ∧ ((heels 0 1).lastHeartbeat + 10000 ≤ (heels 0 1).ns
      ∧ (∀ st ∈ [1, 2, 3], ((heels 0 st).cohort.bind (fun c => Tab.find c.entries 1)).map (fun e => (e.state, e.heard)) = some (st, 3))
      ∧ 3 + 100 * 1000 < (heels 0 1).ns)
    ∧ (Alone (.gettime (xs 8 255 0 0 0 0)) (xs 8 255 0 0 0 0) r0 (heels 0 1) ∧ (heels 0 1).heldIn .gettime = []
      ∧ Alone (.gettime (xs 8 2 0 0 0 0)) (xs 8 2 0 0 0 0) r0 (heels 1000001 1) ∧ (heels 1000001 1).ns < (heels 1000001 1).reg64 r0 2
      ∧ Alone (.gettime (xs 136 255 0 0 0 0)) (xs 136 255 0 0 0 0) r0 (helps (heels 0 1)))
    ∧ ((clocked 1000001).ns < 1000001 ∧ ((clocked 1000000).heldIn .gettime).map (fun e => (e.1, e.2.v1)) = [(r0, 1000000)]
      ∧ (Tab.find (clocked 0).teams 1).isSome = true) := by
  unfold Alone Undisturbed; and_intros <;> decide +kernel
theorem test_heel : done (heels 12 1) (after (exec (.hstep (xs 8 2 0 0 0 0)) (heels 12 1))) (xs 8 2 0 0 0 0) [(8, 12#32)] [] = true
    ∧ (match ((after (exec (.hstep (xs 8 2 0 0 0 0)) (heels 13 1))).lane r0).cond with | .held h => h.v1 == 13 | _ => false) = true
    ∧ (after (exec .heartbeatSend (heels 0 1))).outgoing = [.heartbeat 9 0 10 1000000]
    ∧ (let t := after (exec (.heartbeat 9 1 11) (heels 0 2)); t.cohort.bind (fun c => Tab.find c.entries 1)) = some ⟨1000000, 11, 1⟩
    ∧ (let t := after (exec (.peerLate 1) (heels 0 1)); t.cohort.bind (fun c => Tab.find c.entries 1)) = some ⟨3, 8, 2⟩
    ∧ (let t := after (exec (.peerSilent 1) (heels 0 2)); t.cohort.bind (fun c => Tab.find c.entries 1)) = some ⟨3, 8, 3⟩ := by decide +kernel
theorem test_gettime : done (heels 0 1) (after (exec (.gettime (xs 8 255 0 0 0 0)) (heels 0 1))) (xs 8 255 0 0 0 0) [(8, 1000000#32), (9, 0#32)] [] = true
    ∧ (match ((after (exec (.gettime (xs 8 2 0 0 0 0)) (heels 1000001 1))).lane r0).cond with | .held h => h.v1 == 1000001 | _ => false) = true
    ∧ decide (after (exec (.gettimeRelease r0) (clocked 1000001)) = clocked 1000001) = true
    ∧ (let t := after (exec (.gettimeRelease r0) (clocked 1000000)); (t.lane r0).cond == .running && t.ops.map (fun e => e.2.writes) == [[(8, 1000000#32), (9, 0#32)]]) = true := by
  decide +kernel
/-- A group entry of 32 FP32 elements, valid: destination, completion word, PARTK, K, EXPECT, T in µs and the multicast range (R456). -/
def ge (dest cword partk k expect t mcbase mcn : Nat) : Nat :=
  dest * 2 ^ 192 + cword * 2 ^ 128 + 0x3F000000 * 2 ^ 96 + 2 ^ 76 + 2 * 2 ^ 72 + partk * 2 ^ 60 + k * 2 ^ 48 + expect * 2 ^ 35 + t * 2 ^ 20 + mcbase * 2 ^ 10 + mcn
/-- Group 2 reduces two contributions at a time to 2^30 + 0x4000; this device is logical peer 3, peer 5 is another. -/
def fabric (t : Nat) : State :=
  { regs one [(2, 0x40000800#32), (4, 7#32), (6, 40#32), (8, 3#32)] with
    now := 100000000
    fabricGrid := 1
    peers := [(3, 2 ^ 63), (5, 2 ^ 64 + 2 ^ 63)]
    groups := [(2, ge 0x40004000 0x40005000 2 2 4 t 3 1)] }
/-- The route of a sum to be reduced and delivered here (R459). -/
def route : List Nat := [3, 2 * 2 ^ 29 + 3]
/-- A descriptor of a contribution of step 9 to group 2 from 2^30 + 0x900, and its data of 32 ones. -/
def colDesc : List Byte := leBytes 8 (9 * 2 ^ 32 + 2 * 2 ^ 24 + 2 * 2 ^ 16) ++ leBytes 8 0x40000900 ++ leBytes 4 3 ++ leBytes 4 (2 * 2 ^ 29 + 3) ++ List.replicate 40 0
def ones : List Byte := (List.range 32).flatMap (fun _ => leBytes 4 0x3F800000)
def colls : State := ((fabric 0).poke 0x40000800 colDesc).poke 0x40000900 ones
/-- Reading n bytes at a virtual address gives these and changes nothing, as a test. -/
def spans (s : State) (va n : Nat) (bs : List Byte) : Bool :=
  match s.spanRead 1 va n with | .ok (b, bad, u) => b == bs && !bad && decide (u = s) | .error _ => false
theorem spans_of {s : State} {va n : Nat} {bs : List Byte} (h : spans s va n bs = true) : s.spanRead 1 va n = .ok (bs, false, s) := by
  unfold spans at h
  split at h
  · next b bad u heq => simp only [Bool.and_eq_true, beq_iff_eq, Bool.not_eq_true', decide_eq_true_eq] at h; rw [heq, h.1.1, h.1.2, h.2]
  · cases h
/-- A completion word of step 6, and 12 bytes to send through queue 3 to peer 5 in a slot of the table. -/
def waits : State := (fabric 0).poke 0x40000800 (leBytes 8 (completionWord 6 false 2 0))
/-- A lane held in a CWAIT whose deadline has passed. -/
def lateWait : State := lane0 waits (fun x => { x with
  sb := [(2, 1)]
  cond := .held { kind := .cwait, x := xs 8 2 0 0 0 0, insn := 0, ea := 0x40000800, pa := 0x40000800, v1 := 7, v2 := 0, deadline := some 100, order := 3, issue := 3 } })
/-- A SLOTQ descriptor of 8 bytes (R482), a queue 3 to peer 5, and a slot of 10 µs that serves it from port 0. -/
def slotDesc : List Byte := leBytes 8 0x40000900 ++ leBytes 8 0x40 ++ leBytes 4 8 ++ leBytes 4 0 ++ leBytes 8 0
def slots : State :=
  { ((fabric 0).poke 0x40000800 slotDesc).poke 0x40000900 [1, 2, 3, 4, 5, 6, 7, 8] with
    queues := [(3, { peer := some 5, msgs := [] })]
    slotTable := { entries := [(0, 2 ^ 63 + 10 + (128 + 3) * 2 ^ 64)], epoch := 0, nslot := 1 } }
theorem witness_CollectivePosts : (Alone (.col (xs 10 2 0 0 0 0)) (xs 10 2 0 0 0 0) r0 colls ∧ colls.isHelper r0 = false ∧ Uncached colls ∧ colls.bad = []
      ∧ colls.reg64 r0 2 % 64 = 0 ∧ isFabric (colls.reg64 r0 2) = false
      ∧ leNat ((colDesc.drop 8).take 8) = 0x40000900 ∧ geV (colls.groupEntry 2) = true ∧ colls.routeOk route = true ∧ colls.sealConflict route = false
      ∧ (List.range 8).map (fun i => leNat ((colDesc.drop (16 + 4 * i)).take 4)) = route ++ List.replicate 6 0 ∧ (∀ b ∈ colDesc.drop 48, b = 0)
      ∧ (colls.gridOf 1).det = false ∧ colls.outgoing.length < 64)
    ∧ (Alone (.cwait (xs 6 2 0 8 0 0)) (xs 6 2 0 8 0 0) r0 waits ∧ waits.place 1 (waits.reg64 r0 2) 0 = .mem 0x40000800 none
      ∧ cwordMet (leNat (memGetN waits.mem 0x40000800 8)) 6 = true ∧ cwordMet (leNat (memGetN waits.mem 0x40000800 8)) 40 = false)
    ∧ ((match (lateWait.lane r0).cond with | .held h => h.kind == .cwait && h.deadline == some 100 && h.ea == 0x40000800 | _ => false) = true
      ∧ Uncached lateWait ∧ lateWait.place 1 0x40000800 0 = .mem 0x40000800 none)
    ∧ (Alone (.slotq (xs 10 2 8 0 0 0)) (xs 10 2 8 0 0 0) r0 slots ∧ (slots.sendQueue 3).peer = some 5
      ∧ slots.slotTable.accepts 3 8 = true ∧ (slots.sendQueue 3).full 8 = false ∧ ((slots.reg r0 8).toNat = 3)) := by
  unfold Alone Undisturbed Uncached; and_intros <;> decide +kernel
/-- What the two descriptors and their data read as. -/
theorem witness_CollectivePosts_reads : (colls.spanRead 1 0x40000800 64 = .ok (colDesc, false, colls) ∧ colls.spanRead 1 0x40000900 128 = .ok (ones, false, colls))
    ∧ slots.spanRead 1 0x40000800 32 = .ok (slotDesc, false, slots) ∧ slots.spanRead 1 0x40000900 8 = .ok ([1, 2, 3, 4, 5, 6, 7, 8], false, slots) :=
  ⟨⟨spans_of (by decide +kernel), spans_of (by decide +kernel)⟩, spans_of (by decide +kernel), spans_of (by decide +kernel)⟩
theorem test_col : (let t := after (exec (.col (xs 10 2 0 0 0 0)) colls)
      done colls t (xs 10 2 0 0 0 0) [(10, 0#32)] [] && decide (t.outgoing = [.contribution 3
        { group := 2, step := 9, src := 0, isPartial := false, n := 1, wsum := 0x3F800000, data := List.replicate 32 0x3F800000, det := false, hops := route }])) = true
    ∧ (let t := after (exec (.slotq (xs 10 2 8 0 0 0)) slots)
      (t.sendQueue 3).msgs.map (fun m => (m.dst, m.notify, m.bytes)) == [(0x40, 0, [1, 2, 3, 4, 5, 6, 7, 8])]) = true := by decide +kernel
theorem test_cwait : (let s := regs waits [(4, 6#32)]; done s (after (exec (.cwait (xs 4 2 0 8 0 0)) s)) (xs 4 2 0 8 0 0) [(4, 0x80000002#32), (5, 6#32)] []) = true
    ∧ (match ((after (exec (.cwait (xs 6 2 0 8 0 0)) waits)).lane r0).cond with | .held h => h.v1 == 40 && h.deadline == some 103 | _ => false) = true
    ∧ (let t := after (exec (.cwaitTimeout r0) lateWait); (t.reg r0 8, t.reg r0 9)) = (0x80000002#32, 6#32) := by decide +kernel
/-- A contribution of ones for step 9 from peer 1, with its route. -/
def con (isPartial : Bool) (hops : List Nat) : Contribution :=
  { group := 2, step := 9, src := 1, isPartial := isPartial, n := 1, wsum := 0x3F800000, data := List.replicate 32 0x3F800000, det := false, hops := hops }
/-- What a partial reducer has gathered of step 9. -/
def part (n : Nat) (seen : List Nat) (forwarded : Bool) : Partial_ :=
  { group := 2, step := 9, n := n, gathered := n, wsum := 0x3F800000, acc := List.replicate 32 0x3F800000, seen := seen, first := 999000, hops := route,
    det := false, forwarded := forwarded }
/-- A final reducer's step 9 with n on-time contributions. -/
def stepAt (n : Nat) (seen : List Nat) : StepState :=
  { group := 2, step := 9, det := false, non := n, nlate := 0, acc := List.replicate 32 0x3F800000, w := 0x3F800000, seen := seen, first := some 999000, pending := [],
    hops := [2 * 2 ^ 29 + 3] }
/-- Group 2 has closed step n, with these gatherings and steps. -/
def reducing (t closed : Nat) (ps : List Partial_) (ss : List StepState) : State :=
  { fabric t with
    closed := [(2, closed)]
    partials := ps.map (fun p => (stepKey 2 p.step, p))
    steps := ss.map (fun x => (stepKey 2 x.step, x)) }
/-- A closed result on its way. -/
def closedAt (hops : List Nat) : ResultPacket :=
  { group := 2, step := 9, word := completionWord 9 false 2 0, data := List.replicate 32 0x40000000, hops := hops }
/-- The same device with group 2's destination an idle versioned page. -/
def onPage : State :=
  { fabric 0 with
    groups := [(2, ge 0x80000000 0x40005000 2 2 4 0 0 0 + 2 ^ 78)]
    versions := [(9, { ver0 with state := 0 })]
    tlb := { grid := 1, va := 2 ^ 31, size := 2 ^ 21, pte := 71 + 9 * 256 } :: (fabric 0).tlb }
/-- FWD; a switch's reduction; a partial reducer that drops, passes on, gathers and forwards. -/
theorem witness_Reductions_partial : hopAct (2 ^ 29 + 5) = 1 ∧ hopAct (2 ^ 28 + 5) = 0 ∧ hopSw (2 ^ 28 + 5) = true ∧ hopAct 3 = 0 ∧ hopSw 3 = false
    ∧ (¬ ∀ p ∈ route, hopAct p ≠ 0) ∧ (∀ p ∈ [2 * 2 ^ 29 + 3], hopAct p ≠ 0)
    ∧ (fabric 0).isLocalPeer 3 = true ∧ (fabric 0).isLocalPeer 5 = false
    ∧ (Tab.getD (reducing 0 8 [part 1 [1] false] []).partials (stepKey 2 9) (part 0 [] false)).seen = [1]
    ∧ (Tab.getD (reducing 0 8 [part 2 [1] true] []).partials (stepKey 2 9) (part 0 [] false)).forwarded = true
    ∧ 0 + 1 < gePartk ((fabric 0).groupEntry 2) ∧ gePartk ((fabric 0).groupEntry 2) ≤ 1 + 1 := by decide +kernel
/-- A final reducer that does not count, counts, holds for a later step, closes, and weights a late one. -/
theorem witness_Reductions_final : geV ((fabric 0).groupEntry 2) = true ∧ (con false [3]).step < 2 ^ 32
    ∧ (1 ∈ ((reducing 0 8 [] [stepAt 1 [1]]).stepOf 2 9).seen)
    ∧ newer 9 8 = true ∧ newer 9 ((8 + 16) % 2 ^ 32) = false ∧ (fabric 0).withdrawn 1 = false ∧ 1 ∉ ((reducing 0 8 [] []).stepOf 2 9).seen
    ∧ ((reducing 0 8 [] []).stepOf 2 9).det = false ∧ ((reducing 0 8 [] []).stepOf 2 9).group = 2 ∧ ((reducing 0 8 [] []).stepOf 2 9).step = 9
    ∧ 0 + 1 < geKeff ((fabric 0).groupEntry 2) ∧ geT ((fabric 0).groupEntry 2) = 0
    ∧ newer 9 7 = true ∧ ((reducing 0 7 [] []).stepOf 2 8).first = none
    ∧ geKeff ((fabric 0).groupEntry 2) ≤ 1 + 1 ∧ ((reducing 0 8 [] [stepAt 1 [2]]).stepOf 2 10).first = none
    ∧ newer 9 9 = false ∧ (9 + 1 + (2 ^ 32 - 9)) % 2 ^ 32 ≤ geLmax ((fabric 0).groupEntry 2) ∧ ((reducing 0 9 [] []).stepOf 2 10).step = 10
    ∧ ((reducing 0 9 [] []).stepOf 2 10).group = 2 := by decide +kernel
/-- The timers before and at their ends. -/
theorem witness_Reductions_timers : Tab.find (reducing 100 8 [part 1 [] false] []).partials (stepKey 2 9) = some (part 1 [] false)
    ∧ (reducing 100 8 [] []).ns < 999000 + geT ((fabric 100).groupEntry 2) * 1000 ∧ 999000 + geT ((fabric 1).groupEntry 2) * 1000 ≤ (reducing 1 8 [] []).ns
    ∧ geT ((fabric 1).groupEntry 2) ≠ 0 ∧ ((reducing 1 8 [] [stepAt 1 []]).stepOf 2 9).first = some 999000
    ∧ ((reducing 1 8 [] [stepAt 1 []]).stepOf 2 9).non < geKeff ((fabric 1).groupEntry 2) := by decide +kernel
/-- Results: FWD, delivery and multicast, of a group that is valid, not valid, and one whose destination is a versioned page. -/
theorem witness_Reductions_results : hopAct (2 * 2 ^ 29 + 3) = 2 ∧ hopAct (3 * 2 ^ 29 + 3) = 3 ∧ geV ((fabric 0).groupEntry 7) = false
    ∧ geVp ((fabric 0).groupEntry 2) = false ∧ Uncached (fabric 0) ∧ (fabric 0).waiters = [] ∧ (fabric 0).bad = [] ∧ Memory.wf (fabric 0).mem = true
    ∧ (∀ k, k < 128 → (fabric 0).place 1 (geDest ((fabric 0).groupEntry 2) + k) 1 = .mem (0x40004000 + k) none)
    ∧ ((fabric 0).tlbHit 1 0x40005000).isSome = true ∧ (fabric 0).place 1 0x40005000 1 = .mem 0x40005000 none
    ∧ geMcbase ((fabric 0).groupEntry 2) + geMcn ((fabric 0).groupEntry 2) ≤ 1024
    ∧ geV (onPage.groupEntry 2) = true ∧ geVp (onPage.groupEntry 2) = true ∧ onPage.place 1 (2 ^ 31) 0 = .mem (600 * 2 ^ 21) (some 9)
    ∧ (Tab.find onPage.versions 9).map Version.state = some 0 ∧ newer 9 8 = true ∧ onPage.publications = [] ∧ onPage.bad = [] := by
  unfold Uncached; and_intros <;> decide +kernel
theorem test_partials : (after (exec (.red (con false (3 :: route))) (reducing 0 8 [] []))).partials.map (fun e => (e.2.n, e.2.seen)) = [(1, [1])]
    ∧ decide ((after (exec (.red (con false (3 :: route))) (reducing 0 8 [part 1 [2] false] []))).outgoing = [.contribution 3
        { con true route with src := 0, n := 2, wsum := 0x40000000, data := List.replicate 32 0x40000000 }]) = true
    ∧ decide ((after (exec (.fwd (.sum (con false [2 ^ 29 + 3, 3]))) (fabric 0))).outgoing = [.contribution 3 (con false [3])]) = true
    ∧ (after (exec (.red (con false (3 :: route))) (reducing 1 8 [part 1 [2] false] []))).outgoing.length = 2
    ∧ (after (exec (.partialTimer (stepKey 2 9)) (reducing 1 8 [part 1 [] false] []))).outgoing.length = 1 := by decide +kernel
theorem test_final : (let t := after (exec (.finalReduction (con false [3, 2 * 2 ^ 29 + 3])) (reducing 0 8 [] [stepAt 1 [2]]))
      t.closedOf 2 == 9 && decide (t.outgoing = [.result 3 { closedAt [2 * 2 ^ 29 + 3] with data := List.replicate 32 0x40000000 }])) = true
    ∧ (let t := after (exec (.finalReduction (con false [3, 2 * 2 ^ 29 + 3])) (reducing 0 9 [] []))
      (t.stepOf 2 10).nlate == 1 && (t.stepOf 2 10).w == 0x3F000000 && (t.stepOf 2 10).acc.head? == some 0x3F000000) = true
    ∧ (after (exec (.finalReduction (con false [3, 2 * 2 ^ 29 + 3])) (reducing 1 8 [] [stepAt 1 [2]]))).closedOf 2 = 9
    ∧ (after (exec (.stepTimer 2) (reducing 1 8 [] [stepAt 1 []]))).closedOf 2 = 9
    ∧ (let t := after (exec (.dlv (closedAt [2 * 2 ^ 29 + 3])) (fabric 0))
      memGetN t.mem 0x40004000 8 == [0, 0, 0, 0x40, 0, 0, 0, 0x40] && memGetN t.mem 0x40005000 8 == [2, 0, 0, 0x80, 9, 0, 0, 0]) = true
    ∧ (let t := after (exec (.mcast (closedAt [3 * 2 ^ 29 + 3, 2 * 2 ^ 29 + 0x3FF])) (fabric 0))
      decide (t.outgoing = [.result 3 (closedAt [2 * 2 ^ 29 + 3])])) = true
    ∧ (Tab.find (after (exec (.dlv (closedAt [2 * 2 ^ 29 + 3])) onPage)).versions 9).map (fun v => (v.state, v.incoming)) = some (2, 9) := by decide +kernel
/-- The host asks for an operation of the mailbox. -/
def asking (op : Nat) (args : List Nat) (s : State) : State :=
  { s with doorbell := true, request := (op :: args).zipIdx.map (fun e => (e.2, e.1)) }
/-- A cohort of three at step 20, and one of none. -/
def cfg : CohortCfg := { ident := 9, own := 0, size := 3, lead := 4, tLate := 50, tSilent := 100, step := 20 }
/-- Peer 1 withdraws, or is added at step 12. -/
def change (add : Bool) : RosterChange := { index := 1, add := add, arr := false, step := 12 }
theorem witness_CohortSetting : (∀ op ∈ [15, 16, 17, 18], (asking op [] (heels 0 4)).asks op [] = true ∧ (asking op [] (heels 0 4)).heldIn .hstep = [])
    ∧ cohortOk cfg = true ∧ cohortOk { cfg with size := 4097 } = false ∧ cohortOk { cfg with own := 3 } = false
    ∧ (asking 16 [] one).cohort = none ∧ (asking 16 [] one).asks 16 [] = true ∧ (asking 16 [] one).heldIn .hstep = []
    ∧ (∀ st ∈ [1, 4], ((heels 0 st).cohort.bind (fun c => Tab.find c.entries 1)).map HeelEntry.state = some st)
    ∧ (heels 0 4).groups = [] ∧ (heels 0 4).objects = [] ∧ groupBad (ge 0x40004000 0x40005000 2 2 4 0 3 1) = false ∧ groupBad (ge 0x40004080 0x40005000 2 2 4 0 3 1) = true
    ∧ (heels 0 4).steps = [] ∧ (heels 0 4).partials = [] ∧ (Tab.find (heels 0 4).grids 1).isSome = true
    ∧ ((1, 0x100) : Nat × Nat) ∉ (heels 0 4).objects ∧ 64 ≤ ({ heels 0 4 with objects := (List.range 64).map (fun k => (1, 16 * k)) } : State).objects.length
    ∧ ((1, 0x1000) : Nat × Nat) ∉ (List.range 64).map (fun k => (1, 16 * k)) := by decide +kernel
theorem test_cohort : (let t := after (exec (.setCohort cfg) (asking 15 [] one)); (t.heelStep, t.response, (t.cohort.map (fun c => c.entries.length)))) = (20, [0], some 3)
    ∧ (after (exec (.setCohort { cfg with size := 0 }) (asking 15 [] one))).response = [1]
    ∧ ((after (exec (.roster [change false]) (asking 16 [] (heels 0 1)))).cohort.bind (fun c => Tab.find c.entries 1)) = some ⟨3, 8, 4⟩
    ∧ ((after (exec (.roster [change true]) (asking 16 [] (heels 0 4)))).cohort.bind (fun c => Tab.find c.entries 1)) = some ⟨1000000, 12, 1⟩
    ∧ (after (exec (.setGroup 3 (ge 0x40004000 0x40005000 2 2 4 0 3 1) 0) (asking 17 [] one))).closed = [(3, 2 ^ 32 - 1)]
    ∧ (after (exec (.regObject 1 0x100 false) (asking 18 [] one))).objects = [(1, 0x100)] := by decide +kernel

/-! ### System instructions and traps -/

/-- The grid's context is attached to a debugger. -/
def debugged : State := inGrid one (fun g => { g with attached := true })
/-- The grid is idempotent; the team stands in a region entered at `pc`, or in none. -/
def idem (inside : Bool) (pc : Nat) : State := inTeam (inGrid one (fun g => { g with flags := 2 })) (fun t => { t with inRegion := inside, idemEntry := BitVec.ofNat 64 pc })
/-- v2:v3 is a record's address, or one that is misaligned, or one of a peer; the launch queue of the die is q. -/
def launching (q : QBlock) (a : Nat) : State :=
  { (regs one [(2, BitVec.ofNat 32 a), (3, BitVec.ofNat 32 (a / 2 ^ 32))]).poke 0x50001000 (leBytes 64 (qEncode q)) with launchCtl := [(0, 0x50001000)] }
/-- A launch queue of two requests of 16 bytes. -/
def lq : QBlock := qMake 0x50002000 2 16 0 1
theorem witness_SystemInstructions : (Undisturbed (.assert (xs 0 255 0 0 0 0)) 0 false one ∧ one.present = [r0] ∧ one.guard 0 false r0 = true
      ∧ Undisturbed (.assert { xs 0 255 0 0 0 0 with pn := true }) 0 false one ∧ one.guard 0 true r0 = false ∧ (one.gridOf 1).stop = none)
    ∧ (Alone (.brk (xs 0 0 0 7 0 0)) (xs 0 0 0 7 0 0) r0 one ∧ (one.gridOf 1).attached = false ∧ Alone (.brk (xs 0 0 0 7 0 0)) (xs 0 0 0 7 0 0) r0 debugged
      ∧ (debugged.gridOf 1).attached = true ∧ debugged.isHelper r0 = false)
    ∧ (Alone (.idemb (xs 0 0 0 0 0 0)) (xs 0 0 0 0 0 0) r0 one ∧ (one.gridOf 1).idem = false ∧ ((idem false 0).gridOf 1).idem = true
      ∧ Alone (.idemb (xs 0 0 0 0 0 0)) (xs 0 0 0 0 0 0) r0 (idem false 0) ∧ Alone (.idemb (xs 0 0 0 0 0 0)) (xs 0 0 0 0 0 0) r0 (idem true programBase)
      ∧ ((idem true programBase).team 1).idemEntry = (idem true programBase).cur.pc ∧ Alone (.idemb (xs 0 0 0 0 0 0)) (xs 0 0 0 0 0 0) r0 (idem true 64)
      ∧ ((idem true 64).team 1).idemEntry ≠ (idem true 64).cur.pc ∧ HandlerReady (idem true 64) r0
      ∧ Alone (.ideme (xs 0 0 0 0 0 0)) (xs 0 0 0 0 0 0) r0 (idem true 64))
    ∧ (Alone (.launch (xs 8 2 0 0 0 0)) (xs 8 2 0 0 0 0) r0 (helps (launching lq 0x40000100)) ∧ (helps (launching lq 0x40000100)).isHelper r0 = true
      ∧ Alone (.launch (xs 8 2 0 0 0 0)) (xs 8 2 0 0 0 0) r0 (launching lq 0x40000104) ∧ (launching lq 0x40000104).reg64 r0 2 % 256 ≠ 0
      ∧ HandlerReady (launching lq 0x40000104) r0
      ∧ Alone (.launch (xs 8 2 0 0 0 0)) (xs 8 2 0 0 0 0) r0 (launching lq (2 ^ 56)) ∧ (launching lq (2 ^ 56)).reg64 r0 2 = 2 ^ 56
      ∧ Alone (.launch (xs 8 2 0 0 0 0)) (xs 8 2 0 0 0 0) r0 (launching lq 0x40000100) ∧ (launching lq 0x40000100).place 1 0x40000100 0 = .mem 0x40000100 none
      ∧ Uncached (launching lq 0x40000100) ∧ (launching lq 0x40000100).waiters = [] ∧ (launching lq 0x40000100).bad = []
      ∧ Memory.wf (launching lq 0x40000100).mem = true ∧ (launching lq 0x40000100).queueAt 0x50001000 lq ∧ lq.state = 0 ∧ lq.esize = 16
      ∧ (launching { lq with state := 1 } 0x40000100).queueAt 0x50001000 { lq with state := 1 }
      ∧ (launching { lq with tail := 2, free := 0 } 0x40000100).queueAt 0x50001000 { lq with tail := 2, free := 0 }) := by
  unfold Alone Undisturbed Uncached HandlerReady State.queueAt; and_intros <;> decide +kernel
theorem test_system : ((after (exec (.assert { xs 0 255 0 0 0 0 with pn := true }) one)).gridOf 1).stop.map (fun i => (i.cause, i.pc)) = some (0x21D, programBase)
    ∧ ((after (exec (.brk (xs 0 0 0 7 0 0)) debugged)).gridOf 1).stop.map StopInfo.cause = some 0x7001C
    ∧ (let t := after (exec (.idemb (xs 0 0 0 0 0 0)) (idem false 0)); ((t.team 1).inRegion, (t.team 1).idemEntry.toNat)) = (true, programBase)
    ∧ ((after (exec (.idemb (xs 0 0 0 0 0 0)) (idem true 64))).lane r0).faultCode = 0x1F
    ∧ ((after (exec (.ideme (xs 0 0 0 0 0 0)) (idem true 64))).team 1).inRegion = false := by decide +kernel
theorem test_launch : (let t := after (exec (.launch (xs 8 2 0 0 0 0)) (launching lq 0x40000100))
      done (launching lq 0x40000100) t (xs 8 2 0 0 0 0) [(8, 0#32)] [] && memGetN t.mem 0x50002000 16 == leBytes 16 0x40000100
        && memGetN t.mem 0x50001000 64 == leBytes 64 (qEncode { lq with tail := 1, free := 1 })) = true
    ∧ done (launching { lq with tail := 2, free := 0 } 0x40000100) (after (exec (.launch (xs 8 2 0 0 0 0)) (launching { lq with tail := 2, free := 0 } 0x40000100)))
        (xs 8 2 0 0 0 0) [(8, 1#32)] [] = true := by decide +kernel
/-- Lane 0 in handler, with a cause (256: in handler, 512: deferred, length 4 halfwords) and pending faults. -/
def inTrap (cause : Nat) (is : List FaultInfo) : State := lane0 (regs one [(2, 0x40000201#32)]) (fun x => { x with
  trap := { x.trap with cause := BitVec.ofNat 32 cause, pc := 0x40000400#64, scr1 := 6#32 }
  deferred := is })
/-- A fault staged in lane 0. -/
def fault0 : FaultInfo := { code := 4, detail := 0, len := 4, addr := 0x102, insn := 9, fpc := programBase }
def stagedAt (d : Bool) : State := lane0 one (fun x => { x with parked := true, faultCode := 4, staged := some (fault0, d) })
theorem witness_Traps : (∀ d, ((stagedAt d).lane r0).staged = some (fault0, d) ∧ ((stagedAt d).gridOf 1).handler ≠ 0 ∧ (Tab.find (stagedAt d).teams 1).isSome = true)
    ∧ (one.lane r0).staged = none
    ∧ (Alone (.rtrap (xs 0 0 0 0 0 1)) (xs 0 0 0 0 0 1) r0 (inTrap 0x4104 []) ∧ ((inTrap 0x4104 []).lane r0).inHandler = true
      ∧ ((inTrap 0x4104 []).lane r0).deferred = [] ∧ Alone (.rtrap (xs 0 0 0 0 0 1)) (xs 0 0 0 0 0 1) r0 (inTrap 0x4304 [fault0])
      ∧ ((inTrap 0x4304 [fault0]).lane r0).deferred = [fault0] ∧ ((inTrap 0x4304 [fault0]).lane r0).inHandler = true
      ∧ ((inTrap 0x4304 [fault0]).lane r0).away = none
      ∧ Alone (.rtrap (xs 0 0 0 0 0 1)) (xs 0 0 0 0 0 1) r0 one ∧ HandlerReady one r0)
    ∧ (Alone (.ctxr (xs 8 0 0 9 0 0)) (xs 8 0 0 9 0 0) r0 (inTrap 0x4104 []) ∧ Alone (.ctxw (xs 0 2 0 0 0 0)) (xs 0 2 0 0 0 0) r0 (inTrap 0x4104 [])
      ∧ Alone (.ctxw (xs 0 2 0 8 0 0)) (xs 0 2 0 8 0 0) r0 (inTrap 0x4104 []) ∧ Alone (.ctxw (xs 0 2 0 9 0 0)) (xs 0 2 0 9 0 0) r0 (inTrap 0x4104 [])
      ∧ Alone (.ctxw (xs 0 2 0 10 0 0)) (xs 0 2 0 10 0 0) r0 (inTrap 0x4104 []) ∧ Alone (.ctxw (xs 0 2 0 11 0 0)) (xs 0 2 0 11 0 0) r0 (inTrap 0x4104 [])
      ∧ Alone (.ctxw (xs 0 2 0 11 0 0)) (xs 0 2 0 11 0 0) r0 one ∧ ((inTrap 0x4104 []).gridOf 1).stop = none
      ∧ (inTrap 0x4104 []).cur.lanes.Nodup ∧ (inTrap 0x4104 []).present = [r0] ∧ (inTrap 0x4104 []).guardLost 0 r0 = false
      ∧ (inTrap 0x4104 []).guard 0 false r0 = true) := by
  unfold Alone Undisturbed HandlerReady; and_intros <;> decide +kernel
theorem test_traps : (let t := after (exec (.handlerEntry r0) (stagedAt true)); let x := t.lane r0
      x.pc.toNat == programBase + 4096 && x.trap.cause == 0x4304#32 && x.trap.pc.toNat == programBase && x.trap.addr == 0x102#64 && x.staged == none) = true
    ∧ ((after (exec (.rtrap (xs 0 0 0 0 0 1)) (inTrap 0x4104 []))).lane r0).pc = 0x40000408#64
    ∧ ((after (exec (.rtrap (xs 0 0 0 0 0 1)) (inTrap 0x4304 [fault0]))).lane r0).staged = some (fault0, true)
    ∧ (let x := (after (exec (.rtrap (xs 0 0 0 0 0 1)) (inTrap 0x4304 []))).lane r0; (x.pc, x.inHandler)) = (0x40000400#64, false)
    ∧ ((after (exec (.rtrap (xs 0 0 0 0 0 0)) one)).lane r0).faultCode = 1 := by decide +kernel
theorem test_ctx : done (inTrap 0x4104 []) (after (exec (.ctxr (xs 8 0 0 9 0 0)) (inTrap 0x4104 []))) (xs 8 0 0 9 0 0) [(8, 6#32)] [] = true
    ∧ ((after (exec (.ctxw (xs 0 2 0 0 0 0)) (inTrap 0x4104 []))).lane r0).trap.pc = 0x40000200#64
    ∧ ((after (exec (.ctxw (xs 0 2 0 3 0 0)) (inTrap 0x4104 []))).gridOf 1).stop.map StopInfo.cause = some 257
    ∧ ((after (exec (.ctxw (xs 0 2 0 11 0 0)) one)).lane r0).faultCode = 1 := by decide +kernel

/-! ### The ends of operations, formations, fetches and walks -/

/-- Operation 3 of lane 0 in flight, as changed by `f`, its slot raised; the lane has issued n times since. -/
def flying (n : Nat) (ws : List (Nat × Word)) (f : Op → Op) : State :=
  let s := lane0 two (fun x => { x with sb := [(2, 1)] })
  { lane0 s (fun x => { x with issues := n }) with ops := [(3, f (s.newOp r0 (xs 8 2 4 0 0 0) ws []))] }
/-- The parts of one instruction that writes s4 in both lanes; the second, of lane 1, may still wait. -/
def shared (w : OpWait) : State :=
  let s := flying 0 [(132, 5#32)] id
  { s with ops := s.ops ++ [(4, { s.newOp ⟨1, 0, 1⟩ (xs 132 2 4 0 0 0) [(132, 6#32)] [] with wait := w })] }
/-- A load of a peer's word on its way. -/
def fetching : State :=
  { flying 0 [] (fun o => { o with wait := .fabric 5, fill := some (8, 4), info := { o.info with insn := 0, len := 4 } }) with
    sent := [(5, { peer := 5, cls := 0, seq := 0, epoch := 0, count := none, kind := .read 4, offset := 0x40, data := [], gen := 0, resent := false, waits := false,
                   at_ := 0, team := 1, op := some 3 })] }
/-- A store without an operation; a part of a message of queue 3; a store whose bound has passed. -/
def acked : State := { one with sent := fetching.sent.map (fun e => (e.1, { e.2 with op := none, kind := .write })) }
def storing (q : Option Nat) (at_ : Nat) : State := { acked with now := 10 ^ 7, sent := acked.sent.map (fun e => (e.1, { e.2 with queue := q, at_ := at_ })) }
/-- Operation 3 has met a fault after its issue. -/
def lateAt (n : Nat) : State := flying n [] (fun o => { o with late := some fault0 })
theorem witness_OperationsEnd : ((flying 0 [(8, 5#32)] id).ops.map (fun e => (e.1, e.2.lane, e.2.slot, e.2.together)) = [(3, r0, some 2, false)]
      ∧ (∀ e ∈ (flying 0 [(8, 5#32)] id).ops, e.2.late = none ∧ e.2.wait = .ready ∧ (∀ w ∈ e.2.writes, w.1 < 128) ∧ e.2.preds = []))
    ∧ (flying 0 [(132, 5#32)] id).ops.map (fun e => (e.2.together, e.2.writes, e.2.preds.length)) = [(true, [(132, 5#32)], 0)]
    ∧ (∀ q ∈ (flying 0 [(132, 5#32)] id).teamLanes 1, ((flying 0 [(132, 5#32)] id).lane q).cond = .running)
    ∧ ((shared .ready).ops.map (fun e => (e.1, e.2.issue, e.2.together, e.2.wait)) = [(3, 7, true, .ready), (4, 7, true, .ready)]
      ∧ (shared .ready).ops.map (fun e => (e.2.lane.l, e.2.writes)) = [(0, [(132, 5#32)]), (1, [(132, 6#32)])])
    ∧ (shared (.commit 9)).ops.map (fun e => (e.2.together, e.2.issue, e.2.wait)) = [(true, 7, .ready), (true, 7, .commit 9)]
    ∧ (fetching.ops.map (fun e => (e.2.wait, e.2.fill, e.2.info.code, e.2.together, e.2.phase)) = [(.fabric 5, some (8, 4), 0, false, 0)]
      ∧ fetching.ops.map (fun e => (e.2.preds, e.2.late)) = [([], none)] ∧ (Tab.find fetching.sent 5).isSome = true ∧ fetching.landings = []
      ∧ (fetching.lane r0).cond = .running ∧ fetching.isHelper r0 = false
      ∧ (match decodeBits 4 0 with | .ok j => (ordering j).1 % 2 == 0 | .error _ => true) = true)
    ∧ (∀ q ∈ [none, some 3], Tab.find (storing q 9999999).ops 5 = none ∧ (storing q 9999999).sent.map (fun e => (e.1, e.2.op, e.2.cmd)) = [(5, none, none)]
      ∧ (∀ e ∈ (storing q 9999999).sent, e.2.waits = false ∧ e.2.queue = q ∧ (storing q 9999999).overdue e.2 = false)
      ∧ (∀ e ∈ (storing q 0).sent, (storing q 0).overdue e.2 = true))
    ∧ (∀ e ∈ fetching.sent, e.2.waits = false ∧ fetching.overdue e.2 = false) ∧ fetching.ops.map Prod.fst = [3]
    ∧ ((∀ n, n < 2 → (lateAt n).ops.map (fun e => (e.2.late, e.2.wait, e.2.mark)) = [(some fault0, .ready, 0)] ∧ ((lateAt n).lane r0).issues = n
        ∧ (lateAt n).exited r0 = false ∧ ((lateAt n).lane r0).parked = false ∧ ((lateAt n).lane r0).cond = .running ∧ ((lateAt n).lane r0).away = none ∧ ((lateAt n).lane r0).back = none
        ∧ ((lateAt n).gridOf 1).stop = none ∧ ((lateAt n).lane r0).inHandler = false ∧ ((lateAt n).gridOf 1).handler ≠ 0)
      ∧ ((lane0 (lateAt 0) (fun x => { x with parked := true })).lane r0).parked = true
      ∧ ((lateAt 0).modGroup r0 (fun g => { g with exited := 1 })).exited r0 = true) := by
  and_intros <;> decide +kernel
theorem test_operations : (let t := after (exec (.operationCompletion 3 []) (flying 0 [(8, 5#32)] id)); (t.reg r0 8, (t.lane r0).slotCount 2, t.ops.length)) = (5#32, 0, 0)
    ∧ (let t := after (exec (.operationCompletion 4 []) (shared .ready)); (t.reg r0 132, t.ops.length)) = (6#32, 0)
    ∧ (let t := after (exec (.operationCompletion 3 []) (shared (.commit 9))); (t.reg r0 132, t.ops.length)) = (0#32, 2)
    ∧ (let t := after (exec (.operationCompletion 3 [0, 1, 2, 3, 4]) fetching); (t.reg r0 8, t.sent.length)) = (0x04030201#32, 0)
    ∧ (after (exec (.operationCompletion 3 [1]) fetching)).ops.map (fun e => e.2.late.map (fun i => (i.code, i.addr))) = [some (6, 2 ^ 56 + 5 * 2 ^ 46 + 0x40)]
    ∧ (after (exec (.operationCompletion 5 [0]) (storing none 9999999))).sent.length = 0 ∧ (after (exec (.operationCompletion 5 [0]) (storing none 0))).sent.length = 1
    ∧ (after (exec (.operationCompletion 5 []) (storing (some 3) 9999999))).sent.length = 0
    ∧ (after (exec (.operationCompletion 5 [0]) (storing (some 3) 9999999))).sent.map (fun e => e.2.waits) = [true] := by decide +kernel
theorem test_late_faults : (let x := (after (exec (.deferredFault 3) (lateAt 0))).lane r0; (x.staged, x.pc.toNat)) = (some (fault0, false), programBase)
    ∧ ((after (exec (.deferredFault 3) (lateAt 1))).lane r0).staged = some (fault0, true)
    ∧ ((after (exec (.deferredFault 3) (lane0 (lateAt 0) (fun x => { x with parked := true })))).lane r0).deferred = [fault0] := by decide +kernel
/-- Two bins of core 0, filed in cycles a and b; `formed` says whether they are formations. -/
def twoBins (a b : Nat) (formed : Bool) : State :=
  let s := lane0 two (fun x => { x with filed := a })
  { s.modLane ⟨1, 0, 1⟩ (fun x => { x with filed := b }) with
    cycle := 400
    bins := [(3, { core := 0, team := 1, pc := 64, members := [r0], formed := formed, place := none }),
             (4, { core := 0, team := 1, pc := 96, members := [⟨1, 0, 1⟩], formed := formed, place := none })] }
/-- Page tables at 0x60000000: a leaf of 1 GiB, one of 2 MiB and one of 64 KiB; the grid's root is there and nothing is cached. -/
def walked : State :=
  { (((((inGrid one (fun g => { g with root := 0x60000000 })).poke 0x60000000 (leBytes 8 0x60001001)).poke 0x60001000 (leBytes 8 0x60002001)).poke 0x60002000
      (leBytes 8 (programBase + 31) ++ leBytes 8 0x60003001)).poke 0x60003000 (leBytes 8 0x7000001F ++ leBytes 8 0x60004001)).poke 0x60004000 (leBytes 8 0x7101001F) with
    tlb := [] }
/-- The lane stands where nothing is cached, in a page that is mapped, and at one that is not. -/
def unfetched (pc : Nat) : State := lane0 one (fun x => { x with pc := BitVec.ofNat 64 pc })
theorem witness_FormationsFetchesAndWalks : ((twoBins 10 20 false).bins.map (fun e => (e.2.formed, e.2.members.length, e.2.place)) = [(false, 1, none), (false, 1, none)]
      ∧ (twoBins 10 20 false).binSince { core := 0, team := 1, pc := 64, members := [r0], formed := false, place := none } = 10 ∧ (twoBins 10 20 false).ageLimit 0 = 256
      ∧ 10 + 256 ≤ (twoBins 10 20 false).cycle ∧ (twoBins 200 20 false).cycle < 200 + 256
      ∧ (∀ e ∈ (twoBins 10 20 true).bins, e.2.core = 0 ∧ e.2.formed = true ∧ e.2.place = none ∧ 10 ≤ (twoBins 10 20 true).binSince e.2)
      ∧ (∃ e ∈ (twoBins 30 20 true).bins, e.2.core = 0 ∧ e.2.formed = true ∧ (twoBins 30 20 true).binSince e.2 < 30))
    ∧ ((one.teams.find? (fun e => e.2.gcore == 0 && e.2.grid == 1)).map Prod.fst = some 1
      ∧ (match one.fetch 1 (programBase + 128) with | .miss a => a == programBase + 128 | _ => false) = true ∧ one.inIcache 0 1 (programBase + 128) = false
      ∧ (one.icache.filter (fun c => c.core == 0)).length < 1024 ∧ one.place 1 ((programBase + 128) / 64 * 64) 2 = .mem (programBase + 128) none
      ∧ (match placed.fetch 1 programBase with | .insn len _ => len == 2 | _ => false) = true)
    ∧ ((unfetched 64).mayIssue 1 = true ∧ (unfetched 64).runs r0 = true ∧ ((unfetched 64).lane r0).since ≤ (unfetched 64).cycle
      ∧ (match (unfetched 64).fetch 1 64 with | .miss a => a == 64 | _ => false) = true ∧ (unfetched 64).place 1 64 2 = .bad 5 false ∧ bits (2 ^ 56) 63 56 ≠ 0
      ∧ ((unfetched 64).lane r0).inHandler = false ∧ ((unfetched 64).gridOf 1).handler ≠ 0)
    ∧ ((Tab.find walked.grids 1).isSome = true ∧ (∀ va ∈ [5, 2 ^ 30, 2 ^ 30 + 2 ^ 21, 2 ^ 48], walked.tlbHit 1 va = none ∧ va < 2 ^ 56) ∧ walked.upd = [] ∧ walked.bad = []
      ∧ (∀ e ∈ walked.teams, e.2.stash = [])
      ∧ entryFault walked 4 0x60001001 = false ∧ entryFault walked 3 0x60002001 = false ∧ entryFault walked 2 (programBase + 31) = false
      ∧ entryFault walked 2 0x60003001 = false ∧ entryFault walked 1 0x7000001F = false ∧ entryFault walked 1 0x60004001 = false
      ∧ entryFault walked 0 0x7101001F = false ∧ entryFault walked 4 0 = true ∧ bit 0x60001001 1 = false ∧ bit (programBase + 31) 1 = true) := by
  and_intros <;> decide +kernel
theorem witness_Fetches_single : Single (unfetched 64) r0 := ⟨_, _, _, rfl, rfl, rfl⟩
theorem test_formations : (after (exec (.formation 3) (twoBins 10 20 false))).bins.map (fun e => e.2.formed) = [true, false]
    ∧ (after (exec (.formation 3) (twoBins 200 20 false))).bins.map (fun e => e.2.formed) = [false, false]
    ∧ (after (exec (.formationPlacement 3) (twoBins 10 20 true))).bins.map (fun e => e.2.place) = [some (0, 12), none]
    ∧ (after (exec (.formationPlacement 3) (twoBins 30 20 true))).bins.map (fun e => e.2.place) = [none, none] := by decide +kernel
theorem test_fetches : (after (exec (.instructionFetch 0 1 (programBase + 128)) (one.poke (programBase + 128) [7]))).icache.map (fun c => (c.va, c.bytes.take 2)) =
      one.icache.map (fun c => (c.va, c.bytes.take 2)) ++ [(programBase + 128, [7, 0])]
    ∧ ((after (exec (.instructionFetch 0 1 64) (unfetched 64))).lane r0).faultCode = 7
    ∧ (after (exec (.pageWalk 1 5) walked)).tlb = [{ grid := 1, va := 0, size := 2 ^ 30, pte := programBase + 31 }]
    ∧ (after (exec (.pageWalk 1 (2 ^ 30)) walked)).tlb = [{ grid := 1, va := 2 ^ 30, size := 2 ^ 21, pte := 0x7000001F }]
    ∧ (after (exec (.pageWalk 1 (2 ^ 30 + 2 ^ 21)) walked)).tlb = [{ grid := 1, va := 2 ^ 30 + 2 ^ 21, size := 2 ^ 16, pte := 0x7101001F }]
    ∧ (after (exec (.pageWalk 1 (2 ^ 48)) walked)).tlb = []
    ∧ (after (exec (.l1CopyExpire 5) globL1)).l1 = [] := by decide +kernel

/-! ### Launch, binding, retirement and pre-emption -/

/-- The page tables of `walked` as die 0's root, no grid, and the launch queue `q` of the die. -/
def host (q : QBlock) : State :=
  { (walked.poke 0x50001000 (leBytes 64 (qEncode q))).poke 0x50002000 (leBytes 16 0x100000) with
    teams := [], grids := [], nextGrid := 1, launchCtl := [(0, 0x50001000)], roots := [(0, 0x60000000)] }
/-- A record whose FLAGS, REGS and STATUS are given, of one team of one lane (R377). -/
def record (flags regs status : Nat) : List Byte :=
  leBytes 8 0x2000 ++ leBytes 8 0x3000 ++ leBytes 8 status ++ leBytes 8 0 ++ leBytes 8 0 ++ leBytes 4 0 ++ leBytes 4 flags ++ leBytes 4 1 ++ leBytes 4 1 ++ leBytes 4 regs
/-- A request for a record at virtual address 0x100000 is being accepted on die 0. -/
def accepting (flags regs status : Nat) (gs : Tab Grid) : State :=
  { (host lq).poke 0x40100000 (record flags regs status) with accepting := [(0, 0x100000)], grids := gs }
/-- Die 0 has no free context entry. -/
def fullDie : Tab Grid := (List.range 64).map (fun k => (k + 1, { Grid.zero with contexts := [(0, k)] }))
/-- A grid that waits to be bound, and its team once bound for the time `release`. -/
def bindable : State := { one with ready := true, teams := [], grids := [(1, { grid1 with nextTeam := 0, lcores := 1 })] }
def boundAt (release : Nat) : State :=
  { one with teams := [(1, { Team.zero with grid := 1, phase := .bound, release := release })], grids := [(1, { grid1 with shape := 5 })] }
/-- Queue q0's state with one request published. -/
def lq1 : QBlock := { lq with tail := 1, free := 1 }
theorem witness_LaunchAndAdmission : ((∀ q ∈ [lq, lq1], (host q).upd = [] ∧ (host q).teams = [] ∧ (host q).waiters = [] ∧ (host q).bad = [] ∧ (host q).tlb = []
        ∧ Memory.wf (host q).mem = true ∧ (host q).accepting = [] ∧ qCheck (dieOfPa 0x50001000) (leNat (memGetN (host q).mem 0x50001000 64)) = true
        ∧ qDecode (leNat (memGetN (host q).mem 0x50001000 64)) = q ∧ leNat (memGetN (host q).mem 0x50002000 8) = 0x100000)
      ∧ lq.visible = 0 ∧ lq1.visible ≠ 0 ∧ leNat (memGetN (host lq1).mem 0x50002008 8) = 0
      ∧ leNat (memGetN ((host lq1).poke 0x50002008 [1]).mem 0x50002008 8) ≠ 0)
    ∧ ((accepting 0 8 0x200000 []).rootPlace 0x60000000 (2 ^ 48) 0 = .bad 5 false
      ∧ (accepting 0 8 0x200000 []).rootPlace 0x60000000 0x100000 0 = .mem 0x40100000 none
      ∧ (∀ k ∈ [0, 8, 0x18], (accepting 0 8 0x200000 []).rootPlace 0x60000000 (0x200000 + k) 1 = .mem (0x40200000 + k) none))
    ∧ (let g (f r : Nat) : Grid := { gridOfRecord 0x100000 0x60000000 (memGetN (accepting f r 0x200000 []).mem 0x40100000 256) with die := 0 }
       (g 0 8).status = 0x200000
         ∧ refusal (g 0 8) (memGetN (accepting 0 8 0x200000 []).mem 0x40100000 256) 1000 = none
         ∧ refusal (g 8 9) (memGetN (accepting 8 9 0x200000 []).mem 0x40100000 256) 1000 = some 3
         ∧ ((accepting 0 8 0x200000 fullDie).freeContexts (g 0 8)).isNone = true)
    ∧ (bindable.grids.map (fun e => (e.2.nextTeam, e.2.teamCount, e.2.gangSize)) = [(0, 1, 1)] ∧ (∀ e ∈ bindable.grids, e.2.stop = none ∧ 0 ∈ e.2.dies ∧ e.2.det = false
        ∧ e.2.matrix = false) ∧ bindable.images = [] ∧ bindable.saveSize = 0
      ∧ 0 + ({ grid1 with nextTeam := 0 } : Grid).imageSize ≤ 2 ^ 30)
    ∧ ((boundAt 5).teams.map (fun e => (e.2.phase, e.2.resume, e.2.action)) = [(.bound, false, 0)] ∧ (boundAt 5).admits = [] ∧ 0 < (boundAt 5).param 5
      ∧ ((boundAt 5).grid 1).first = true ∧ ((boundAt 5).grid 1).localSize ≤ 393216 ∧ 5 ≤ (boundAt 5).now / 100 ∧ (boundAt 5000).now / 100 < 5000) := by
  decide +kernel
theorem test_acceptance : (let t := after (exec (.launchRequest 0) (host lq1))
      t.accepting == [(0, 0x100000)] && memGetN t.mem 0x50001000 64 == leBytes 64 (qEncode { lq1 with head := 1, free := 2 })) = true
    ∧ (after (exec (.launchRequest 0) ((host lq1).poke 0x50002008 [1]))).accepting = []
    ∧ (let t := after (exec (.gridAcceptance 0) (accepting 0 8 0x200000 []))
      t.grids.map (fun e => (e.1, e.2.entry, e.2.contexts, e.2.t0)) == [(1, 0x2000, [(0, 0)], 1000)] && memGetN t.mem 0x40200008 8 == leBytes 8 1000) = true
    ∧ (let t := after (exec (.gridAcceptance 0) (accepting 8 9 0x200000 []))
      memGetN t.mem 0x40200000 8 == leBytes 8 0x303 && memGetN t.mem 0x40200018 8 == leBytes 8 1000 && t.outgoing == [.interrupt 0] && t.grids.isEmpty) = true := by
  decide +kernel
theorem test_admission : (after (exec (.bindRecord 1 0 7) bindable)).teams.map (fun e => (e.1, e.2.core, e.2.slot, e.2.phase)) = [(8, 7, 0, .bound)]
    ∧ (let t := after (exec (.teamAdmit 1) (boundAt 5))
      (t.team 1).phase == .running && (t.team 1).groups.map (fun e => (e.1, e.2.lanes.length)) == [(0, 8)] && (t.lane ⟨1, 0, 4⟩).helper == false
        && (t.lane ⟨1, 0, 5⟩).helper && (t.lane r0).pc.toNat == programBase) = true
    ∧ decide (after (exec (.teamAdmit 1) (boundAt 5000)) = boundAt 5000) = true := by decide +kernel
/-- The team's lanes have all exited. -/
def gone (ph : Phase) : State := inTeam one (fun t => { t with phase := ph, groups := t.groups.map (fun e => (e.1, { e.2 with exited := 1 })) })
/-- The grid's teams have all gone. -/
def empty (flags : Nat) : State := { inGrid one (fun g => { g with liveTeams := 0, flags := flags }) with teams := [] }
/-- The grid is stopped by code c. -/
def stopped (c : Nat) (written : Bool) : State :=
  inGrid one (fun g => { g with stop := some { cause := c, place := 0, teamid := 0, pc := 64, addr := 5, time := 900, where_ := 0, count := 1, cycle := 90, written := written } })
theorem witness_RetirementAndStops : (one.teams.map (fun e => (e.2.phase, e.2.groups.map Prod.fst)) = [(.running, [0])] ∧ one.groupDone 1 0 = false
      ∧ (∀ e ∈ (gone .running).teams, e.2.ring.head = e.2.ring.tail ∧ ∀ z ∈ e.2.groups, z.2.retired = false ∧ ∀ l ∈ z.2.lanes, z.2.exited.getLsbD l.1 = true
          ∧ l.2.away = none ∧ l.2.parked = false ∧ l.2.inHandler = false ∧ l.2.sb = []) ∧ (gone .running).ops = [] ∧ (gone .running).chains = [])
    ∧ ((gone .stage1).quiet 1 = true ∧ ({ gone .stage1 with ops := (flying 0 [] id).ops } : State).quiet 1 = false
      ∧ (∀ e ∈ (gone .stage1).teams, e.2.stash = [] ∧ e.2.phase = .stage1))
    ∧ ((∀ e ∈ (gone .stage2).teams, e.2.phase = .stage2 ∧ e.2.pins = [] ∧ e.2.action = 0) ∧ ((gone .stage2).grid 1).requests = []
      ∧ (gone .stage2).images = [] ∧ (gone .stage2).waiters = [] ∧ (held_ Last.zero).holdsLast 1 = true)
    ∧ ((one.grid 1).liveTeams ≠ 0 ∧ ((empty 8).grid 1).liveTeams = 0 ∧ (Tab.find (empty 8).grids 1).isSome = true
      ∧ (empty 8).place 1 (((empty 8).grid 1).status + 0x18) 1 = .mem (programBase + 65536 + 0x18) none
      ∧ (empty 8).place 1 ((empty 8).grid 1).status 1 = .mem (programBase + 65536) none ∧ ((empty 8).tlbHit 1 ((empty 8).grid 1).status).isSome = true
      ∧ (empty 8).upd = [] ∧ (empty 8).teams = [] ∧ Memory.wf (empty 8).mem = true ∧ ((empty 8).grid 1).stop = none)
    ∧ ((∀ w, ((stopped 6 w).grid 1).stop.map StopInfo.written = some w)
      ∧ (∀ r ∈ (stopped 6 false).teamLanes 1, ((stopped 6 false).lane r).cond = .running ∧ ((stopped 6 false).lane r).away = none)
      ∧ ({ stopped 6 false with teams := [] } : State).place 1 (((stopped 6 false).grid 1).status + 0x40) 1 = .mem (programBase + 65536 + 0x40) none) := by decide +kernel
theorem test_retirement : (let t := after (exec (.groupRetire 1 0) (gone .running)); ((t.team 1).phase, (t.team 1).gate)) = (.stage1, false)
    ∧ ((after (exec (.teamRetireStage2 1) (gone .stage1))).team 1).phase = .stage2
    ∧ (let t := after (exec (.teamRetireStage3 1) (gone .stage2)); (t.teams.length, (t.grid 1).liveTeams)) = (0, 0)
    ∧ (let t := after (exec (.gridComplete 1) (empty 8))
      t.outgoing == [.interrupt 1] && t.grids.isEmpty && memGetN t.mem (programBase + 65536) 8 == leBytes 8 (2 ^ 32 + 1)
        && memGetN t.mem (programBase + 65536 + 0x18) 8 == leBytes 8 1000) = true := by decide +kernel
theorem test_stops : ((after (exec (.contextStop 1) (stopped 6 false))).team 1).phase = .stopping
    ∧ (let t := after (exec (.contextStop 1) { stopped 6 false with teams := [] })
      t.outgoing == [.stopNotice 1] && (t.grid 1).liveTeams == 0 && memGetN t.mem (programBase + 65536 + 0x40) 4 == [6, 0, 0, 0]) = true := by decide +kernel
/-- The team in a phase with an action, of a grid with requests; it may be backed and in a region. -/
def preempted (ph : Phase) (action : Nat) (reqs : Tab Nat) : State :=
  inGrid (inTeam one (fun t => { t with phase := ph, action := action, actionAt := 500, redecide := action == 1, request := 3, backed := true }))
    (fun g => { g with requests := reqs })
theorem witness_Preemptions : ((one.team 1).action = 0 ∧ (∀ r ∈ one.teamLanes 1, (one.lane r).cond = .running ∧ (one.lane r).away = none) ∧ one.allExited 1 = false
      ∧ one.place 1 ((one.grid 1).status + 0x20) 1 = .mem (programBase + 65536 + 0x20) none ∧ one.upd = [] ∧ (∀ e ∈ one.teams, e.2.stash = [])
      ∧ one.bad = [] ∧ one.waiters = [] ∧ Memory.wf one.mem = true ∧ ((preempted .running 0 []).team 1).backed = true
      ∧ ((idem true 64).grid 1).idem = true ∧ ((idem true 64).team 1).inRegion = true ∧ (gone .running).allExited 1 = true)
    ∧ (((boundAt 5).team 1).phase = .bound ∧ one.policyAllows 1 = false)
    ∧ (((preempted .running 1 [(3, 2)]).team 1).redecide = true ∧ ((preempted .running 1 [(3, 2)]).grid 1).idem = false
      ∧ (preempted .running 1 [(3, 2)]).now / 100 < 500 + 2000 * (preempted .running 1 [(3, 2)]).param 0
      ∧ 500 + 2000 * ({ preempted .running 1 [(3, 2)] with now := 10 ^ 9 } : State).param 0 ≤ ({ preempted .running 1 [(3, 2)] with now := 10 ^ 9 } : State).now / 100)
    ∧ ((preempted .saving 2 []).quiet 1 = true ∧ ({ preempted .saving 2 [] with ops := (flying 0 [] id).ops } : State).quiet 1 = false
      ∧ ((preempted .saving 2 [(3, 4)]).grid 1).requests = [(3, 4)] ∧ ((preempted .saving 2 []).team 1).stash = []
      ∧ (preempted .saving 2 [(3, 4)]).place 1 ((one.grid 1).status + 0x24) 1 = .mem (programBase + 65536 + 0x24) none)
    ∧ (one.grid 1).requests = [] ∧ (let s := preempted .flushing 3 [(3, 8)]; (s.grid 1).requests = [((s.team 1).request, 8)] ∧ s.quiet 1 = true)
    ∧ ((preempted .flushing 3 []).quiet 1 = true ∧ ((preempted .flushing 3 []).team 1).pins = [] ∧ (preempted .flushing 3 []).holdsLast 1 = false
      ∧ ({ preempted .flushing 3 [] with lasts := (posted (req .last (xs 0 0 0 0 0 0) 0 false)).lasts } : State).holdsLast 1 = true
      ∧ ((posted (req .last (xs 0 0 0 0 0 0) 0 false)).last 0).table ≠ []) := by decide +kernel
theorem test_preemption : (let t := after (exec (.preemption [1] 2) (preempted .running 0 []))
      (t.team 1).phase == .saving && (t.team 1).gate == false && (t.grid 1).preempts == 1 && (t.grid 1).requests == [(8, 4)]
        && memGetN t.mem (programBase + 65536 + 0x20) 4 == [1, 0, 0, 0]) = true
    ∧ (let t := after (exec (.preemption [1] 1) (boundAt 5)); (t.teams.length, t.images.map Prod.fst)) = (0, [1])
    ∧ (let t := after (exec (.drainRedecision 1) { preempted .running 1 [(3, 2)] with now := 10 ^ 9 }); ((t.team 1).phase, (t.grid 1).requests)) = (.saving, [(3, 6)])
    ∧ (let t := after (exec (.saveComplete 1) (preempted .saving 2 [(3, 4)]))
      t.teams.isEmpty && t.images.map (fun e => (e.1, e.2.resume)) == [(1, true)] && (t.grid 1).lastPre == 4 && memGetN t.mem (programBase + 65536 + 0x24) 4 == [4, 0, 0, 0]) = true
    ∧ (after (exec (.flushAndRestart 1) (preempted .flushing 3 []))).teams.map (fun e => (e.1, e.2.phase, e.2.inRegion)) = [(8, .bound, true)]
    ∧ (let s := preempted .flushing 3 [(3, 8)]
       let t := after (exec (.flushAndRestart 1) s)
       t.teams == [(8, { Team.zero with grid := 1, phase := .bound, backed := true, inRegion := true, carry := (s.team 1).unreleased })]
         && (t.grid 1).lastPre == 8 && (t.grid 1).requests == [] && memGetN t.mem (programBase + 65536 + 0x24) 4 == [8, 0, 0, 0]) = true := by decide +kernel

/-! ### Bring-up, power and the mailbox -/

/-- The package at a phase of its bring-up. -/
def booting (b : BootPhase) : State := { State.reset with boot := b }
/-- Eight like images are all good, or the first of them is not: what the signature and digest functions of Config say is open. -/
theorem witness_BootImages (good : BootImage → Prop) (i : BootImage) :
    (∀ j ∈ List.replicate 8 i, good j) ∨ ((List.replicate 8 i)[0]? = some i ∧ ¬ good i ∧ (∀ m j, m < 0 → (List.replicate 8 i)[m]? = some j → good j)) := by
  by_cases h : good i
  · exact .inl (fun j hj => by rw [(List.mem_replicate.mp hj).2]; exact h)
  · exact .inr ⟨rfl, h, fun _ _ hm => absurd hm (Nat.not_lt_zero _)⟩
/-- A sample of 3,000 W was taken at time 0, and it is now n ns. -/
def sampled (n : Nat) : State := { one with now := 100 * n, powerLog := [(0, 3000000)] }
/-- The host has rung for operation 0x13 before READY. -/
def rung : State := asking 0x13 [] (booting .initialised)
theorem witness_BringUpAndPower : (∀ b ∈ [BootPhase.off, .rails, .clocks, .verified, .initialised], (booting b).boot = b)
    ∧ ([true, true, false, true, true] : List Bool).length = 5 ∧ ([true, false, true, true] : List Bool)[1]? = some false
    ∧ Memory.wf (booting .initialised).mem = true
    ∧ (728 ≤ 750 ∧ 750 ≤ 772 ∧ 1890 < 1891)
    ∧ ((∀ e ∈ (sampled 1000000).powerLog, e.1 + 100000 ≤ (sampled 1000000).now / 100) ∧ ∃ e ∈ (sampled 99999).powerLog, (sampled 99999).now / 100 < e.1 + 100000)
    ∧ rung.doorbell = true ∧ rung.boot = .initialised ∧ Tab.getD rung.request 0 0 = 0x13
    ∧ (Tab.getD one.withheld 0 0 ≤ one.now / 100 ∧ one.now / 100 < Tab.getD ({ one with withheld := [(0, 5000)] } : State).withheld 0 0)
    ∧ (one.aperture + 0x40000100 = 0x40000100 ∧ isHost 0x40000100 = false ∧ physValid 0x40000100 = true ∧ physValid 0x40000107 = true
      ∧ one.ready = true ∧ one.upd = [] ∧ (∀ e ∈ one.teams, e.2.stash = []) ∧ one.waiters = [] ∧ one.bad = [] ∧ Memory.wf one.mem = true) := by decide +kernel
theorem test_bring_up : (after (exec (.powerUp [true, true, true, true, true]) (booting .off))).boot = .rails
    ∧ (after (exec (.powerUp [true, true, false, true, true]) (booting .off))).bootFail = some 0
    ∧ (after (exec (.perstDeassert true) (booting .rails))).boot = .clocks
    ∧ (after (exec (.memoryInit [true, true, true, true]) (booting .verified))).boot = .initialised
    ∧ (after (exec (.memoryInit [true, false, true, true]) (booting .verified))).bootFail = some 1
    ∧ (let t := after (exec .ready (booting .initialised)); (t.ready, t.launchCtl.length)) = (true, 4)
    ∧ (let t := after (exec .ready rung); (t.response, t.doorbell)) = ([1], false) := by decide +kernel
theorem test_power : (after (exec (.railOutOfTolerance 0 4 1891) one)).boot = .off ∧ (after (exec (.railOutOfTolerance 0 0 750) one)).boot = .ready
    ∧ (after (exec (.powerSample 2400001) one)).powerHold = true
    ∧ (after (exec (.powerSample 1000000) (sampled 99999))).powerLog = [(0, 3000000)]
    ∧ (let t := after (exec (.powerSample 1900000) (sampled 100000)); (t.powerLog, t.powerHold)) = ([(100000, 1900000), (0, 3000000)], true)
    ∧ (let t := after (exec (.powerSample 1900000) (sampled 1000000)); (t.powerLog, t.powerHold)) = ([(1000000, 1900000)], false)
    ∧ (after (exec (.railOvercurrent 2 1 120001) one)).withheld = [(2, 2000)]
    ∧ (after (exec (.withholdEnd 0) { one with withheld := [(0, 1000)] })).withheld = []
    ∧ memGetN (after (exec (.apertureAccess 0x40000100 2 (some [7, 8])) one)).mem 0x40000100 3 = [7, 8, 0] := by decide +kernel
/-- Requests that the host has submitted. -/
theorem witness_MailboxRequests : (one.doorbell = false ∧ State.reset.ready = false ∧ one.asks 1 [6, 0, 0] = false)
    ∧ (asking 1 [7, 0, 0] one).asks 1 [7, 0, 0] = true ∧ (asking 1 [3, 3, 31] one).asks 1 [3, 3, 31] = true
    ∧ (asking 1 [0, 5, 0] one).asks 1 [0, 5, 0] = true ∧ (asking 1 [0, 5, 1, 2] one).asks 1 [0, 5, 1, 2] = true ∧ one.isFrozen 0 5 = false
    ∧ (asking 1 [3, 2, 1, 0] one).asks 1 [3, 2, 1, 0] = true ∧ one.isFrozen 3 2 = false ∧ ({ one with frozen := [3 * 1024 + 2] } : State).isFrozen 3 2 = true
    ∧ (asking 2 [3, 2] one).asks 2 [3, 2] = true
    ∧ (asking 2 [0, 5] one).asks 2 [0, 5] = true ∧ (asking 3 [0, 5] one).asks 3 [0, 5] = true
    ∧ (∀ op ∈ [4, 5, 6, 7, 8, 9, 10, 11, 12, 13, 14], (asking op [] one).asks op [] = true)
    ∧ (one.saveUsed = 0 ∧ one.images = [] ∧ one.gangImages = [] ∧ ({ one with saveUsed := 5 } : State).saveUsed ≠ 0)
    ∧ (zeros 32).length = 32 ∧ ({ one with bootDigests := List.replicate 4 (zeros 32) } : State).bootDigests.flatten.length = 128
    ∧ one.attestLeaf < 32768 ∧ Tab.find one.grids 9 = none ∧ (Tab.find one.grids 1).isSome = true
    ∧ (((stopped 0x1C true).grid 1).stop.map (fun i => (i.cause % 256, i.written)) = some (0x1C, true) ∧ ((stopped 6 true).grid 1).stop.map (fun i => i.cause) = some 6)
    ∧ ((one.team 1).phase = .running ∧ (one.team 1).action = 0 ∧ one.allExited 1 = false ∧ (one.grid 1).requests = []
      ∧ one.place 1 ((one.grid 1).status + 0x20) 1 = .mem (programBase + 65536 + 0x20) none) := by decide +kernel
theorem test_mailbox : (after (exec (.readCounter 3 3 31 0) { asking 1 [3, 3, 31] one with counters := [(counterKey 3 3 31 0, 2 ^ 32 + 7)] })).response = [0, 7, 1]
    ∧ (after (exec (.readCounter 0 5 0 0) { asking 1 [0, 5, 0] one with cyclesBase := [(5, 40)] })).response = [0, 60, 0]
    ∧ (after (exec (.readCounter 3 2 1 0) { asking 1 [3, 2, 1, 0] one with frozen := [3 * 1024 + 2], counters := [(counterKey 3 2 1 0, 9)] })).response = [0, 9, 0]
    ∧ (let t := after (exec (.readCounter 3 2 1 0) (asking 1 [3, 2, 1, 0] one)); (t.response.take 1, t.freeCount)) = ([0], one.freeCount + 3)
    ∧ (after (exec (.readCounter 0 832 0 0) (asking 1 [0, 832, 0] one))).response = [1]
    ∧ (after (exec (.freeze 1 5) (asking 2 [1, 5] one))).frozen = [1 * 1024 + 5]
    ∧ (after (exec (.clear 1 5) { asking 3 [1, 5] one with counters := [(counterKey 1 5 2 0, 9)] })).counters = []
    ∧ (after (exec (.setParam 4 2401) (asking 4 [] one))).response = [1] ∧ (after (exec (.setParam 4 2400) (asking 4 [] one))).param 4 = 2400
    ∧ (after (exec (.setSaveRegion 5 6) { asking 12 [] one with saveUsed := 1 })).response = [2]
    ∧ (after (exec (.setAperture (2 ^ 36)) (asking 13 [] one))).aperture = 2 ^ 36 := by decide +kernel
theorem test_contexts : ((after (exec (.attach 1) (asking 6 [] one))).grid 1).attached = true ∧ ((after (exec (.detach 1) (asking 7 [] debugged))).grid 1).attached = false
    ∧ (after (exec (.attach 9) (asking 6 [] one))).response = [1]
    ∧ ((after (exec (.resume 1) (asking 8 [] (stopped 0x1C true)))).grid 1).stop = none
    ∧ (let t := after (exec (.preempt 1 1) (asking 9 [] one)); ((t.team 1).action, (t.grid 1).preempts)) = (1, 1) := by decide +kernel

/-! ### Migrations, registers, links and the fabric -/

/-- Die 0's tables are those of `walked`, whose leaf of 2 MiB at 2^30 names 0x70000000; the context's translations are cached. -/
def paging : State := { walked with tlb := [{ grid := 1, va := 2 ^ 30, size := 2 ^ 21, pte := 0x7000001F }, { grid := 1, va := 2 ^ 31, size := 2 ^ 16, pte := 0x7101001F }] }
/-- A queue's block stands at the frame's offset 64, with the die of the frame as its owner. -/
def framed : State := paging.poke 0x70000040 (leBytes 64 (qEncode (qMake 0x40002000 4 8 (dieOfPa 0x70000000) 1)))
/-- The leaf at 2^30 is versioned, with entry 9 in a state; a request names entry 2000 on die 1, or 9 itself, with frames 700 and 701. -/
def versioned (st : Nat) : State :=
  { asking 11 [] (paging.poke 0x60003000 (leBytes 8 (71 + 9 * 256))) with
    teams := []
    versions := [(9, { ver0 with state := st, pins := 2 })]
    images := [(4, { one.team 1 with pins := [(9, 2), (3, 1)] })] }
def newPage (i : Nat) : Nat := i + 700 * 2 ^ 12 + 701 * 2 ^ 27
/-- Its migration is under way. -/
def movingPage : State :=
  { versioned 3 with migrations := [(6, { grid := 1, va := 2 ^ 30, size := 2 ^ 21, old := 9, new := newPage 2000, retries := 0, versioned := true })] }
/-- The commit of an ENQ that used an earlier translation of 2^30, while an invalidation of its range is under way. -/
def invalidating (held : Bool) : State :=
  let s := { reserved with invals := [(4, (1, 2 ^ 30, 2 ^ 30 + 1))] }
  { s with ops := s.ops.map (fun e => (e.1, { e.2 with info := { e.2.info with addr := if held then 2 ^ 30 else 0 } })) }
theorem witness_MigrationsAndInvalidations_versioned :
    (∀ st ∈ [0, 2], (versioned st).asks 11 [] = true ∧ (Tab.find (versioned st).grids 1).isSome = true
      ∧ (match (versioned st).walkVa 1 (2 ^ 30) with | .leaf e size => e == 71 + 9 * 256 && size == 2 ^ 21 | _ => false) = true
      ∧ leafAddr (versioned st) (2 ^ 30) 4 (((versioned st).grid 1).root + 8 * levelIndex 4 (2 ^ 30)) = some (0x60003000, 1)
      ∧ (Tab.find (versioned st).versions 9).map (fun v => (v.state, v.frame0, v.frame1)) = some (st, 600, 601))
    ∧ (bit (71 + 9 * 256) 6 = true ∧ (71 + 9 * 256) / 2 ^ 8 % 2 ^ 12 = 9)
    ∧ (newPage 2000 < 2 ^ 42 ∧ newPage 2000 % 2 ^ 12 = 2000 ∧ Tab.find (versioned 0).versions 2000 = none ∧ newPage 2000 / 2 ^ 12 % 2 ^ 15 = 700
      ∧ newPage 2000 / 2 ^ 27 % 2 ^ 15 = 701 ∧ (2000 : Nat) / 2 ^ 10 ≠ 9 / 2 ^ 10 ∧ newPage 9 % 2 ^ 12 = 9)
    ∧ (movingPage.migrations.map (fun e => (e.2.versioned, e.2.old)) = [(true, 9)] ∧ movingPage.publications = [] ∧ movingPage.teams = [])
    ∧ (∀ b ∈ [true, false], (invalidating b).commits.map (fun c => (c.2.lane.team, c.2.op)) = [(1, 6)]
      ∧ (invalidating b).ops.map (fun o => (o.1, o.2.info.addr)) = [(6, if b then 2 ^ 30 else 0)]) := by and_intros <;> decide +kernel
theorem test_versioned_migration : (let t := after (exec (.migrate 1 (2 ^ 30) (newPage 2000)) (versioned 0))
      t.response == [0] && t.versions.map (fun e => (e.1, e.2.state)) == [(9, 3)] && t.migrations.map (fun e => (e.2.va, e.2.versioned)) == [(2 ^ 30, true)]) = true
    ∧ (after (exec (.migrate 1 (2 ^ 30) (newPage 2000)) (versioned 2))).response = [2] ∧ (after (exec (.migrate 1 (2 ^ 30) (newPage 9)) (versioned 0))).response = [1]
    ∧ (let t := after (exec (.migrationRetry 6) movingPage)
      t.versions.map (fun e => (e.1, e.2.state, e.2.pins, e.2.frame0, e.2.frame1)) == [(2000, 0, 2, 700, 701)] && t.migrations.length == 0
        && t.images.map (fun e => e.2.pins) == [[(2000, 2), (3, 1)]] && memGetN t.mem 0x60003000 8 == leBytes 8 (71 + 2000 * 256)) = true
    ∧ (after (exec (.invalidationComplete 4) (invalidating true))).invals.length = 1
    ∧ (after (exec (.invalidationComplete 4) (invalidating false))).invals.length = 0 := by decide +kernel
theorem witness_MigrationsAndInvalidations : ((asking 10 [] paging).asks 10 [] = true ∧ (Tab.find paging.grids 1).isSome = true
      ∧ Tab.find ({ paging with invals := [(4, (1, 2 ^ 30, 2 ^ 30 + 1))] } : State).invals 4 = some (1, 2 ^ 30, 2 ^ 30 + 1) ∧ paging.waiters = [])
    ∧ ((asking 11 [] framed).asks 11 [] = true ∧ leafAddr framed (2 ^ 30) 4 ((framed.grid 1).root + 8 * levelIndex 4 (2 ^ 30)) = some (0x60003000, 1)
      ∧ leNat (memGetN framed.mem 0x60003000 8) = 0x7000001F ∧ bit 0x7000001F 6 = false ∧ 0x70200000 % leafSize 1 = 0 ∧ physValid 0x70200000 = true
      ∧ isHost 0x70200000 = false ∧ isHost 0x70000000 = false ∧ dieOfPa 0x70000000 = dieOfPa 0x70200000
      ∧ (match framed.walkVa 1 (2 ^ 30) with | .leaf e size => e == 0x7000001F && size == leafSize 1 | _ => false) = true ∧ framed.bad = []
      ∧ 0x60003000 + 8 ≤ 0x70200000 ∧ framed.upd = [] ∧ (∀ e ∈ framed.teams, e.2.stash = []) ∧ framed.waiters = [] ∧ Memory.wf framed.mem = true)
    ∧ (∃ pa ∈ [0x4000000000, 0x4070000000], pa % leafSize 1 = 0 ∧ physValid pa = true ∧ isHost pa = false ∧ dieOfPa 0x70000000 ≠ dieOfPa pa)
    ∧ (framed.queueAt 0x70000040 (qMake 0x40002000 4 8 (dieOfPa 0x70000000) 1))
    ∧ (Tab.find ({ reserved with migrations := [(4, { grid := 1, va := 0, size := 2 ^ 16, old := 0x40000000, new := 0x50000000, retries := 0 })] } : State).migrations 4).isSome = true := by
  unfold State.queueAt; and_intros <;> decide +kernel
theorem test_migrations : (after (exec (.invalidationComplete 4) { paging with invals := [(4, (1, 2 ^ 30, 2 ^ 30 + 1))] })).tlb.map (fun e => e.va) = [2 ^ 31]
    ∧ (after (exec (.migrationRetry 4) { reserved with migrations := [(4, { grid := 1, va := 0, size := 2 ^ 16, old := 0x40000000, new := 0x50000000, retries := 0 })] })).commits.map
        (fun c => c.2.ctl) = [0x50001000] := by decide +kernel
/-- A sealed link of peer 5 with key slot 0 current; slot 1 is empty, filled, or holds an old key under a marker. -/
def sealed (next : Option (Option Nat)) (st : List StoredFlit) : State :=
  let first : KeySlot := { key := 1, salt := 2, ctr := 3, seen := [8], inUse := true, marker := none }
  let second (m : Option Nat) : KeySlot := { key := 4, salt := 5, ctr := 0, seen := [], inUse := true, marker := m }
  let link : SealLink :=
    { current := 0, store := st, slots := (0, first) :: (match next with | none => [] | some m => [(1, second m)]) }
  { asking 14 [] one with txLinks := [(5, link)], rxLinks := [(5, link)] }
/-- A receive link without a key, and a transmit link whose key is used up. -/
def keyless : State := { asking 14 [] one with rxLinks := [(5, SealLink.zero)] }
def usedUp : State := let s := sealed none []
  { s with txLinks := s.txLinks.map (fun e => (e.1, { e.2 with slots := e.2.slots.map (fun k => (k.1, { k.2 with ctr := 2 ^ 32 })) })) }
theorem witness_RegisterWrites : (one.doorbell = false ∧ one.ready = true ∧ (asking 3 [] one).doorbell = true)
    ∧ (sealed none []).asks 14 [] = true ∧ ((Tab.getD (sealed none []).txLinks 5 SealLink.zero).slot 1).inUse = false
    ∧ ((Tab.getD (sealed (some none) []).rxLinks 5 SealLink.zero).slot 1).inUse = true
    ∧ (keyless.asks 14 [] = true ∧ (let l := Tab.getD keyless.rxLinks 5 SealLink.zero; (l.slot l.current).inUse = false ∧ (l.slot (1 - l.current)).inUse = false))
    ∧ (usedUp.asks 14 [] = true ∧ (let l := Tab.getD usedUp.txLinks 5 SealLink.zero
      (l.slot l.current).inUse = true ∧ 2 ^ 32 ≤ (l.slot l.current).ctr ∧ (l.slot l.current).marker = none ∧ (l.slot (1 - l.current)).inUse = false))
    ∧ one.ready = true ∧ State.reset.ready = false := by decide +kernel
theorem test_registers : (after (exec (.registerWrite 0x100004 7) one)).request = [(1, 7)]
    ∧ (after (exec (.registerWrite 0x100040 1) { one with request := [(0, 0x13)] })).response = [1] ∧ (after (exec (.registerWrite 0x100040 1) { one with request := [(0, 3)] })).doorbell = true
    ∧ (after (exec (.registerWrite 0x1000002 (2 ^ 128 - 1)) one)).nextTable.entries = [(2, 0xBFBFBFBFBFBFBFBF8000FFFF00FFFFFF)]
    ∧ (after (exec (.registerWrite 0x2000005 20) one)).ageLimit 5 = 32
    ∧ (after (exec (.registerWrite 0x1000401 0) one)).nextTable.nslot = one.nextTable.nslot ∧ (after (exec (.registerWrite 0x1000401 64) one)).nextTable.nslot = 64
    ∧ (after (exec (.registerWrite 0x1000601 5) one)).dev = one.dev ∧ (after (exec (.registerWrite 0x1000601 1029) State.reset)).dev = 5
    ∧ (after (exec (.registerWrite 0x1000602 77) one)).endpoint = 77
    ∧ (let t := after (exec (.setLinkKey 5 false 9 8) keyless); let l := Tab.getD t.rxLinks 5 SealLink.zero
      (l.slot l.current).key == 9 && ((Tab.getD (after (exec (.setLinkKey 5 false 7 8) { t with doorbell := true })).rxLinks 5 SealLink.zero).slot (1 - l.current)).key == 7) = true
    ∧ (let l := Tab.getD (after (exec (.setLinkKey 5 true 9 8) usedUp)).txLinks 5 SealLink.zero; (l.current, (l.slot 0).marker)) = (1, some (2 ^ 32 - 1))
    ∧ (after (exec (.setLinkKey 5 true 9 8) (sealed (some none) []))).response = [2]
    ∧ ((Tab.getD (after (exec (.setLinkKey 5 true 9 8) (sealed none []))).txLinks 5 SealLink.zero).slot 1).key = 9 := by decide +kernel
/-- A load of lane 0 from peer 5 on its way, not resent, with a change of the peer's entry staged or not. -/
def peering (resent : Bool) (stage : Tab Nat) : State :=
  { fetching with peers := [(5, 2 ^ 63 + 2 ^ 61 + 1)], ports := [(0, { config := 4, links := [(0, true)], busy := 0 })], staged := stage
                  sent := fetching.sent.map (fun e => (e.1, { e.2 with resent := resent, waits := false })) }
/-- A commit of peer 5's entry is staged while that load waits for it, sent before or not yet. -/
def moving (fresh : Bool) : State :=
  { peering false [(5, 2 ^ 61 + 1)] with sent := (peering false []).sent.map (fun e => (e.1, { e.2 with waits := true, fresh := fresh })) }
/-- Its bound has passed; its lane is a helper. -/
def expires (s : State) : State := { s with now := 10 ^ 12 }
def helping : State :=
  let s := aid (peering true [])
  { s with ops := s.ops.map (fun e => (e.1, { e.2 with info := { e.2.info with insn := wordOf (.ld (xs 8 2 4 0 0 0)), len := 4 } })) }
theorem witness_LinksAndPeers : (∀ fresh ∈ [false, true], (moving fresh).staged = [(5, 2 ^ 61 + 1)]
      ∧ (moving fresh).sent.map (fun e => (e.1, e.2.waits, e.2.queue, e.2.peer, e.2.fresh)) = [(5, true, none, 5, fresh)])
    ∧ bit (2 ^ 61 + 1) 61 = true ∧ (moving false).portUp (2 ^ 61 + 1) ∧ (moving true).portUp (2 ^ 61 + 1)
    ∧ (peering false []).sent.map (fun e => (e.2.resent, e.2.waits, e.2.held, e.2.peer)) = [(false, false, false, 5)]
    ∧ (peering false []).sent.map (fun e => (e.2.fresh, e.2.queue, e.2.gen)) = [(false, none, (peering false []).gen 5)]
    ∧ (peering false []).portUp ((peering false []).peerEntry 5)
    ∧ (Tab.find (peering false [(5, 2 ^ 62)]).staged 5).isSome = true ∧ Tab.find (peering false []).staged 5 = none
    ∧ (∀ e ∈ (peering false []).sent, e.1 = 5) ∧ bit ((peering false []).peerEntry 5) 61 = true
    ∧ (peering false []).now < 0 + (peering false []).classBound 0 ∧ 0 + (peering false []).classBound 0 ≤ (expires (peering false [])).now
    ∧ (peering true []).isHelper r0 = false ∧ (aid (peering true [])).isHelper r0 = true
    ∧ (match decodeBits 4 (wordOf (.ld (xs 8 2 4 0 0 0))) with | .ok (.ld _) => true | _ => false) = true
    ∧ (peering true []).sent.map (fun e => (e.2.resent, e.2.op, e.2.team)) = [(true, some 3, 1)]
    ∧ ((peering true []).gridOf 1).strict = false ∧ ((peering true []).grid 0).strict = false
    ∧ (peering true []).ops.map (fun e => (e.1, e.2.fill, e.2.together, e.2.info.code)) = [(3, some (8, 4), false, 0)] ∧ (peering true []).landings = []
    ∧ ({ peering true [] with sent := acked.sent } : State).sent.map (fun e => e.2.op) = [none] := by unfold State.portUp; and_intros <;> decide +kernel
/-- An Ethernet port's peer offers what R435 names; each change of one field leaves the port down. -/
def offer : LinkOffer := { ethernet := true, rate := 800, service := 0, lanes := 8 }
/-- The ports' configurations and links. -/
def links (s : State) : List (Nat × Nat × List (Nat × Bool)) := s.ports.map (fun e => (e.1, e.2.config, e.2.links))
theorem test_training : links (after (exec (.linkTraining 24 offer) one)) = [(24, 4, [(0, true)])] ∧ links (after (exec (.linkTraining 24 offer) { one with boot := .initialised })) = []
    ∧ ([{ offer with security := true }, { offer with offload := true }, { offer with otherClock := true }, { offer with service := 1 }] : List LinkOffer).all
        (fun o => links (after (exec (.linkTraining 24 o) one)) == [(24, 4, [(0, false)])]) = true
    ∧ links (after (exec (.linkTraining 3 { ethernet := false, rate := 200, service := 1, lanes := 4 }) one)) = [(3, 4, [(0, true)])]
    ∧ links (after (exec (.linkTraining 3 { ethernet := false, rate := 200, service := 1, lanes := 2, part := 1 }) (after (exec (.registerWrite 0x1000613 2) one)))) = [(3, 2, [(1, true)])]
    ∧ links (after (exec (.linkTraining 3 { ethernet := false, rate := 200, service := 1, lanes := 4, security := true }) one)) = [(3, 4, [(0, false)])] := by and_intros <;> decide +kernel
theorem test_links : (after (exec (.ptpMessage (-5001)) one)).unlocked = true ∧ (after (exec .unlocked { one with steer := 5 })).steer = 0
    ∧ (after (exec (.peerTableStage 5 (2 ^ 128 - 1)) one)).staged = [(5, (2 ^ 48 - 1) * 2 ^ 64 + 7 * 2 ^ 61 + (2 ^ 24 - 1))]
    ∧ (let t := after (exec .peerTableCommit (peering false [(5, 2 ^ 62)])); (t.peerEntry 5, t.gen 5, t.staged.length)) = (2 ^ 62, 1, 0)
    ∧ ([false, true].map (fun b => (after (exec .peerTableCommit (moving b))).sent.map (fun e => (e.2.waits, e.2.fresh, e.2.resent, e.2.at_)))) =
        [[(false, false, true, 0)], [(false, false, false, 100000)]] := by decide +kernel
theorem test_moved : (after (exec (.moved 5) (peering false [(5, 2 ^ 62)]))).sent.map (fun e => (e.2.waits, e.2.resent)) = [(true, false)]
    ∧ (after (exec (.moved 5) (peering false []))).sent.map (fun e => (e.2.waits, e.2.resent)) = [(false, true)]
    ∧ (let t := after (exec (.moved 5) (peering true [])); (t.sent.length, (t.team 1).terr, t.reg r0 8, t.ops.length)) = (0, 4#7, 0#32, 0)
    ∧ (let t := after (exec (.moved 5) helping); (t.sent.length, (t.team 1).terr, t.ops.length)) = (0, 0#7, 0)
    ∧ (after (exec (.packetDrop 5) (expires (peering false [])))).sent.length = 0 ∧ (after (exec (.moved 5) (expires (peering false [])))).sent.length = 1
    ∧ (after (exec (.packetDrop 5) (peering false []))).sent.length = 1 := by decide +kernel
/-- A request of device 7 for logical id 12, which this device owns. -/
def packet (k : PacketKind) (data : List Byte) : Packet :=
  { src := 7, logical := 12, cls := 0, seq := 4, sentAt := 99999000, after := [], epoch := 0, count := none, kind := k, offset := 0x40000100, data := data }
def owning : State := { (fabric 0).poke 0x40000100 [5] with owner := [(12, 2)] }
/-- The packet has been performed at time 990000; or its bound has passed before it comes. -/
def performed : State :=
  { owning with inbound := [(inboundKey (packet .write []), { src := 7, logical := 12, cls := 0, performed := [(4, 99000000, [0])], stores := [], visible := 0 })] }
theorem witness_FabricServing : (fabric 0).ownership 12 = 0 ∧ owning.ownership 12 = 2 ∧ owning.arrivals = [] ∧ (∀ e ∈ owning.peers, bits e.2 73 64 ≠ 7)
    ∧ (owning.inboundOf (packet .write [])).performed = [] ∧ (performed.inboundOf (packet .write [])).performed = [(4, 99000000, [0])]
    ∧ (packet .write []).sentAt + owning.classBound 0 ≤ (expires owning).now ∧ owning.now < (packet .write []).sentAt + owning.classBound 0
    ∧ (∀ e ∈ owning.sent, e.2.peer ≠ 1024 + 7) ∧ atomicOpFits 0 0 = true ∧ atomicOpFits 13 0 = false ∧ atomicOpFits 9 1 = false
    ∧ performed.now < 99000000 + performed.classBound 0 ∧ 0 < owning.classBound 0
    ∧ owning.upd = [] ∧ (∀ e ∈ owning.teams, e.2.stash = []) ∧ owning.bad = [] ∧ owning.waiters = [] ∧ Memory.wf owning.mem = true
    ∧ owning.place owning.fabricGrid 0x40000100 0 = .mem 0x40000100 none ∧ owning.place owning.fabricGrid 0x40000100 1 = .mem 0x40000100 none
    ∧ owning.place owning.fabricGrid 0x10000000000 0 = .bad 5 false := by decide +kernel
theorem test_serving : decide ((after (exec (.fabricRequest (packet (.read 4) [])) owning)).outgoing = [.reply 7 4 [0, 5, 0, 0, 0]]) = true
    ∧ decide ((after (exec (.fabricRequest (packet (.read 4) [])) (fabric 0))).outgoing = [.moved 7 4]) = true
    ∧ decide (after (exec (.fabricRequest (packet (.read 4) [])) (expires owning)) = expires owning) = true
    ∧ decide ((after (exec (.fabricRequest (packet (.atomic 13 32 3) [])) owning)).outgoing = [.reply 7 4 [1]]) = true
    ∧ decide ((after (exec (.fabricRequest (packet .write [9])) performed)).outgoing = [.reply 7 4 [0]]) = true
    ∧ (let t := after (exec (.fabricRequest (packet .write [9, 8])) owning); memGetN t.mem 0x40000100 3) = [9, 8, 0]
    ∧ (let t := after (exec (.fabricRequest (packet (.atomic 0 32 3) [])) owning); memGetN t.mem 0x40000100 4) = [8, 0, 0, 0]
    ∧ (let t := after (exec (.fabricRequest (packet (.cas 32 5 6) [])) owning); memGetN t.mem 0x40000100 4) = [6, 0, 0, 0]
    ∧ (after (exec (.ownershipSet 12 2) (fabric 0))).owner = [(12, 2)] ∧ (after (exec (.ownershipSet 1024 2) (fabric 0))).owner = [] := by decide +kernel
/-- A flit of peer 5 under slot 0 with counter 9, its link check right or wrong. -/
def flit (ctr : Nat) (ok : Bool) : Flit := { peer := 5, hdr := ctr, body := zeros 232, tag := 0, crcOk := ok }
/-- The flit of counter 9 has failed n times. -/
def failed (n : Nat) : State := { sealed none [] with sealFails := [(flitKey 5 0 9, n)] }
def kept0 (n : Nat) : StoredFlit := { slot := 0, ctr := 2, bytes := [1], resends := n, packet := 77 }
/-- Whether a flit authenticates is open: either the clauses for one that does or those for one that does not apply. -/
theorem witness_SealedFlits_open : ∀ opened : Option (List Byte), opened = none ∨ ∃ pt, opened = some pt := fun o => by cases o <;> simp
/-- A counter seen and one not, 0, 3 and 4 failures; a stored flit sent again or not; a NEXT that is in use, empty, or holds an old key. -/
theorem witness_SealedFlits : (let x := (Tab.getD (sealed none []).rxLinks 5 SealLink.zero).slot 0; x.inUse = true ∧ 8 ∈ x.seen ∧ 9 ∉ x.seen ∧ bit (flit 9 true).hdr 63 = false)
    ∧ Tab.getD (sealed none []).sealFails (flitKey 5 0 9) 0 < 3 ∧ (∀ n ∈ [3, 4], Tab.getD (failed n).sealFails (flitKey 5 0 9) 0 = n)
    ∧ (∀ n ∈ [0, 3], (Tab.getD (sealed none [kept0 n]).txLinks 5 SealLink.zero).store = [kept0 n] ∧ (kept0 n).resends = n ∧ Tab.find (sealed none [kept0 n]).sent 77 = none)
    ∧ (let l := Tab.getD (sealed (some none) []).txLinks 5 SealLink.zero; (l.slot 1).inUse = true ∧ (l.slot l.current).inUse = true ∧ (l.slot 0).ctr < 2 ^ 32 ∧ (l.slot 1).marker = none)
    ∧ ((Tab.getD (sealed none []).txLinks 5 SealLink.zero).slot 1).inUse = false ∧ ((Tab.getD (sealed none []).txLinks 5 SealLink.zero).slot 1).marker = none
    ∧ (let l := Tab.getD (sealed (some (some 6)) []).txLinks 5 SealLink.zero; (l.slot 1).marker = some 6 ∧ l.store = []) := by decide +kernel
theorem test_sealed : (let t := after (exec (.flitReceive (flit 9 false)) (sealed none [])); (t.flits.length, Tab.getD t.counters (counterKey 4 0 6 0) 0)) = (0, 1)
    ∧ (let t := after (exec (.flitRerequest 5 0 2) (sealed none [kept0 0])); decide (t.outgoing = [.flit 5 0 2 [1]])) = true
    ∧ (Tab.getD (after (exec (.flitRerequest 5 0 2) (sealed none [kept0 3]))).txLinks 5 SealLink.zero).store = []
    ∧ decide (after (exec (.flitReceive (flit 9 true)) (failed 4)) = failed 4) = true
    ∧ (Tab.getD (after (exec (.switchOver 5) (sealed none []))).txLinks 5 SealLink.zero).current = 0
    ∧ (Tab.getD (after (exec (.switchOver 5) (sealed (some (some 6)) []))).txLinks 5 SealLink.zero).current = 0
    ∧ (let t := after (exec (.oldKeyDiscard 5 true) (sealed (some (some 6)) [])); decide (t.outgoing = [.linkNotice 5])) = true := by decide +kernel
/-- Slot 0 of two runs now; port 24 reaches queue 3 in it, which holds a message of 8 bytes for peer 5; n is what the port is busy until. -/
def circuit (n dur : Nat) : State :=
  { slots with
    peers := [(3, 2 ^ 63), (5, 2 ^ 64 * 77 + 2 ^ 63 + 2 ^ 62)]
    slotTable := { entries := [(0, 2 ^ 63 + dur + (128 + 3) * 2 ^ 64), (1, 2 ^ 63 + 10)], epoch := 999000, nslot := 2 }
    slotNow := some 0, slotStart := 99900000
    queues := [(3, { peer := some 5, msgs := [{ queue := 3, team := 1, dst := 0x40000900, notify := 0, bytes := [1, 2, 3, 4, 5, 6, 7, 8] }] })]
    ports := [(24, { config := 4, links := [(0, true)], busy := n })] }
/-- The port has sent a packet of queue 3 that was lost. -/
def lost (dur : Nat) : State :=
  { circuit 0 dur with sent := acked.sent.map (fun e => (e.1, { e.2 with cls := 2, data := [1, 2], queue := some 3, waits := true, at_ := 99900000 })) }
/-- A message to 2^30 + 0x900 that notifies an address. -/
def message (notify : Nat) : Message := { queue := 3, team := 1, dst := 0x40000900, notify := notify, bytes := [1, 2, 3, 4, 5, 6, 7, 8] }
theorem witness_CircuitSlots : (({ one with tablePending := true } : State).nextTable.epoch * 100 ≤ one.now
      ∧ one.now < ({ one with nextTable := { entries := [], epoch := 10 ^ 6, nslot := 0 } } : State).nextTable.epoch * 100)
    ∧ (let ds := (circuit 0 10).slotTable.used.map slotDur
       let start := (circuit 0 10).slotTable.epoch * 100 + 0 * ds.sum + (ds.take 0).sum
       0 < ds.length ∧ start ≤ (circuit 0 10).now ∧ (circuit 0 10).now < start + ds.getD 0 0)
    ∧ (let e := Tab.getD (circuit 0 10).slotTable.entries 0 0
       bit e 63 = true ∧ slotReach e 0 = some 3 ∧ (circuit 0 10).slotNow = some 0 ∧ (circuit 0 10).slotStart ≤ (circuit 0 10).now
         ∧ (circuit 0 10).now + (8 + 64) + slotGuard e ≤ (circuit 0 10).slotStart + slotDur e ∧ (circuit 0 10).fabricBusy 5 = false
         ∧ (∀ x ∈ (circuit 0 10).ports, x.2.up = true) ∧ (circuit 0 10).sent = [] ∧ ((circuit 0 10).stream 5 2).seq < 2 ^ 32
         ∧ bit ((circuit 0 10).peerEntry 5) 62 = true)
    ∧ (∀ e ∈ (lost 10).sent, e.2.queue = some 3 ∧ e.2.waits = true ∧ (lost 10).overdue e.2 = false) ∧ (message 0).endpoint = (fabric 0).endpoint
    ∧ (let e := Tab.getD (circuit 0 1).slotTable.entries 0 0; (circuit 0 1).slotStart + slotDur e < (circuit 0 1).now + (8 + 64) + slotGuard e)
    ∧ ((fabric 0).place (fabric 0).fabricGrid 0x40000900 1 = .mem 0x40000900 none ∧ (fabric 0).place (fabric 0).fabricGrid 0x40000A00 1 = .mem 0x40000A00 none
      ∧ ((fabric 0).tlbHit (fabric 0).fabricGrid 0x40000A00).isSome = true ∧ (fabric 0).upd = [] ∧ (∀ e ∈ (fabric 0).teams, e.2.stash = []) ∧ Memory.wf (fabric 0).mem = true)
    ∧ (bit ((circuit 0 10).peerEntry 5) 63 = true ∧ bit ((circuit 0 10).peerEntry 3) 62 = false) := by decide +kernel
theorem test_circuit : (after (exec .slotTableEpoch { one with tablePending := true, nextTable := { entries := [(0, 5)], epoch := 1000, nslot := 1 } })).slotTable.nslot = 1
    ∧ (after (exec .slotBoundary { circuit 0 10 with slotNow := none, slotStart := 0 })).slotStart = 99900000
    ∧ (let t := after (exec (.messageSend 24) (circuit 0 10)); decide (t.outgoing = [.message { message 0 with endpoint := 77 }] ∧ t.sent.map (fun e => (e.2.cls, e.2.queue, e.2.data.length)) = [(2, some 3, 8)] ∧ t.ports.map (fun e => e.2.busy) = [100000072])) = true
    ∧ (after (exec (.messageSend 24) (circuit 0 1))).outgoing.length = 0
    ∧ (let t := after (exec (.messageSend 24) (lost 10)); (t.sent.map (fun e => e.2.waits), t.outgoing.length, t.ports.map (fun e => e.2.busy))) = ([false], 0, [100000066])
    ∧ decide (after (exec (.messageDelivery { message 0 with endpoint := 1 }) (fabric 0)) = fabric 0) = true
    ∧ (let t := after (exec (.messageDelivery (message 0x40000A00)) ((fabric 0).poke 0x40000A00 [255])); (memGetN t.mem 0x40000900 9, memGetN t.mem 0x40000A00 2)) =
        ([1, 2, 3, 4, 5, 6, 7, 8, 0], [0, 1])
    ∧ ((after (exec (.sendQueueBind 9 5) (circuit 0 10))).sendQueue 9).peer = some 5 ∧ ((after (exec (.sendQueueBind 9 3) (circuit 0 10))).sendQueue 9).peer = none := by decide +kernel

end Sys2Proof.Tests
end

/-! PROOFS. An instruction whose guard holds in no present lane (R74). -/

namespace Sys2Proof.Machine

open Sys2Proof

/-! ### The prologue where no lane is active -/

/-- The state in which every present lane has moved past the instruction and nothing else has changed. -/
def State.presentPassed (s : State) : State := s.withLanes s.present (fun r => (s.lane r).passed s)

/-- The guard (!p0) holds in no lane, since p0 reads as true (R13). -/
theorem State.active_not_p0 (s : State) : s.active 0 true = [] :=
  List.filter_eq_nil_iff.mpr fun r _ => by simp [State.guard, Lane.pred]

/-- Where no lane is active the guard of each present lane is false. -/
theorem State.guard_of_active_nil {s : State} {p : BitVec 3} {neg : Bool} (ha : s.active p neg = []) {r : LaneRef}
    (hr : r ∈ s.present) : s.guard p neg r = false :=
  Bool.eq_false_iff.mpr (List.filter_eq_nil_iff.mp ha r hr)

section
variable {i : Instr} {p : BitVec 3} {neg : Bool} {s : State}

/-- A lane whose guard is false, and reads without a parity failure, takes no fault in the prologue, whatever the checks are. -/
theorem State.verdict_of_guard_false (bad : State → LaneRef → Option (Nat × Nat)) (parity : State → LaneRef → Option Nat × Option Nat)
    {r : LaneRef} (hl : s.guardLost p r = false) (hg : s.guard p neg r = false) : s.verdict p neg bad parity r = none := by
  simp [State.verdict, hl, hg]

/-- Where no lane is active and the effect on no lanes is none, the present lanes pass, whatever the checks of the prologue are. -/
theorem execute_of_active_nil (hu : Undisturbed i p neg s) (ha : s.active p neg = [])
    (bad : State → LaneRef → Option (Nat × Nat)) (parity : State → LaneRef → Option Nat × Option Nat)
    {f : State → List LaneRef → State} (hf : ∀ t, f t [] = t) : execute p neg bad parity f s = s.presentPassed := by
  have hn : s.present.Nodup := hu.present_nodup
  obtain ⟨-, hl, -⟩ := hu
  have hv : ∀ r ∈ s.present, s.verdict p neg bad parity r = none := fun r hr =>
    State.verdict_of_guard_false bad parity (hl r hr) (State.guard_of_active_nil ha hr)
  have hrest : s.present.filter (fun r => !s.guard p neg r && !s.guardLost p r) = s.present :=
    List.filter_eq_self.mpr fun r hr => by simp [hl r hr, State.guard_of_active_nil ha hr]
  simp only [execute, hrest, ha, List.filter_nil, hf]
  rw [List.foldl_ext _ (fun u _ => u) _ (fun u r hr => by rw [hv r hr]), List.foldl_fixed, State.advanceAll_eq s hn]
  rfl

/-- A guarded instruction with no active lane. -/
theorem runGuarded_of_active_nil (hu : Undisturbed i p neg s) (ha : s.active p neg = []) {f : State → List LaneRef → State}
    (hf : ∀ t, f t [] = t) : runGuarded i p neg f s = .next s.presentPassed :=
  congrArg Host.Outcome.next (execute_of_active_nil hu ha _ _ hf)
end

section
variable {i : Instr} {x : XForm} {s : State}

/-- An X form whose lanes act one after another, with no active lane. -/
theorem runLanes_of_active_nil (hu : Undisturbed i x.p x.pn s) (ha : s.active x.p x.pn = []) (f : State → LaneRef → State) :
    runLanes i x f s = .next s.presentPassed :=
  runGuarded_of_active_nil hu ha fun _ => rfl
end

/-! ### What acts on all active lanes together does nothing on no lanes -/

@[simp] theorem State.raiseAll_nil (s : State) (code addr detail : Nat) : s.raiseAll [] code addr detail = s := rfl
@[simp] theorem State.workers_nil (s : State) : s.workers [] = [] := rfl
@[simp] theorem State.finishTogether_nil (s : State) (x : XForm) (ws : List (Nat × Word)) (ps : List (Nat × Bool)) :
    s.finishTogether [] x ws ps = s := rfl
@[simp] theorem State.deqLanes_nil (s : State) (x : XForm) : s.deqLanes x [] = s := rfl

/-- A load makes no access, not even the one for an s-register (R204). -/
@[simp] theorem State.loadLanes_nil (s : State) (x : XForm) (f : State → LaneRef → State) : s.loadLanes x [] f = s := by
  simp [State.loadLanes, State.onceFor]

/-- A pin or unpin pins no page. -/
@[simp] theorem pinLanes_nil (x : XForm) (up : Bool) (s : State) : pinLanes x up s [] = s := by
  simp [pinLanes, distinct]

/-- A conversion of a block of no elements: no fault, no scale and no phase. -/
@[simp] theorem cvtqLanes_nil (x : XForm) (s : State) : cvtqLanes x s [] = s := by
  simp [cvtqLanes]

/-- A draw takes no point. -/
@[simp] theorem prick_nil (x : XForm) (dims : Nat) (out : State → LaneRef → List Nat → List (Nat × Word) × List (Nat × Bool))
    (once : Bool) (s : State) : prick x dims out once s [] = s := by
  cases once <;> rfl

section
variable {i : Instr} {x : XForm} {s : State}

/-- A matrix or walk instruction with no active lane: neither its faults of the whole issue nor its meaning reach a lane. -/
theorem matrixX_of_active_nil (hu : Undisturbed i x.p x.pn s) (ha : s.active x.p x.pn = [])
    (f : State → List LaneRef → LaneRef → MatEnd) (every : Option Nat) : matrixX i x f s every = .next s.presentPassed := by
  refine congrArg Host.Outcome.next (execute_of_active_nil hu ha _ _ fun t => ?_)
  cases every <;> simp
end

/-! ### Every guarded instruction -/

/-- An instruction of the B, J or X form whose guard holds in no present lane is passed by the present lanes (R74). -/
theorem exec_of_active_nil {i : Instr} {p : BitVec 3} {neg : Bool} {s : State} (hi : guardOf i = some (p, neg))
    (hu : Undisturbed i p neg s) (ha : s.active p neg = []) : exec i s = .next s.presentPassed := by
  cases i with
  -- each active lane for itself, in lane order
  | bra f | call f | leave f | movi f | hread x | col x | slotq x =>
    cases hi
    exact runGuarded_of_active_nil hu ha fun _ => rfl
  | st x | stl x | ldv x | pf x | acp16 x | acps16 x | twait x | fence x | fencex x | cvt x | cvtpk x | fma x | binit x | barr x | bwait x
  | barw x | btestp x | bdrop x | qinit x | qstat x | qclose x | cwait x | rtrap x | idemb x | ideme x | ctxr x | ctxw x =>
    cases hi
    exact runLanes_of_active_nil hu ha _
  | enq x =>
    cases hi
    exact congrArg Host.Outcome.next (execute_of_active_nil hu ha _ _ fun _ => rfl)
  -- once for the last active lane, or with a step that follows for the lanes or groups that have acted
  | jmset f | jmget f | join f | waitj f | smap x | sunmap x | sflush x | sinv x | talloc x | tfree x | tstate x | chain x | tbar x | qldt x
  | hstep x | gettime x =>
    cases hi
    exact runGuarded_of_active_nil hu ha fun _ => rfl
  -- a check of the whole issue, a fault of which reaches the active lanes only
  | dph x | atom x | cas x | upd x | brk x =>
    cases hi
    exact runGuarded_of_active_nil hu ha fun t => by simp
  -- once for all active lanes where the destination is an s-register, else each for itself
  | ld x | ldl x =>
    cases hi
    exact runGuarded_of_active_nil hu ha fun t => t.loadLanes_nil x _
  | deq x | launch x =>
    cases hi
    exact runGuarded_of_active_nil hu ha fun t => by simp
  | qrnd x | qrndf x | qrnd2 x | qbern x =>
    cases hi
    exact runGuarded_of_active_nil hu ha (prick_nil x _ _ _)
  -- by the pages the active lanes name, or by the block their elements make
  | vpin x | vunpin x =>
    cases hi
    exact runGuarded_of_active_nil hu ha (pinLanes_nil x _)
  | cvtq x =>
    cases hi
    exact runGuarded_of_active_nil hu ha (cvtqLanes_nil x)
  -- the matrix engine's requests and walks
  | last x | lswap x | mstr x | mzero x | mstat x | twalk x | twnext x | twdone x =>
    cases hi
    unfold exec
    exact matrixX_of_active_nil hu ha _ _
  | mdrn x =>
    cases hi
    unfold exec execMdrn
    exact matrixX_of_active_nil hu ha _ _
  -- no guard
  | _ => cases hi

/-- Settles O10: the prologue moves the present lanes past, and the effect of every guarded instruction on no lanes is none. -/
theorem falseGuardsPass : Obligations.FalseGuardsPass := by
  intro i p neg s hi hu
  refine ⟨exec_of_active_nil hi hu, ?_⟩
  rintro rfl rfl
  exact s.active_not_p0

end Sys2Proof.Machine

/-! PROOFS. The integer, pair, immediate, predicate and move instructions (R92 to R108, R112, R123, R126). -/

namespace Sys2Proof.Machine

open Sys2Proof

/-! ### The integer functions as the rules state them (R97 to R101, R111) -/

theorem add_eq_ofNat (a b : Word) : a + b = BitVec.ofNat 32 ((a.toNat + b.toNat) % 2 ^ 32) :=
  BitVec.eq_of_toNat_eq (by simp)

/-- A difference taken exactly, as a word. -/
theorem ofInt_sub (m n : Int) : BitVec.ofInt 32 (m - n) = BitVec.ofInt 32 m - BitVec.ofInt 32 n := by
  rw [Int.sub_eq_add_neg, BitVec.ofInt_add, BitVec.ofInt_neg, BitVec.sub_eq_add_neg]

theorem sub_eq_ofInt (a b : Word) : a - b = BitVec.ofInt 32 ((a.toNat : Int) - b.toNat) := by
  rw [ofInt_sub, BitVec.ofInt_natCast, BitVec.ofInt_natCast, BitVec.ofNat_toNat, BitVec.ofNat_toNat, BitVec.setWidth_eq,
    BitVec.setWidth_eq]

theorem mul_eq_ofNat (a b : Word) : a * b = BitVec.ofNat 32 (a.toNat * b.toNat % 2 ^ 32) :=
  BitVec.eq_of_toNat_eq (by simp)

/-- The high word of a product taken exactly. -/
theorem extractLsb'_ofInt_high (n : Int) : (BitVec.ofInt 64 n).extractLsb' 32 32 = BitVec.ofInt 32 (n / 2 ^ 32) := by
  apply BitVec.eq_of_toNat_eq
  simp only [BitVec.extractLsb'_toNat, BitVec.toNat_ofInt, Nat.shiftRight_eq_div_pow]
  omega

theorem mulHi_eq_extractLsb' (a b : Word) : mulHi a b = (a.signExtend 64 * b.signExtend 64).extractLsb' 32 32 := by
  rw [BitVec.signExtend, BitVec.signExtend, ← BitVec.ofInt_mul, extractLsb'_ofInt_high]
  rfl

theorem mulHiU_eq_extractLsb' (a b : Word) : mulHiU a b = (a.zeroExtend 64 * b.zeroExtend 64).extractLsb' 32 32 := by
  have hab : a.toNat * b.toNat < 2 ^ 32 * 2 ^ 32 := Nat.mul_lt_mul'' a.isLt b.isLt
  apply BitVec.eq_of_toNat_eq
  simp [mulHiU, Nat.shiftRight_eq_div_pow]
  omega

theorem shlW_eq_shiftLeft (a b : Word) : shlW a b = if 32 ≤ b.toNat then 0 else a <<< b.toNat := by
  unfold shlW
  split
  · rfl
  · apply BitVec.eq_of_toNat_eq
    simp [Nat.shiftLeft_eq]

theorem shrlW_eq_ushiftRight (a b : Word) : shrlW a b = a >>> b := by
  apply BitVec.eq_of_toNat_eq
  have hq : a.toNat / 2 ^ b.toNat < 2 ^ 32 := Nat.lt_of_le_of_lt (Nat.div_le_self ..) a.isLt
  unfold shrlW
  split
  · next h =>
    have : a.toNat < 2 ^ b.toNat := Nat.lt_of_lt_of_le a.isLt (Nat.pow_le_pow_right (by decide) h)
    simp [Nat.shiftRight_eq_div_pow, Nat.div_eq_of_lt this]
  · rw [BitVec.toNat_ofNat, Nat.mod_eq_of_lt hq, BitVec.ushiftRight_eq', BitVec.toNat_ushiftRight, Nat.shiftRight_eq_div_pow]

theorem shraW_eq_sshiftRight (a b : Word) : shraW a b = a.sshiftRight b.toNat := by
  unfold shraW
  have hs : a.toInt / 2 ^ min b.toNat 31 = a.toInt >>> b.toNat := by
    rw [Int.shiftRight_eq_div_pow]
    by_cases hb : b.toNat ≤ 31
    · simp [Nat.min_eq_left hb]
    · have h1 := a.two_mul_toInt_lt
      have h2 := a.le_two_mul_toInt
      have hp : (2 ^ 31 : Int) ≤ ((2 ^ b.toNat : Nat) : Int) := by
        exact_mod_cast Nat.pow_le_pow_right (by decide) (by omega : 31 ≤ b.toNat)
      rw [Nat.min_eq_right (by omega)]
      rcases lt_or_ge a.toInt 0 with h | h
      · rw [Int.ediv_eq_neg_one_of_neg_of_le h (by omega), Int.ediv_eq_neg_one_of_neg_of_le h (by omega)]
      · rw [Int.ediv_eq_zero_of_lt h (by omega), Int.ediv_eq_zero_of_lt h (by omega)]
  rw [hs, ← BitVec.toInt_sshiftRight, BitVec.ofInt_toInt]

theorem rotlW_eq_rotateLeft (a b : Word) : rotlW a b = a.rotateLeft (b.toNat % 32) := by
  apply BitVec.eq_of_toNat_eq
  rw [BitVec.toNat_rotateLeft, Nat.mod_mod, Nat.shiftLeft_eq, Nat.shiftRight_eq_div_pow]
  refine Nat.mod_eq_of_lt (Nat.or_lt_two_pow (Nat.mod_lt _ (by decide)) ?_)
  exact Nat.lt_of_le_of_lt (Nat.div_le_self ..) a.isLt

theorem rotrW_eq_rotateRight (a b : Word) : rotrW a b = a.rotateRight (b.toNat % 32) := by
  apply BitVec.eq_of_toNat_eq
  rw [BitVec.toNat_rotateRight, Nat.mod_mod, Nat.shiftLeft_eq, Nat.shiftRight_eq_div_pow]
  refine Nat.mod_eq_of_lt (Nat.or_lt_two_pow ?_ (Nat.mod_lt _ (by decide)))
  exact Nat.lt_of_le_of_lt (Nat.div_le_self ..) a.isLt

theorem minS_eq_ite_sle (a b : Word) : minS a b = if a.sle b then a else b := by
  simp [minS, BitVec.sle_eq_decide]
theorem maxS_eq_ite_sle (a b : Word) : maxS a b = if b.sle a then a else b := by
  simp [maxS, BitVec.sle_eq_decide]

theorem satW_eq_ite (n : Int) :
    satW n = if n < -2 ^ 31 then 0x80000000#32 else if 2 ^ 31 - 1 < n then 0x7FFFFFFF#32 else BitVec.ofInt 32 n := by
  unfold satW
  split_ifs with h1 h2
  · rw [show max (-(2 ^ 31)) (min (2 ^ 31 - 1) n) = -2 ^ 31 by omega]; rfl
  · rw [show max (-(2 ^ 31)) (min (2 ^ 31 - 1) n) = 2 ^ 31 - 1 by omega]; rfl
  · rw [show max (-(2 ^ 31)) (min (2 ^ 31 - 1) n) = n by omega]

theorem addsat_eq_ite (a b : Word) :
    satW (a.toInt + b.toInt) =
      let n := a.toInt + b.toInt
      if n < -2 ^ 31 then 0x80000000#32 else if 2 ^ 31 - 1 < n then 0x7FFFFFFF#32 else a + b := by
  simp only [satW_eq_ite, BitVec.ofInt_add, BitVec.ofInt_toInt]

theorem subsat_eq_ite (a b : Word) :
    satW (a.toInt - b.toInt) =
      let n := a.toInt - b.toInt
      if n < -2 ^ 31 then 0x80000000#32 else if 2 ^ 31 - 1 < n then 0x7FFFFFFF#32 else a - b := by
  simp only [satW_eq_ite, ofInt_sub, BitVec.ofInt_toInt]

theorem absW_eq_ite_msb (a : Word) : absW a = if a.msb then -a else a := by
  unfold absW
  split
  · next h =>
    rw [BitVec.toInt_eq_neg_toNat_neg_of_msb_true h, Int.natAbs_neg, Int.natAbs_natCast, BitVec.ofNat_toNat, BitVec.setWidth_eq]
  · next h =>
    rw [BitVec.toInt_eq_toNat_of_msb (by simpa using h)]
    simp

/-- The bits of a number that POPC counts. -/
theorem popBelow_eq_countP (x n : Nat) : popBelow x n = (List.range n).countP x.testBit := by
  induction n with
  | zero => rfl
  | succ n ih =>
    rw [popBelow, ih, List.range_succ, List.countP_append, List.countP_singleton]
    rfl

theorem popcW_eq_countP (a : Word) : popcW a = BitVec.ofNat 32 ((List.range 32).countP a.getLsbD) :=
  congrArg (BitVec.ofNat 32) (popBelow_eq_countP a.toNat 32)

/-- The lowest bit of a number that is set, counted on from bit `k`. -/
theorem ctzFrom_eq_findIdx (x n k : Nat) : ctzFrom x n k = k + ((List.range' k n).map x.testBit).findIdx id := by
  induction n generalizing k with
  | zero => simp [ctzFrom]
  | succ n ih =>
    rw [ctzFrom, ih, List.range'_succ, List.map_cons, List.findIdx_cons]
    cases h : x.testBit k <;> simp [bit, h]
    omega

theorem ctzW_eq_findIdx (a : Word) : ctzW a = BitVec.ofNat 32 (((List.range 32).map a.getLsbD).findIdx id) := by
  rw [ctzW, ctzFrom_eq_findIdx, Nat.zero_add, ← List.range_eq_range']
  rfl

theorem clzW_eq_findIdx (a : Word) : clzW a = BitVec.ofNat 32 (((List.range 32).map a.getMsbD).findIdx id) := by
  unfold clzW
  split
  · next h => subst h; decide
  · next h =>
    congr 1
    have h0 : a.toNat ≠ 0 := fun e => h (BitVec.eq_of_toNat_eq e)
    have hl : a.toNat.log2 < 32 := (Nat.log2_lt h0).mpr a.isLt
    symm
    rw [List.findIdx_eq (by simp; omega)]
    refine ⟨?_, fun j hj => ?_⟩
    · have hi : 31 - a.toNat.log2 < 32 := by omega
      simp [BitVec.getMsbD, BitVec.getLsbD, hi, show 31 - (31 - a.toNat.log2) = a.toNat.log2 by omega, Nat.testBit_log2 h0]
    · have : a.toNat < 2 ^ (31 - j) := (Nat.log2_lt h0).mp (by omega)
      simp [BitVec.getMsbD, BitVec.getLsbD, Nat.testBit_lt_two_pow this]

theorem brev_lt (n x : Nat) : brev n x < 2 ^ n := by
  induction n generalizing x with
  | zero => simp [brev]
  | succ n ih =>
    have := ih (x / 2)
    rcases Nat.mod_two_eq_zero_or_one x with h | h <;> simp only [brev, h] <;> omega

/-- The bits of a number in reverse. -/
theorem testBit_brev (n x i : Nat) : (brev n x).testBit i = (decide (i < n) && x.testBit (n - 1 - i)) := by
  induction n generalizing x i with
  | zero => simp [brev]
  | succ n ih =>
    rw [brev, Nat.mul_comm, Nat.testBit_two_pow_mul_add _ (brev_lt n _), ih, Nat.testBit_div_two]
    split
    · next h =>
      rw [show n - 1 - i + 1 = n + 1 - 1 - i by omega]
      simp [h, Nat.lt_succ_of_lt h]
    · next h =>
      rcases Nat.lt_or_eq_of_le (Nat.le_of_not_lt h) with h | rfl
      · have h1 : x % 2 < 2 ^ (i - n) := Nat.lt_of_lt_of_le (Nat.mod_lt _ (by decide)) (Nat.le_self_pow (by omega) 2)
        simp [Nat.testBit_lt_two_pow h1, show ¬ i < n + 1 by omega]
      · simp

theorem brevW_eq_reverse (a : Word) : brevW a = a.reverse := by
  refine BitVec.eq_of_getLsbD_eq fun i hi => ?_
  rw [brevW, BitVec.getLsbD_ofNat, testBit_brev, BitVec.getLsbD_reverse, BitVec.getMsbD]
  simp [hi, BitVec.getLsbD]

/-- A value put above another, as a number. -/
theorem toNat_append_eq_add {m n : Nat} (x : BitVec m) (y : BitVec n) : (x ++ y).toNat = x.toNat * 2 ^ n + y.toNat := by
  rw [BitVec.toNat_append, ← Nat.shiftLeft_add_eq_or_of_lt y.isLt, Nat.shiftLeft_eq]

/-- A field of a value by its highest and lowest bit, as a number. -/
theorem bits_toNat {n : Nat} (x : BitVec n) (hi lo : Nat) : bits x.toNat hi lo = (x.extractLsb' lo (hi + 1 - lo)).toNat :=
  (BitVec.extractLsb'_toNat ..).symm

/-- The position and the cut length of a field (R100). -/
theorem fieldSpec_eq (b : Word) :
    fieldSpec b = (b.toNat % 32, min (min (b.toNat / 256 % 64) 32) (32 - b.toNat % 32)) := by
  simp [fieldSpec, bits, Nat.shiftRight_eq_div_pow]

/-- A field's number with its sign taken from its highest bit. -/
theorem toInt_eq_ite_half {w : Nat} (hw : w ≠ 0) (x : BitVec w) :
    x.toInt = if 2 ^ (w - 1) ≤ x.toNat then (x.toNat : Int) - 2 ^ w else x.toNat := by
  have hp : 2 ^ w = 2 * 2 ^ (w - 1) := by rw [← Nat.pow_succ', Nat.succ_eq_add_one, Nat.sub_add_cancel (by omega)]
  rw [BitVec.toInt_eq_toNat_cond]
  by_cases h : 2 ^ (w - 1) ≤ x.toNat
  · rw [if_pos h, if_neg (by omega)]
    norm_cast
  · rw [if_neg h, if_pos (by omega)]

theorem bfxW_eq_extend (a b : Word) :
    bfxW a b =
      let pos := b.toNat % 32
      let w := min (min (b.toNat / 256 % 64) 32) (32 - pos)
      if b.getLsbD 15 then (a.extractLsb' pos w).signExtend 32 else (a.extractLsb' pos w).zeroExtend 32 := by
  simp only [bfxW, fieldSpec_eq]
  generalize b.toNat % 32 = pos
  generalize min (min (b.toNat / 256 % 64) 32) (32 - pos) = w
  rw [← Nat.shiftRight_eq_div_pow, ← BitVec.extractLsb'_toNat]
  generalize a.extractLsb' pos w = x
  by_cases hw : w = 0
  · subst hw
    simp [BitVec.eq_nil x]
  · rw [if_neg hw, BitVec.signExtend, toInt_eq_ite_half hw, show bit b.toNat 15 = b.getLsbD 15 from rfl]
    cases b.getLsbD 15 <;> simp

/-- A word is what lies within a mask and what lies outside it, and the two have no bit in common. -/
theorem and_add_and_not {w : Nat} (x m : BitVec w) : (x &&& m) + (x &&& ~~~ m) = x := by
  rw [BitVec.add_eq_or_of_and_eq_zero]
  · ext i
    cases h : m[i] <;> simp [h]
  · ext i
    cases h : m[i] <;> simp [h]

theorem and_not_and_and {w : Nat} (x y m : BitVec w) : (x &&& ~~~ m) &&& (y &&& m) = 0 := by
  ext i
  cases h : m[i] <;> simp [h]

theorem bfiW_eq_masked (d a b : Word) :
    bfiW d a b =
      let pos := b.toNat % 32
      let w := min (min (b.toNat / 256 % 64) 32) (32 - pos)
      let mask := BitVec.ofNat 32 ((2 ^ w - 1) * 2 ^ pos)
      (d &&& ~~~ mask) ||| ((a <<< pos) &&& mask) := by
  simp only [bfiW, fieldSpec_eq]
  generalize b.toNat % 32 = pos
  generalize (2 ^ min (min (b.toNat / 256 % 64) 32) (32 - pos) - 1) * 2 ^ pos = m
  have hle : d.toNat &&& m ≤ d.toNat := Nat.and_le_left
  have hshift : BitVec.ofNat 32 (a.toNat * 2 ^ pos) = a <<< pos :=
    BitVec.eq_of_toNat_eq (by simp [Nat.shiftLeft_eq])
  rw [Nat.land_eq, Nat.land_eq, BitVec.ofNat_add, ← BitVec.ofNat_sub_ofNat_of_le _ _ (Nat.lt_of_le_of_lt hle d.isLt) hle,
    BitVec.ofNat_and, BitVec.ofNat_and, hshift, BitVec.ofNat_toNat, BitVec.setWidth_eq,
    ← BitVec.add_eq_or_of_and_eq_zero _ _ (and_not_and_and ..)]
  congr 1
  rw [BitVec.sub_eq_iff_eq_add, BitVec.add_comm, and_add_and_not]

/-- Byte `i` of the result of PERMB (R101): a byte of the pair of d and a, or its sign in every bit. -/
def permutedByte (d a b : Word) (i : Nat) : BitVec 8 :=
  let x := (d ++ a).extractLsb' (8 * (b.toNat / 16 ^ i % 8)) 8
  if b.getLsbD (4 * i + 3) then (if x.msb then 255#8 else 0#8) else x

/-- A byte of the pair of d and a is a byte of one of the two. -/
theorem toNat_extractLsb'_append (d a : Word) {k : Nat} (hk : k < 8) :
    ((d ++ a).extractLsb' (8 * k) 8).toNat
      = if k < 4 then bits a.toNat (8 * k + 7) (8 * k) else bits d.toNat (8 * (k - 4) + 7) (8 * (k - 4)) := by
  have ha := a.isLt
  rw [BitVec.extractLsb'_toNat, toNat_append_eq_add]
  interval_cases k <;> simp [bits, Nat.shiftRight_eq_div_pow] <;> omega

theorem permByte_eq_toNat (d a b : Word) (i : Nat) : permByte d a b i = (permutedByte d a b i).toNat := by
  have hsel : bits b.toNat (4 * i + 3) (4 * i) = b.toNat / 16 ^ i % 16 := by
    rw [bits, Nat.shiftRight_eq_div_pow, Nat.pow_mul, show 4 * i + 3 + 1 - 4 * i = 4 by omega, show 2 ^ 4 = 16 from rfl]
  have hsign : bit (b.toNat / 16 ^ i % 16) 3 = b.getLsbD (4 * i + 3) := by
    rw [bit, show 16 ^ i = 2 ^ (4 * i) by rw [Nat.pow_mul], ← Nat.shiftRight_eq_div_pow, show 16 = 2 ^ 4 from rfl,
      Nat.testBit_mod_two_pow, Nat.testBit_shiftRight]
    rfl
  simp only [permByte, permutedByte, hsel, hsign, Nat.mod_mod_of_dvd _ (by decide : 8 ∣ 16)]
  rw [← toNat_extractLsb'_append d a (Nat.mod_lt _ (by decide))]
  generalize (d ++ a).extractLsb' _ 8 = x
  have hm : x.msb = decide (128 ≤ x.toNat) := BitVec.msb_eq_decide x
  rw [hm]
  cases b.getLsbD (4 * i + 3)
  · simp
  · by_cases h : 128 ≤ x.toNat <;> simp [h]

theorem permbW_eq_append (d a b : Word) :
    permbW d a b = permutedByte d a b 3 ++ permutedByte d a b 2 ++ permutedByte d a b 1 ++ permutedByte d a b 0 := by
  have h0 := (permutedByte d a b 0).isLt
  have h1 := (permutedByte d a b 1).isLt
  have h2 := (permutedByte d a b 2).isLt
  have h3 := (permutedByte d a b 3).isLt
  apply BitVec.eq_of_toNat_eq
  rw [toNat_append_eq_add, toNat_append_eq_add, toNat_append_eq_add]
  simp only [permbW, permByte_eq_toNat, BitVec.toNat_ofNat]
  omega

theorem byteS_eq_toInt (a : Word) (i : Nat) : byteS a i = (a.extractLsb' (8 * i) 8).toInt := by
  rw [byteS, bits_toNat, show 8 * i + 7 + 1 - 8 * i = 8 by omega, signedOf, toInt_eq_ite_half (by decide)]
  simp

/-- DP4A, whose second factors are imm7 under ALT (R111). -/
theorem dp4a_eq_toInt (f : RForm) (d a b : Word) :
    dp4a d a (if f.m = 1 then fun _ => f.b.toNat else byteS b) =
      let x (i : Nat) : Int := (a.extractLsb' (8 * i) 8).toInt
      let y (i : Nat) : Int := if f.m = 1 then f.b.toNat else (b.extractLsb' (8 * i) 8).toInt
      BitVec.ofInt 32 (d.toInt + x 0 * y 0 + x 1 * y 1 + x 2 * y 2 + x 3 * y 3) := by
  simp only [dp4a, byteS_eq_toInt]
  split <;> simp only [byteS_eq_toInt]

/-! ### The functions over pairs, on the numbers of the pairs (R103, R112) -/

theorem leaD_toNat (a b : DWord) :
    leaD a.toNat b.toNat =
      (if a.getLsbD 56 then (a.extractLsb' 46 18) ++ (a.extractLsb' 0 46 + b.extractLsb' 0 46)
      else (a.extractLsb' 56 8) ++ (a.extractLsb' 0 56 + b.extractLsb' 0 56) : DWord).toNat := by
  rw [leaD, show bit a.toNat 56 = a.getLsbD 56 from rfl]
  split
  · rw [toNat_append_eq_add, bits_toNat, bits_toNat, BitVec.toNat_add]
    simp
  · rw [toNat_append_eq_add, bits_toNat, bits_toNat, BitVec.toNat_add]
    simp

theorem add_mod_toNat (a b : DWord) : (a.toNat + b.toNat) % 2 ^ 64 = (a + b).toNat := (BitVec.toNat_add ..).symm

theorem sub_mod_toNat (a b : DWord) : (a.toNat + (2 ^ 64 - b.toNat)) % 2 ^ 64 = (a - b).toNat := by
  rw [BitVec.toNat_sub, Nat.add_comm]

theorem resPack_eq_append (x y z : Nat) :
    resPack x y z
      = (BitVec.ofNat 22 (z % (2 ^ 21 + 1)) ++ BitVec.ofNat 21 (y % 2 ^ 21) ++ BitVec.ofNat 21 (x % (2 ^ 21 - 1)) : DWord).toNat := by
  rw [toNat_append_eq_add, toNat_append_eq_add]
  simp only [resPack, m1, m2, m3, BitVec.toNat_ofNat]
  omega

theorem resX1_toNat (a : DWord) : resX1 a.toNat = (a.extractLsb' 0 21).toNat % (2 ^ 21 - 1) := by rw [resX1, bits_toNat, m1]
theorem resX2_toNat (a : DWord) : resX2 a.toNat = (a.extractLsb' 21 21).toNat := by rw [resX2, bits_toNat]
theorem resX3_toNat (a : DWord) : resX3 a.toNat = (a.extractLsb' 42 22).toNat % (2 ^ 21 + 1) := by rw [resX3, bits_toNat, m3]

/-- RADD's sum, channel by channel (R112). -/
theorem resAdd_toNat (a b : DWord) :
    resAdd a.toNat b.toNat =
      (BitVec.ofNat 22 (((a.extractLsb' 42 22).toNat + (b.extractLsb' 42 22).toNat) % (2 ^ 21 + 1))
        ++ BitVec.ofNat 21 (((a.extractLsb' 21 21).toNat + (b.extractLsb' 21 21).toNat) % 2 ^ 21)
        ++ BitVec.ofNat 21 (((a.extractLsb' 0 21).toNat + (b.extractLsb' 0 21).toNat) % (2 ^ 21 - 1)) : DWord).toNat := by
  rw [resAdd, resPack_eq_append, resX1_toNat, resX1_toNat, resX2_toNat, resX2_toNat, resX3_toNat, resX3_toNat, ← Nat.add_mod,
    ← Nat.add_mod]

/-- RADD's difference, channel by channel (R112). -/
theorem resSub_toNat (a b : DWord) :
    resSub a.toNat b.toNat =
      (BitVec.ofNat 22 (((a.extractLsb' 42 22).toNat % (2 ^ 21 + 1)
          + ((2 ^ 21 + 1) - (b.extractLsb' 42 22).toNat % (2 ^ 21 + 1))) % (2 ^ 21 + 1))
        ++ BitVec.ofNat 21 (((a.extractLsb' 21 21).toNat % 2 ^ 21 + (2 ^ 21 - (b.extractLsb' 21 21).toNat % 2 ^ 21)) % 2 ^ 21)
        ++ BitVec.ofNat 21 (((a.extractLsb' 0 21).toNat % (2 ^ 21 - 1)
          + ((2 ^ 21 - 1) - (b.extractLsb' 0 21).toNat % (2 ^ 21 - 1))) % (2 ^ 21 - 1)) : DWord).toNat := by
  have h2 : ∀ x : DWord, (x.extractLsb' 21 21).toNat % 2 ^ 21 = (x.extractLsb' 21 21).toNat := fun x =>
    Nat.mod_eq_of_lt (x.extractLsb' 21 21).isLt
  rw [resSub, resPack_eq_append, resX1_toNat, resX1_toNat, resX2_toNat, resX2_toNat, resX3_toNat, resX3_toNat, h2, h2]
  rfl

/-! ### What an undisturbed instruction's fields hold -/

/-- An instruction without fault in some active lane is well formed. -/
theorem Undisturbed.check_none {i : Instr} {p : BitVec 3} {neg : Bool} {s : State} (hu : Undisturbed i p neg s) {r : LaneRef}
    (hr : r ∈ s.active p neg) : i.check = none := by
  obtain ⟨-, -, ha⟩ := hu
  have h := (ha r hr).1
  unfold staticFault at h
  by_contra hc
  have hw : i.wf = false := Bool.eq_false_iff.mpr fun hw => hc (Option.isNone_iff_eq_none.mp hw)
  simp [hw] at h

/-- The same of an instruction without a guard, by a present lane. -/
theorem Undisturbed.check_none_of_present {i : Instr} {s : State} (hu : Undisturbed i 0 false s) {r : LaneRef} (hr : r ∈ s.present) :
    i.check = none := hu.check_none (s.active_all ▸ hr)

/-- No static check fails where none of those listed holds. -/
theorem firstFailure_eq_none {l : List (Bool × IllFormed)} : firstFailure l = none ↔ ∀ e ∈ l, e.1 = false := by
  induction l with
  | nil => simp [firstFailure]
  | cons e l ih => obtain ⟨b, x⟩ := e; cases b <;> simp [firstFailure, ih]

/-- The b field of an R form names a register that there is: below 64 where it names an s-register (R67). -/
def BNamed (f : RForm) : Prop := f.m = 2 ∨ f.m = 3 → f.b.toNat < 64

section
variable {f : RForm}

theorem bNamed_of_checkR {w : Nat} (h : checkR w f = none) : BNamed f := by
  simp only [checkR, firstFailure_eq_none, List.forall_mem_cons, Bool.and_eq_false_imp, Bool.or_eq_false_iff, beq_iff_eq,
    decide_eq_false_iff_not] at h
  obtain ⟨-, h2, h3, -⟩ := h
  rintro (hm | hm)
  · exact Nat.not_le.mp (h2 hm)
  · exact Nat.not_le.mp (h3 hm).2

theorem bNamed_of_checkUnary (h : checkUnary f = none) : BNamed f := by
  simp only [checkUnary, firstFailure_eq_none, List.forall_mem_cons, bne_eq_false_iff_eq] at h
  obtain ⟨-, hb, -⟩ := h
  rw [BNamed, hb]
  exact fun _ => by decide

/-- The fields of a form whose uniform form is reserved. -/
theorem bNamed_of_ne_three (h3 : f.m ≠ 3) (h2 : f.m = 2 → ¬ 64 ≤ f.b.toNat) : BNamed f :=
  fun hm => Nat.not_le.mp (h2 (hm.resolve_right h3))

theorem named_of_checkImmR {n : Nat} (h : checkImmR n f = none) : f.m ≠ 3 ∧ BNamed f := by
  simp only [checkImmR, firstFailure_eq_none, List.forall_mem_cons, Bool.and_eq_false_imp, beq_iff_eq, beq_eq_false_iff_ne,
    decide_eq_false_iff_not] at h
  obtain ⟨h3, h2, -⟩ := h
  exact ⟨h3, bNamed_of_ne_three h3 h2⟩

theorem named_of_checkCompare (h : checkCompare f = none) : f.m ≠ 3 ∧ BNamed f := by
  simp only [checkCompare, firstFailure_eq_none, List.forall_mem_cons, Bool.and_eq_false_imp, Bool.or_eq_false_iff, beq_iff_eq,
    beq_eq_false_iff_ne, decide_eq_false_iff_not] at h
  obtain ⟨⟨-, h3⟩, -, h2, -⟩ := h
  exact ⟨h3, bNamed_of_ne_three h3 h2⟩

theorem named_of_checkSel (h : checkSel f = none) : f.m ≠ 3 ∧ BNamed f := by
  simp only [checkSel, firstFailure_eq_none, List.forall_mem_cons, Bool.and_eq_false_imp, beq_iff_eq, beq_eq_false_iff_ne,
    decide_eq_false_iff_not] at h
  obtain ⟨h3, -, h2, -⟩ := h
  exact ⟨h3, bNamed_of_ne_three h3 h2⟩

theorem bNamed_of_checkMov (h : checkMov f = none) : BNamed f := by
  simp only [checkMov, firstFailure_eq_none, List.forall_mem_cons, Bool.and_eq_false_imp, Bool.or_eq_false_iff, beq_iff_eq,
    decide_eq_false_iff_not] at h
  obtain ⟨-, -, h2, h3, -⟩ := h
  rintro (hm | hm)
  · exact Nat.not_le.mp (h2 hm)
  · exact Nat.not_le.mp (h3 hm).2

/-- The fields of an instruction over pairs: even, and below 64 where they name s-registers (R15, R67, R112). -/
structure PairNamed (f : RForm) : Prop where
  b : BNamed f
  dEven : f.d.toNat % 2 = 0
  aUniform : f.m = 3 → f.a.toNat < 64
  dUniform : f.m = 3 → f.d.toNat < 64

theorem pairNamed_of_checkR (h : checkR 2 f = none) : PairNamed f := by
  have hb := bNamed_of_checkR h
  simp only [checkR, firstFailure_eq_none, List.forall_mem_cons, Bool.and_eq_false_imp, Bool.or_eq_false_iff, beq_iff_eq,
    bne_eq_false_iff_eq, decide_eq_false_iff_not] at h
  obtain ⟨-, -, h3, ⟨⟨hd, -⟩, -⟩, -⟩ := h
  exact ⟨hb, hd, fun hm => Nat.not_le.mp (h3 hm).1.2, fun hm => Nat.not_le.mp (h3 hm).1.1⟩

theorem pairNamed_of_checkRadd (h : checkRadd f = none) : PairNamed f := by
  simp only [checkRadd, firstFailure_eq_none, List.forall_mem_cons, Bool.and_eq_false_imp, Bool.or_eq_false_iff, beq_iff_eq,
    beq_eq_false_iff_ne, bne_eq_false_iff_eq, decide_eq_false_iff_not] at h
  obtain ⟨h3, h2, ⟨⟨hd, -⟩, -⟩, -⟩ := h
  exact ⟨bNamed_of_ne_three h3 h2, hd, fun hm => absurd hm h3, fun hm => absurd hm h3⟩

/-- The register b of a form that is not uniform. -/
theorem rBReg_of_ne_three (hm : f.m ≠ 3) (hb : BNamed f) : rBReg f = if f.m = 2 then 128 + f.b.toNat else f.b.toNat := by
  by_cases h : f.m = 2
  · simp [rBReg, h, Nat.mod_eq_of_lt (hb (.inl h))]
  · rw [rBReg, if_neg (not_or.mpr ⟨h, hm⟩), if_neg h]

/-- The register b of the uniform form. -/
theorem rBReg_of_three (hm : f.m = 3) (hb : BNamed f) : rBReg f = 128 + f.b.toNat := by
  simp [rBReg, hm, Nat.mod_eq_of_lt (hb (.inr hm))]

/-- Every register an R form's b names is below 192. -/
theorem rBReg_lt (f : RForm) : rBReg f < 192 := by
  have := f.b.isLt
  unfold rBReg
  split <;> omega
end

section
variable {s : State} {r : LaneRef} {f : RForm}

/-- The operand b of a form that is not uniform. -/
theorem State.reg_rBReg (hm : f.m ≠ 3) (hb : BNamed f) :
    s.reg r (rBReg f) = if f.m = 2 then s.reg r (128 + f.b.toNat) else s.reg r f.b.toNat := by
  rw [rBReg_of_ne_three hm hb]
  exact apply_ite ..

/-- A pair is its two registers, the higher above (R13). -/
theorem State.reg64_eq_append {n : Nat} (hn : n < 192) : s.reg64 r n = (s.reg r (n + 1) ++ s.reg r n : DWord).toNat := by
  rw [toNat_append_eq_add, State.reg64, if_pos hn, Nat.add_comm, Nat.mul_comm]

/-- The two words of a pair's value. -/
theorem ofNat_toNat_low (v : DWord) : BitVec.ofNat 32 v.toNat = v.extractLsb' 0 32 :=
  BitVec.eq_of_toNat_eq (by simp)
theorem ofNat_toNat_high (v : DWord) : BitVec.ofNat 32 (v.toNat / 2 ^ 32) = v.extractLsb' 32 32 :=
  BitVec.eq_of_toNat_eq (by simp [Nat.shiftRight_eq_div_pow])
end

/-! ### With no present lane -/

/-- An instruction without a guard does nothing, where its effect on no lanes is none. -/
theorem runAll_of_present_nil {i : Instr} {s : State} {F : State → List LaneRef → State} (hu : Undisturbed i 0 false s)
    (hp : s.present = []) (hF : F s [] = s) : runAll i F s = .next s := by
  rw [runAll_undisturbed hu, hp, hF]

/-- Of no lanes an R form computes in none. -/
@[simp] theorem rLanes_nil (f : RForm) : rLanes f [] = [] := ite_self _

/-! ### What a write to an s-register leaves alone -/

/-- Lanes, the issue, the cycle, which teams there are and memory are as they were. -/
structure KeepsLanes (s t : State) : Prop where
  lane : ∀ q, t.lane q = s.lane q
  cur : t.cur = s.cur
  cycle : t.cycle = s.cycle
  listed : ∀ k, (Tab.find t.teams k).isSome = (Tab.find s.teams k).isSome
  memory : SameMemory s t

theorem KeepsLanes.refl (s : State) : KeepsLanes s s := ⟨fun _ => rfl, rfl, rfl, fun _ => rfl, fun _ => rfl, fun _ _ => rfl⟩

theorem SameMemory.trans {s t u : State} (h1 : SameMemory s t) (h2 : SameMemory t u) : SameMemory s u :=
  ⟨fun a => (h2.1 a).trans (h1.1 a), fun k a => (h2.2 k a).trans (h1.2 k a)⟩

theorem KeepsLanes.trans {s t u : State} (h1 : KeepsLanes s t) (h2 : KeepsLanes t u) : KeepsLanes s u :=
  ⟨fun q => (h2.lane q).trans (h1.lane q), h2.cur.trans h1.cur, h2.cycle.trans h1.cycle, fun k => (h2.listed k).trans (h1.listed k),
    h1.memory.trans h2.memory⟩

/-- Writing an s-register, or register 255. -/
theorem State.setReg_keepsLanes (s : State) (r : LaneRef) {n : Nat} (h : 128 ≤ n) (w : Word) : KeepsLanes s (s.setReg r n w) := by
  by_cases h2 : n < 192
  · rw [State.setReg_s s r h h2]
    refine ⟨fun q => ?_, State.modGroup_cur .., State.modGroup_cycle .., fun k => State.isSome_modTeam .., fun a => ?_, fun k a => ?_⟩
    · rw [State.lane, State.group_modGroup]
      split <;> rfl
    · rw [State.modGroup_mem]
    · rw [State.modGroup, State.team_modTeam]
      split <;> rfl
  · rw [State.setReg, if_neg (by omega), if_neg h2]
    exact .refl s

/-- Writing several. -/
theorem State.setRegs_keepsLanes (s : State) (r : LaneRef) {ws : List (Nat × Word)} (h : ∀ w ∈ ws, 128 ≤ w.1) :
    KeepsLanes s (s.setRegs r ws) :=
  List.foldlRecOn ws _ (.refl s) fun u hu w hw => hu.trans (u.setReg_keepsLanes r (h w hw) w.2)

/-- Moving lanes past the instruction, after writes that keep lanes. -/
theorem KeepsLanes.advanceAll {s t : State} (h : KeepsLanes s t) {rs : List LaneRef} (hn : rs.Nodup) :
    t.advanceAll rs = t.withLanes rs (fun q => (s.lane q).passed s) := by
  rw [State.advanceAll_eq t hn]
  simp only [Lane.passed, h.lane, h.cur, h.cycle]

/-! ### The integer instructions of three registers -/

section
variable {i : Instr} {f : RForm} {op : Word → Word → Word → Word} {s : State}

/-- R forms that compute the same are the same. -/
theorem aluR_congr {op' : Word → Word → Word → Word} (h : ∀ d a b, op d a b = op' d a b) :
    aluR i f (fun d a b => (op d a b, FpFlags.none)) s = aluR i f (fun d a b => (op' d a b, FpFlags.none)) s := by
  rw [show op = op' from funext fun d => funext fun a => funext fun b => h d a b]

/-- The R form of an integer function of a and b. -/
theorem intR_eq_aluR {g : Word → Word → Word} (h : ∀ d a b, g a b = op d a b) :
    intR i f g s = aluR i f (fun d a b => (op d a b, FpFlags.none)) s :=
  aluR_congr h

/-- The integer instructions of three registers compute by the R form what the rules give (R97 to R101, R111). -/
theorem exec_of_intResult (hi : intResult i = some (f, op)) (s : State) :
    exec i s = aluR i f (fun d a b => (op d a b, FpFlags.none)) s := by
  cases i with
  | add f => cases hi; exact (intR_eq_aluR fun _ => add_eq_ofNat : execAdd f s = _)
  | sub f => cases hi; exact (intR_eq_aluR fun _ => sub_eq_ofInt : execSub f s = _)
  | mul f => cases hi; exact (intR_eq_aluR fun _ => mul_eq_ofNat : execMul f s = _)
  | mulhi f => cases hi; exact (intR_eq_aluR fun _ => mulHi_eq_extractLsb' : execMulhi f s = _)
  | mulhiu f => cases hi; exact (intR_eq_aluR fun _ => mulHiU_eq_extractLsb' : execMulhiu f s = _)
  | and f | or f | xor f | andn f | orn f | minu f | maxu f => cases hi; rfl
  | shl f => cases hi; exact (intR_eq_aluR fun _ => shlW_eq_shiftLeft : execShl f s = _)
  | shrl f => cases hi; exact (intR_eq_aluR fun _ => shrlW_eq_ushiftRight : execShrl f s = _)
  | shra f => cases hi; exact (intR_eq_aluR fun _ => shraW_eq_sshiftRight : execShra f s = _)
  | rotl f => cases hi; exact (intR_eq_aluR fun _ => rotlW_eq_rotateLeft : execRotl f s = _)
  | rotr f => cases hi; exact (intR_eq_aluR fun _ => rotrW_eq_rotateRight : execRotr f s = _)
  | min f => cases hi; exact (intR_eq_aluR fun _ => minS_eq_ite_sle : execMin f s = _)
  | max f => cases hi; exact (intR_eq_aluR fun _ => maxS_eq_ite_sle : execMax f s = _)
  | addsat f => cases hi; exact (intR_eq_aluR fun _ => addsat_eq_ite : execAddsat f s = _)
  | subsat f => cases hi; exact (intR_eq_aluR fun _ => subsat_eq_ite : execSubsat f s = _)
  | abs f => cases hi; exact (intR_eq_aluR fun _ a _ => absW_eq_ite_msb a : execAbs f s = _)
  | popc f => cases hi; exact (intR_eq_aluR fun _ a _ => popcW_eq_countP a : execPopc f s = _)
  | clz f => cases hi; exact (intR_eq_aluR fun _ a _ => clzW_eq_findIdx a : execClz f s = _)
  | ctz f => cases hi; exact (intR_eq_aluR fun _ a _ => ctzW_eq_findIdx a : execCtz f s = _)
  | brev f => cases hi; exact (intR_eq_aluR fun _ a _ => brevW_eq_reverse a : execBrev f s = _)
  | bfx f => cases hi; exact (intR_eq_aluR fun _ => bfxW_eq_extend : execBfx f s = _)
  | bfi f => cases hi; exact (aluR_congr bfiW_eq_masked : execBfi f s = _)
  | permb f => cases hi; exact (aluR_congr permbW_eq_append : execPermb f s = _)
  | dp4a f => cases hi; exact (aluR_congr (dp4a_eq_toInt f) : execDp4a f s = _)
  | _ => cases hi

/-- Their b names a register that there is. -/
theorem bNamed_of_intResult (hi : intResult i = some (f, op)) (hc : i.check = none) : BNamed f := by
  cases i with
  | add f | sub f | mul f | mulhi f | mulhiu f | and f | or f | xor f | andn f | orn f | shl f | shrl f | shra f | rotl f | rotr f
  | min f | max f | minu f | maxu f | addsat f | subsat f | bfx f | bfi f | permb f =>
    cases hi
    exact bNamed_of_checkR hc
  | abs f | popc f | clz f | ctz f | brev f =>
    cases hi
    exact bNamed_of_checkUnary hc
  | dp4a f =>
    cases hi
    exact (named_of_checkImmR hc).2
  | _ => cases hi

/-- Outside the uniform form they write d in every present lane. -/
theorem exec_intResult_lanes (hi : intResult i = some (f, op)) (hm : f.m ≠ 3) (hu : Undisturbed i 0 false s) :
    exec i s = .next (s.withLanes s.present (fun r =>
      ((s.lane r).put f.d.toNat (op (s.reg r f.d.toNat) (s.reg r f.a.toNat)
        (if f.m = 2 then s.reg r (128 + f.b.toNat) else s.reg r f.b.toNat))).passed s)) := by
  rw [exec_of_intResult hi, aluR_next hu hm, State.withFlags_none]
  congr 1
  refine State.withLanes_congr s fun r hr => ?_
  rw [State.reg_rBReg hm (bNamed_of_intResult hi (hu.check_none_of_present hr))]

/-- In the uniform form the last present lane's group receives d. -/
theorem exec_intResult_uniform (hi : intResult i = some (f, op)) (hm : f.m = 3) (hu : Undisturbed i 0 false s) {r : LaneRef}
    (hr : s.present.getLast? = some r) :
    exec i s = .next ((s.setReg r (128 + f.d.toNat) (op (s.reg r (128 + f.d.toNat)) (s.reg r (128 + f.a.toNat))
      (s.reg r (128 + f.b.toNat)))).withLanes s.present (fun q => (s.lane q).passed s)) := by
  have hb : f.b.toNat < 64 := bNamed_of_intResult hi (hu.check_none_of_present (List.mem_of_getLast? hr)) (.inr hm)
  rw [exec_of_intResult hi, aluR_uniform hu hm hr, Nat.mod_eq_of_lt hb]
  dsimp only
  rw [State.setFlags_none, (s.setReg_keepsLanes r (Nat.le_add_right ..) _).advanceAll hu.present_nodup]

/-- With no present lane they do nothing. -/
theorem exec_intResult_nil (hi : intResult i = some (f, op)) (hu : Undisturbed i 0 false s) (hp : s.present = []) :
    exec i s = .next s := by
  rw [exec_of_intResult hi]
  exact runAll_of_present_nil hu hp (by rw [rLanes_nil]; rfl)
end

/-- Settles O12: the R form of each instruction's own function, lane by lane, or once for the last present lane's group. -/
theorem integerForms : Obligations.IntegerForms :=
  ⟨fun _ _ _ _ hi hm hu => exec_intResult_lanes hi hm hu,
    fun _ _ _ _ hi hm hu => ⟨exec_intResult_nil hi hu, fun _ hr => exec_intResult_uniform hi hm hu hr⟩⟩

/-! ### Pairs (R103, R112) -/

section
variable {i : Instr} {f : RForm} {op : DWord → DWord → DWord} {s : State}

/-- The pair instructions compute by the pair form what the rules give (R103, R112). -/
theorem exec_of_pairResult (hi : pairResult i = some (f, op)) :
    ∃ g : Nat → Nat → Nat, (∀ a b : DWord, g a.toNat b.toNat = (op a b).toNat) ∧ ∀ s, exec i s = pairR i f g s := by
  cases i with
  | lea f => cases hi; exact ⟨leaD, leaD_toNat, fun _ => rfl⟩
  | add64 f => cases hi; exact ⟨fun a b => (a + b) % 2 ^ 64, add_mod_toNat, fun _ => rfl⟩
  | sub64 f => cases hi; exact ⟨fun a b => (a + (2 ^ 64 - b)) % 2 ^ 64, sub_mod_toNat, fun _ => rfl⟩
  | radd f =>
    cases hi
    refine ⟨if f.m = 1 then resSub else resAdd, fun a b => ?_, fun _ => rfl⟩
    split
    · simpa only [if_pos] using resSub_toNat a b
    · exact resAdd_toNat a b
  | _ => cases hi

/-- Their fields name pairs. -/
theorem pairNamed_of_pairResult (hi : pairResult i = some (f, op)) (hc : i.check = none) : PairNamed f := by
  cases i with
  | lea f | add64 f | sub64 f =>
    cases hi
    exact pairNamed_of_checkR hc
  | radd f =>
    cases hi
    exact pairNamed_of_checkRadd hc
  | _ => cases hi

/-- An R form over pairs, executed once for the last lane's group (R68, R95). -/
theorem pairR_uniform {g : Nat → Nat → Nat} {r : LaneRef} (hu : Undisturbed i 0 false s) (hm : f.m = 3) (hn : PairNamed f)
    (hr : s.present.getLast? = some r) :
    pairR i f g s =
      let v := g (s.reg64 r (128 + f.a.toNat)) (s.reg64 r (128 + f.b.toNat))
      .next (((s.setReg r (128 + f.d.toNat) (BitVec.ofNat 32 v)).setReg r (128 + f.d.toNat + 1)
        (BitVec.ofNat 32 (v / 2 ^ 32))).withLanes s.present (fun q => (s.lane q).passed s)) := by
  have h0 : rOff f = 128 := if_pos hm
  have hl : rLanes f s.present = [r] := (if_pos hm).trans (by rw [hr]; rfl)
  have hd : 128 + f.d.toNat < 192 := Nat.add_lt_add_left (hn.dUniform hm) 128
  rw [pairR, runAll_undisturbed hu, hl, List.foldl_cons, List.foldl_nil, h0, rBReg_of_three hm hn.b]
  dsimp only
  rw [pairWrites, if_pos hd, (s.setRegs_keepsLanes r (by simp; omega)).advanceAll hu.present_nodup]
  rfl

/-- The pair b of a form that is not uniform. -/
theorem State.reg64_rBReg {r : LaneRef} (hm : f.m ≠ 3) (hb : BNamed f) :
    s.reg64 r (rBReg f) = (if f.m = 2 then s.reg r (128 + f.b.toNat + 1) ++ s.reg r (128 + f.b.toNat)
      else s.reg r (f.b.toNat + 1) ++ s.reg r f.b.toNat : DWord).toNat := by
  rw [State.reg64_eq_append (rBReg_lt f), rBReg_of_ne_three hm hb]
  split <;> rfl

/-- Outside the uniform form the pair instructions write a pair in every present lane. -/
theorem exec_pairResult_lanes (hi : pairResult i = some (f, op)) (hm : f.m ≠ 3) (hu : Undisturbed i 0 false s) :
    exec i s = .next (s.withLanes s.present (fun r =>
      let v := op (s.reg r (f.a.toNat + 1) ++ s.reg r f.a.toNat)
        (if f.m = 2 then s.reg r (128 + f.b.toNat + 1) ++ s.reg r (128 + f.b.toNat) else s.reg r (f.b.toNat + 1) ++ s.reg r f.b.toNat)
      (((s.lane r).put f.d.toNat (v.extractLsb' 0 32)).put (f.d.toNat + 1) (v.extractLsb' 32 32)).passed s)) := by
  obtain ⟨g, hg, he⟩ := exec_of_pairResult hi
  rw [he]
  by_cases hp : s.present = []
  · rw [hp, State.withLanes_nil]
    exact runAll_of_present_nil hu hp (by rw [rLanes_nil]; rfl)
  · obtain ⟨r, hr⟩ := List.exists_mem_of_ne_nil _ hp
    have hn : PairNamed f := pairNamed_of_pairResult hi (hu.check_none_of_present hr)
    have ha : f.a.toNat < 192 := Nat.lt_trans f.a.isLt (by decide)
    rw [pairR_next hu hm hn.dEven]
    simp only [State.reg64_eq_append ha, State.reg64_rBReg hm hn.b, hg, ofNat_toNat_low, ofNat_toNat_high]

/-- In the uniform form the last present lane's group receives the pair. -/
theorem exec_pairResult_uniform (hi : pairResult i = some (f, op)) (hm : f.m = 3) (hu : Undisturbed i 0 false s) {r : LaneRef}
    (hr : s.present.getLast? = some r) :
    let v := op (s.reg r (128 + f.a.toNat + 1) ++ s.reg r (128 + f.a.toNat)) (s.reg r (128 + f.b.toNat + 1) ++ s.reg r (128 + f.b.toNat))
    exec i s = .next (((s.setReg r (128 + f.d.toNat) (v.extractLsb' 0 32)).setReg r (128 + f.d.toNat + 1)
      (v.extractLsb' 32 32)).withLanes s.present (fun q => (s.lane q).passed s)) := by
  obtain ⟨g, hg, he⟩ := exec_of_pairResult hi
  have hn : PairNamed f := pairNamed_of_pairResult hi (hu.check_none_of_present (List.mem_of_getLast? hr))
  have ha : 128 + f.a.toNat < 192 := Nat.add_lt_add_left (hn.aUniform hm) 128
  have hb : 128 + f.b.toNat < 192 := Nat.add_lt_add_left (hn.b (.inr hm)) 128
  rw [he, pairR_uniform hu hm hn hr]
  simp only [State.reg64_eq_append ha, State.reg64_eq_append hb, hg, ofNat_toNat_low, ofNat_toNat_high]
end

/-! ### Immediates (R69, R102) -/

section
variable {i : Instr} {f : IForm} {op : Word → Word} {s : State}

/-- An I form of a function that computes as another does. -/
theorem intI_of_eq {imm : Word} {g : Word → Word → Word} (hu : Undisturbed i 0 false s) (h : ∀ a, g a imm = op a) :
    intI i f imm g s = .next (s.withLanes s.present (fun r => ((s.lane r).put f.d.toNat (op (s.reg r f.a.toNat))).passed s)) := by
  rw [intI_next hu]
  simp only [h]

/-- A shift count below 32 (R69). -/
theorem iCount_toNat (f : IForm) : (iCount f).toNat = f.imm.toNat % 32 := by
  rw [iCount, BitVec.toNat_ofNat]
  omega

/-- The immediate forms write d in every present lane. -/
theorem exec_immResult (hi : immResult i = some (f, op)) (hu : Undisturbed i 0 false s) :
    exec i s = .next (s.withLanes s.present (fun r => ((s.lane r).put f.d.toNat (op (s.reg r f.a.toNat))).passed s)) := by
  have hc : ¬ 32 ≤ f.imm.toNat % 32 := Nat.not_le.mpr (Nat.mod_lt _ (by decide))
  cases i with
  | addi f => cases hi; exact (intI_of_eq hu fun _ => rfl : execAddi f s = _)
  | muli f => cases hi; exact (intI_of_eq hu fun _ => rfl : execMuli f s = _)
  | andi f => cases hi; exact (intI_of_eq hu fun _ => rfl : execAndi f s = _)
  | ori f => cases hi; exact (intI_of_eq hu fun _ => rfl : execOri f s = _)
  | xori f => cases hi; exact (intI_of_eq hu fun _ => rfl : execXori f s = _)
  | mini f => cases hi; exact (intI_of_eq hu fun a => minS_eq_ite_sle a _ : execMini f s = _)
  | maxi f => cases hi; exact (intI_of_eq hu fun a => maxS_eq_ite_sle a _ : execMaxi f s = _)
  | shli f =>
    cases hi
    exact (intI_of_eq hu fun a => by rw [shlW_eq_shiftLeft, iCount_toNat, if_neg hc] : execShli f s = _)
  | shrli f =>
    cases hi
    exact (intI_of_eq hu fun a => by rw [shrlW_eq_ushiftRight, BitVec.ushiftRight_eq', iCount_toNat] : execShrli f s = _)
  | shrai f =>
    cases hi
    exact (intI_of_eq hu fun a => by rw [shraW_eq_sshiftRight, iCount_toNat] : execShrai f s = _)
  | rotli f =>
    cases hi
    exact (intI_of_eq hu fun a => by rw [rotlW_eq_rotateLeft, iCount_toNat, Nat.mod_mod] : execRotli f s = _)
  | _ => cases hi
end

/-! ### Instructions with a guard whose active lanes change each for itself -/

/-- Replacing the lanes for which a test fails, and then those for which it holds, replaces them all. -/
theorem State.withLanes_partition (s : State) {rs : List LaneRef} (hn : rs.Nodup) (c : LaneRef → Bool) (g h : LaneRef → Lane) :
    (s.withLanes (rs.filter (fun r => !c r)) g).withLanes (rs.filter c) h = s.withLanes rs (fun r => if c r then h r else g r) := by
  have hp : (rs.filter (fun r => !c r) ++ rs.filter c).Perm rs := List.perm_append_comm.trans (List.filter_append_perm c rs)
  rw [← State.withLanes_perm s hp (hp.nodup_iff.mpr hn), State.withLanes_append]
  have hg : s.withLanes (rs.filter (fun r => !c r)) g = s.withLanes (rs.filter (fun r => !c r)) (fun r => if c r then h r else g r) :=
    s.withLanes_congr fun r hr => by simp [show c r = false by simpa using (List.mem_filter.mp hr).2]
  rw [hg]
  exact State.withLanes_congr _ fun r hr => by simp [(List.mem_filter.mp hr).2]

section
variable {i : Instr} {p : BitVec 3} {neg : Bool} {s : State}

/-- The present lanes whose guard is false. -/
def State.inactive (s : State) (p : BitVec 3) (neg : Bool) : List LaneRef := s.present.filter (fun r => !s.guard p neg r)

/-- The state in which the lanes whose guard is false have moved past the instruction. -/
def State.inactivePassed (s : State) (p : BitVec 3) (neg : Bool) : State :=
  s.withLanes (s.inactive p neg) (fun r => (s.lane r).passed s)

/-- A guarded instruction acts on the active lanes once the others have passed. -/
theorem runGuarded_undisturbed (hu : Undisturbed i p neg s) (F : State → List LaneRef → State) :
    runGuarded i p neg F s = .next (F (s.inactivePassed p neg) (s.active p neg)) := by
  rw [runGuarded, execute_undisturbed hu, State.advanceAll_eq s (hu.present_nodup.filter _)]
  rfl

theorem State.active_nodup (hn : s.present.Nodup) : (s.active p neg).Nodup := hn.filter _
theorem State.inactive_nodup (hn : s.present.Nodup) : (s.inactive p neg).Nodup := hn.filter _

/-- A lane is not both active and inactive. -/
theorem State.not_mem_inactive {r : LaneRef} (hr : r ∈ s.active p neg) : r ∉ s.inactive p neg := fun h => by
  have h1 := (List.mem_filter.mp hr).2
  have h2 := (List.mem_filter.mp h).2
  simp [h1] at h2

/-- What an active lane becomes when it moves past is what it would have become at first. -/
theorem State.passed_inactivePassed {r : LaneRef} (hr : r ∈ s.active p neg) (put : Lane → Lane) :
    (put ((s.inactivePassed p neg).lane r)).passed (s.inactivePassed p neg) = (put (s.lane r)).passed s := by
  rw [State.inactivePassed, State.lane_withLanes_other _ _ (State.not_mem_inactive hr)]
  simp only [Lane.passed, State.withLanes_cur, State.withLanes_cycle]

/-- A guarded instruction whose effect is one change of each active lane. -/
theorem runGuarded_lanewise (hu : Undisturbed i p neg s) {F : State → List LaneRef → State} {put : Lane → Lane}
    (hF : ∀ u, F u (s.active p neg) = u.withLanes (s.active p neg) (fun r => (put (u.lane r)).passed u)) :
    runGuarded i p neg F s = .next (s.withLanes s.present (fun r =>
      if s.guard p neg r then (put (s.lane r)).passed s else (s.lane r).passed s)) := by
  rw [runGuarded_undisturbed hu, hF, State.withLanes_congr _ fun r hr => State.passed_inactivePassed hr put]
  congr 1
  exact s.withLanes_partition hu.present_nodup (s.guard p neg) _ _
end

/-! ### Writes to s-registers -/

/-- An s-register read after a write to one: the value in the lanes of the group written. -/
theorem State.reg_setReg_s (s : State) (r q : LaneRef) {n : Nat} (h1 : 128 ≤ n) (h2 : n < 192) (w : Word) (m : Nat) :
    (s.setReg r n w).reg q m
      = if (r.team = q.team ∧ r.g = q.g ∧ (Tab.find s.teams r.team).isSome) ∧ m = n then w else s.reg q m := by
  by_cases hm : m < 128
  · rw [if_neg (by omega), State.reg, State.reg, if_pos hm, if_pos hm, (s.setReg_keepsLanes r h1 w).lane]
  · rw [State.reg, State.reg, if_neg hm, if_neg hm, State.setReg_s s r h1 h2, State.group_modGroup]
    by_cases hg : r.team = q.team ∧ r.g = q.g ∧ (Tab.find s.teams r.team).isSome
    · rw [if_pos hg]
      by_cases hn : m = n
      · subst hn
        rw [if_pos h2, if_pos ⟨hg, rfl⟩]
        exact Tab.getD_set_same ..
      · simp [hn, Tab.getD_set_other _ _ _ (show n - 128 ≠ m - 128 by omega)]
    · simp [hg]

/-- The same writes made for many lanes keep lanes. -/
theorem State.foldl_setRegs_keepsLanes (s : State) (rs : List LaneRef) {ws : List (Nat × Word)} (h : ∀ w ∈ ws, 128 ≤ w.1) :
    KeepsLanes s (rs.foldl (fun u r => u.setRegs r ws) s) :=
  List.foldlRecOn rs _ (.refl s) fun u hu r _ => hu.trans (u.setRegs_keepsLanes r h)

section
variable {ws : List (Nat × Word)} (hs : ∀ w ∈ ws, 128 ≤ w.1 ∧ w.1 < 192)
include hs

/-- Writes to s-registers leave every other register. -/
theorem State.reg_setRegs_other (s : State) (r q : LaneRef) {m : Nat} (hm : ∀ w ∈ ws, w.1 ≠ m) :
    (s.setRegs r ws).reg q m = s.reg q m := by
  induction ws generalizing s with
  | nil => rfl
  | cons w ws ih =>
    simp only [List.forall_mem_cons] at hs hm
    obtain ⟨⟨h1, h2⟩, hs⟩ := hs
    rw [State.setRegs, List.foldl_cons]
    exact (ih hs _ hm.2).trans (by rw [State.reg_setReg_s s r q h1 h2, if_neg fun h => hm.1 h.2.symm])

/-- Writes to distinct s-registers read back in the lanes of the group, and leave those of other groups. -/
theorem State.reg_setRegs_mem (s : State) (r q : LaneRef) (hn : (ws.map Prod.fst).Nodup) {w : Nat × Word} (hw : w ∈ ws) :
    (s.setRegs r ws).reg q w.1
      = if r.team = q.team ∧ r.g = q.g ∧ (Tab.find s.teams r.team).isSome then w.2 else s.reg q w.1 := by
  induction ws generalizing s with
  | nil => simp at hw
  | cons v ws ih =>
    simp only [List.forall_mem_cons] at hs
    obtain ⟨⟨h1, h2⟩, hs⟩ := hs
    simp only [List.map_cons, List.nodup_cons, List.mem_map, not_exists, not_and] at hn
    obtain ⟨hv, hn⟩ := hn
    rw [State.setRegs, List.foldl_cons, ← State.setRegs]
    rcases List.mem_cons.mp hw with rfl | hw
    · rw [State.reg_setRegs_other hs _ _ _ hv, State.reg_setReg_s s r q h1 h2]
      simp
    · rw [ih hs _ hn hw, (s.setReg_keepsLanes r h1 v.2).listed, State.reg_setReg_s s r q h1 h2]
      simp [hv w hw]

/-- The same writes made for many lanes leave every other register. -/
theorem State.reg_foldl_setRegs_other (s : State) (rs : List LaneRef) (q : LaneRef) {m : Nat} (hm : ∀ w ∈ ws, w.1 ≠ m) :
    (rs.foldl (fun u r => u.setRegs r ws) s).reg q m = s.reg q m :=
  List.foldlRecOn (motive := fun u => u.reg q m = s.reg q m) rs _ rfl fun u hu r _ => (State.reg_setRegs_other hs u r q hm).trans hu

/-- The same writes made for many lanes read back in each of them, whichever comes last. -/
theorem State.reg_foldl_setRegs_mem (s : State) {rs : List LaneRef} {q : LaneRef} (hq : q ∈ rs) (ht : (Tab.find s.teams q.team).isSome)
    (hn : (ws.map Prod.fst).Nodup) {w : Nat × Word} (hw : w ∈ ws) :
    (rs.foldl (fun u r => u.setRegs r ws) s).reg q w.1 = w.2 := by
  have hkeep : ∀ (u : State) (r : LaneRef), u.reg q w.1 = w.2 → (u.setRegs r ws).reg q w.1 = w.2 := fun u r hu => by
    rw [State.reg_setRegs_mem hs u r q hn hw, hu, ite_self]
  induction rs generalizing s with
  | nil => simp at hq
  | cons r rs ih =>
    rw [List.foldl_cons]
    rcases List.mem_cons.mp hq with rfl | hq
    · refine List.foldlRecOn (motive := fun u => u.reg q w.1 = w.2) rs _ ?_ fun u hu r _ => hkeep u r hu
      rw [State.reg_setRegs_mem hs s q q hn hw, if_pos ⟨rfl, rfl, ht⟩]
    · exact ih _ hq ((s.setRegs_keepsLanes r fun w hw => (hs w hw).1).listed _ ▸ ht)
end

/-- Replacing lanes leaves s-registers. -/
theorem State.reg_withLanes_s (s : State) (rs : List LaneRef) (h : LaneRef → Lane) (q : LaneRef) {n : Nat} (hn : 128 ≤ n) :
    (s.withLanes rs h).reg q n = s.reg q n := by
  rw [State.reg, State.reg, if_neg (Nat.not_lt.mpr hn), if_neg (Nat.not_lt.mpr hn), State.group_withLanes]

/-- Replacing lanes leaves memory. -/
theorem State.withLanes_sameMemory (s : State) (rs : List LaneRef) (h : LaneRef → Lane) : SameMemory s (s.withLanes rs h) :=
  ⟨fun a => by rw [State.withLanes_frame], fun k a => by rw [State.team_withLanes]⟩

section
variable {s v : State} {p : BitVec 3} {neg : Bool}

/-- The active lanes move past, after writes that keep lanes, to where they would have gone at first. -/
theorem KeepsLanes.advanceAll_active (hk : KeepsLanes (s.inactivePassed p neg) v) (hn : s.present.Nodup) :
    v.advanceAll (s.active p neg) = v.withLanes (s.active p neg) (fun r => (s.lane r).passed s) := by
  rw [hk.advanceAll (State.active_nodup hn)]
  exact v.withLanes_congr fun r hr => State.passed_inactivePassed hr id

/-- So every present lane goes on, and no other lane changes. -/
theorem KeepsLanes.lane_advanceAll (hk : KeepsLanes (s.inactivePassed p neg) v) (hn : s.present.Nodup) {q : LaneRef}
    (hq : (Tab.find s.teams q.team).isSome) :
    (v.advanceAll (s.active p neg)).lane q = if q ∈ s.present then (s.lane q).passed s else s.lane q := by
  rw [hk.advanceAll_active hn]
  by_cases ha : q ∈ s.active p neg
  · rw [State.lane_withLanes (State.active_nodup hn) _ ha (by rw [hk.listed, State.inactivePassed, State.isSome_withLanes, hq]),
      if_pos (List.mem_filter.mp ha).1]
  · rw [State.lane_withLanes_other _ _ ha, hk.lane, State.inactivePassed]
    by_cases hp : q ∈ s.present
    · have hg : s.guard p neg q = false := Bool.eq_false_iff.mpr fun hg => ha (List.mem_filter.mpr ⟨hp, hg⟩)
      have hi : q ∈ s.inactive p neg := List.mem_filter.mpr ⟨hp, by simp [hg]⟩
      rw [State.lane_withLanes (State.inactive_nodup hn) _ hi hq, if_pos hp]
    · have hi : q ∉ s.inactive p neg := fun hi => hp (List.mem_filter.mp hi).1
      rw [State.lane_withLanes_other _ _ hi, if_neg hp]
end

/-! ### MOVI (R76, R126) -/

/-- The high word MOVI writes: the sign of its immediate, or zero. -/
def moviHigh (x : XIForm) : Word := if x.md = 1 ∧ x.imm.msb = true then 0xFFFFFFFF#32 else 0#32

/-- A lane with MOVI's immediate in its v-registers. -/
def Lane.putMovi (y : Lane) (x : XIForm) : Lane :=
  if x.md = 0 then y.put x.d.toNat x.imm
  else if x.md = 3 then y.put (x.d.toNat + 1) x.imm
  else (y.put x.d.toNat x.imm).put (x.d.toNat + 1) (moviHigh x)

section
variable {x : XIForm} {s : State}

/-- A register MOVI names with a second one is the first of a pair of one kind (R15, R73). -/
theorem pair_of_checkMovi (hc : checkMovi x = none) (hm : x.md ≠ 0) (hd : x.d.toNat < 192) :
    x.d.toNat + 1 < if x.d.toNat < 128 then 128 else 192 := by
  simp only [checkMovi, firstFailure_eq_none, List.forall_mem_cons, Bool.not_eq_false', xRun, beq_iff_eq, if_neg hm] at hc
  obtain ⟨-, hr, -⟩ := hc
  by_cases h : x.d.toNat < 128
  · rw [if_pos h, Bool.and_eq_true, beq_iff_eq, decide_eq_true_eq] at hr
    rw [if_pos h]
    omega
  · rw [if_neg h, if_pos hd, Bool.and_eq_true, beq_iff_eq, decide_eq_true_eq] at hr
    rw [if_neg h]
    omega

/-- What MOVI writes where its destination is not register 255. -/
theorem moviWrites_eq (hd : x.d.toNat < 192) :
    moviWrites x = if x.md = 0 then [(x.d.toNat, x.imm)] else if x.md = 3 then [(x.d.toNat + 1, x.imm)]
      else [(x.d.toNat, x.imm), (x.d.toNat + 1, moviHigh x)] := by
  simp only [moviWrites, moviHigh, ite_and]
  rw [if_neg (Nat.not_le.mpr hd)]
  rfl

/-- MOVI's writes to v-registers change their lane. -/
theorem State.setRegs_moviWrites (hc : checkMovi x = none) (hd : x.d.toNat < 128) (u : State) (r : LaneRef) :
    u.setRegs r (moviWrites x) = u.modLane r (fun y => y.putMovi x) := by
  have hd1 (hm : x.md ≠ 0) : x.d.toNat + 1 < 128 := by
    simpa only [if_pos hd] using pair_of_checkMovi hc hm (Nat.lt_trans hd (by decide))
  rw [moviWrites_eq (Nat.lt_trans hd (by decide))]
  unfold Lane.putMovi
  by_cases h0 : x.md = 0
  · simp only [if_pos h0]
    exact State.setReg_v _ _ hd _
  · by_cases h3 : x.md = 3
    · simp only [if_neg h0, if_pos h3]
      exact State.setReg_v _ _ (hd1 h0) _
    · simp only [if_neg h0, if_neg h3, State.setRegs, List.foldl_cons, List.foldl_nil, State.setReg_v _ _ hd, State.setReg_v _ _ (hd1 h0),
        State.modLane_modLane]

/-- MOVI into v-registers. -/
theorem exec_movi_v (hu : Undisturbed (.movi x) x.p x.pn s) (hd : x.d.toNat < 128) :
    exec (.movi x) s = .next (s.withLanes s.present (fun r =>
      if s.guard x.p x.pn r then ((s.lane r).putMovi x).passed s else (s.lane r).passed s)) := by
  refine runGuarded_lanewise (put := fun y => y.putMovi x) hu fun u => ?_
  by_cases ha : s.active x.p x.pn = []
  · rw [ha]
    rfl
  · obtain ⟨r, hr⟩ := List.exists_mem_of_ne_nil _ ha
    have hc : checkMovi x = none := hu.check_none hr
    simp only [State.setRegs_moviWrites hc hd]
    exact u.lanewise_quiet (State.active_nodup hu.present_nodup) (fun _ _ y => y.putMovi x) fun _ _ _ _ => rfl

/-- MOVI into register 255 writes nothing. -/
theorem exec_movi_discard (hu : Undisturbed (.movi x) x.p x.pn s) (hd : 192 ≤ x.d.toNat) :
    exec (.movi x) s = .next (s.withLanes s.present (fun r => (s.lane r).passed s)) := by
  have hw : moviWrites x = [] := if_pos hd
  refine (runGuarded_lanewise (put := id) hu fun u => ?_).trans ?_
  · rw [hw]
    simp only [State.setRegs, List.foldl_nil, List.foldl_fixed]
    exact u.advanceAll_eq (State.active_nodup hu.present_nodup)
  · simp only [id, ite_self]

/-- MOVI's writes to s-registers name distinct ones, and the immediate and the high word are among them. -/
structure MoviNames (x : XIForm) : Prop where
  range : ∀ w ∈ moviWrites x, 128 ≤ w.1 ∧ w.1 < 192
  nodup : ((moviWrites x).map Prod.fst).Nodup
  imm : ((if x.md = 3 then x.d.toNat + 1 else x.d.toNat), x.imm) ∈ moviWrites x
  high : x.md = 1 ∨ x.md = 2 → (x.d.toNat + 1, moviHigh x) ∈ moviWrites x
  only : ∀ w ∈ moviWrites x, w.1 = x.d.toNat ∨ w.1 = x.d.toNat + 1

/-- It holds of a well-formed MOVI into s-registers. -/
theorem moviNames (hc : checkMovi x = none) (h1 : 128 ≤ x.d.toNat) (h2 : x.d.toNat < 192) : MoviNames x := by
  have hd1 (hm : x.md ≠ 0) : x.d.toNat + 1 < 192 := by
    simpa only [if_neg (Nat.not_lt.mpr h1)] using pair_of_checkMovi hc hm h2
  have hw := moviWrites_eq h2
  by_cases h0 : x.md = 0
  · rw [if_pos h0] at hw
    constructor <;> simp [hw, h0, h1, h2]
  · by_cases h3 : x.md = 3
    · rw [if_neg h0, if_pos h3] at hw
      have := hd1 h0
      constructor <;> simp [hw, h3]; omega
    · rw [if_neg h0, if_neg h3] at hw
      have := hd1 h0
      exact ⟨by simp [hw]; omega, by simp [hw], by rw [hw, if_neg h3]; exact List.mem_cons_self, fun _ => by simp [hw], by simp [hw]⟩

/-- MOVI into an s-register, or a pair of them. -/
theorem exec_movi_s (hu : Undisturbed (.movi x) x.p x.pn s) (h1 : 128 ≤ x.d.toNat) (h2 : x.d.toNat < 192) :
    ∃ t, exec (.movi x) s = .next t ∧ SameMemory s t
      ∧ (∀ q, (Tab.find s.teams q.team).isSome → t.lane q = if q ∈ s.present then (s.lane q).passed s else s.lane q)
      ∧ ∀ r ∈ s.active x.p x.pn, (Tab.find s.teams r.team).isSome →
        t.reg r (if x.md = 3 then x.d.toNat + 1 else x.d.toNat) = x.imm
          ∧ (x.md = 1 ∨ x.md = 2 → t.reg r (x.d.toNat + 1) = moviHigh x)
          ∧ ∀ n, 128 ≤ n → n < 192 → n ≠ x.d.toNat → n ≠ x.d.toNat + 1 → t.reg r n = s.reg r n := by
  have hge : ∀ w ∈ moviWrites x, 128 ≤ w.1 := by
    rw [moviWrites_eq h2]
    split_ifs <;> simp <;> omega
  have hk := (s.inactivePassed x.p x.pn).foldl_setRegs_keepsLanes (s.active x.p x.pn) hge
  have hp := hu.present_nodup
  refine ⟨_, runGuarded_undisturbed hu _, ?_, fun q hq => hk.lane_advanceAll hp hq, fun r hr ht => ?_⟩
  · rw [hk.advanceAll_active hp]
    exact ((s.withLanes_sameMemory _ _).trans hk.memory).trans (State.withLanes_sameMemory ..)
  · have hn := moviNames (hu.check_none hr) h1 h2
    have ht' : (Tab.find (s.inactivePassed x.p x.pn).teams r.team).isSome := by rw [State.inactivePassed, State.isSome_withLanes, ht]
    rw [hk.advanceAll_active hp]
    refine ⟨?_, fun hm => ?_, fun n hl hh hne hne1 => ?_⟩
    · rw [State.reg_withLanes_s _ _ _ _ (hn.range _ hn.imm).1]
      exact State.reg_foldl_setRegs_mem hn.range _ hr ht' hn.nodup hn.imm
    · rw [State.reg_withLanes_s _ _ _ _ (hn.range _ (hn.high hm)).1]
      exact State.reg_foldl_setRegs_mem hn.range _ hr ht' hn.nodup (hn.high hm)
    · rw [State.reg_withLanes_s _ _ _ _ hl, State.reg_foldl_setRegs_other hn.range _ _ _ fun w hw e => ?_,
        State.inactivePassed, State.reg_withLanes_s _ _ _ _ hl]
      rcases hn.only w hw with h | h
      · exact hne (e.symm.trans h)
      · exact hne1 (e.symm.trans h)
end

/-- Settles O13: the pair, immediate and MOVI forms, each by its lemma above. -/
theorem pairAndImmediateForms : Obligations.PairAndImmediateForms :=
  ⟨fun _ _ _ _ hi hu => ⟨fun hm => exec_pairResult_lanes hi hm hu, fun hm _ hr => exec_pairResult_uniform hi hm hu hr⟩,
    fun _ _ _ _ hi hu => exec_immResult hi hu,
    fun _ _ hu => ⟨exec_movi_v hu, exec_movi_discard hu, exec_movi_s hu⟩⟩

/-! ### Compares and predicate logic (R102, R106, R107, R123) -/

theorem ltS_eq_slt (a b : Word) : ltS a b = a.slt b := BitVec.slt_eq_decide.symm
theorem leS_eq_sle (a b : Word) : leS a b = a.sle b := BitVec.sle_eq_decide.symm

/-- What a compare or predicate logic leaves of a lane: the predicate it writes, and the move past. -/
def predLane (s : State) (r : LaneRef) : Option (Nat × Bool) → Lane
  | some (k, b) => ((s.lane r).putPred k b).passed s
  | none => s.lane r

section
variable {i : Instr} {s : State}

/-- An R-form compare by a function that says the same of its operands. -/
theorem cmpR_lanes {f : RForm} {g op : Word → Word → Bool} (hu : Undisturbed i 0 false s) (hc : i.check = checkCompare f)
    (h : ∀ a b, g a b = op a b) :
    cmpR i f g s = .next (s.withLanes s.present (fun r =>
      ((s.lane r).putPred f.d.toNat (op (s.reg r f.a.toNat)
        (if f.m = 2 then s.reg r (128 + f.b.toNat) else s.reg r f.b.toNat))).passed s)) := by
  by_cases hp : s.present = []
  · rw [hp, State.withLanes_nil]
    exact runAll_of_present_nil hu hp rfl
  · obtain ⟨r, hr⟩ := List.exists_mem_of_ne_nil _ hp
    obtain ⟨hm, hb⟩ := named_of_checkCompare (hc ▸ hu.check_none_of_present hr)
    rw [cmpR_next hu g hm]
    simp only [State.reg_rBReg hm hb, h]

/-- An I-form compare by a function that says the same of its operands. -/
theorem cmpI_of_eq {f : IForm} {imm : Word} {g : Word → Word → Bool} {op : Word → Bool} (hu : Undisturbed i 0 false s)
    (h : ∀ a, g a imm = op a) :
    cmpI i f imm g s = .next (s.withLanes s.present (fun r => ((s.lane r).putPred f.d.toNat (op (s.reg r f.a.toNat))).passed s)) := by
  rw [cmpI_next hu]
  simp only [h]

/-- Compares and predicate logic write one predicate in every present lane. -/
theorem exec_predResult (hi : ∀ r, (predResult s r i).isSome) (hu : Undisturbed i 0 false s) :
    exec i s = .next (s.withLanes s.present (fun r => predLane s r (predResult s r i))) := by
  cases i with
  | cmpeq f => exact (cmpR_lanes hu rfl fun _ _ => rfl : execCmpeq f s = _)
  | cmpne f => exact (cmpR_lanes hu rfl fun _ _ => rfl : execCmpne f s = _)
  | cmplt f => exact (cmpR_lanes hu rfl ltS_eq_slt : execCmplt f s = _)
  | cmple f => exact (cmpR_lanes hu rfl leS_eq_sle : execCmple f s = _)
  | cmpltu f => exact (cmpR_lanes hu rfl fun _ _ => rfl : execCmpltu f s = _)
  | cmpleu f => exact (cmpR_lanes hu rfl fun _ _ => rfl : execCmpleu f s = _)
  | fcmpeq f => exact (cmpR_lanes hu rfl fun _ _ => rfl : execFcmpeq f s = _)
  | fcmpne f => exact (cmpR_lanes hu rfl fun _ _ => rfl : execFcmpne f s = _)
  | fcmplt f => exact (cmpR_lanes hu rfl fun _ _ => rfl : execFcmplt f s = _)
  | fcmple f => exact (cmpR_lanes hu rfl fun _ _ => rfl : execFcmple f s = _)
  | fcmpun f => exact (cmpR_lanes hu rfl fun _ _ => rfl : execFcmpun f s = _)
  | cmpeqi f => exact (cmpI_of_eq hu fun _ => rfl : execCmpeqi f s = _)
  | cmpnei f => exact (cmpI_of_eq hu fun _ => rfl : execCmpnei f s = _)
  | cmplti f => exact (cmpI_of_eq hu fun a => ltS_eq_slt a _ : execCmplti f s = _)
  | cmplei f => exact (cmpI_of_eq hu fun a => leS_eq_sle a _ : execCmplei f s = _)
  | cmpltui f => exact (cmpI_of_eq hu fun _ => rfl : execCmpltui f s = _)
  | pand f => exact (predR_next hu _ : execPand f s = _)
  | por f => exact (predR_next hu _ : execPor f s = _)
  | pxor f => exact (predR_next hu _ : execPxor f s = _)
  | pnot f => exact (predR_next hu _ : execPnot f s = _)
  | _ => cases hi ⟨0, 0, 0⟩
end

/-! ### SEL, MOV, P2V and V2P (R104, R105, R108) -/

/-- Lanes replaced again, among others, are as replaced last. -/
theorem State.withLanes_sublist (s : State) {qs rs : List LaneRef} (hs : qs.Sublist rs) (hn : rs.Nodup) (g h : LaneRef → Lane) :
    (s.withLanes qs g).withLanes rs h = s.withLanes rs h := by
  induction hs generalizing s with
  | slnil => rfl
  | @cons qs rs r hs ih =>
    obtain ⟨hr, hn⟩ := List.nodup_cons.mp hn
    rw [State.withLanes_cons, State.withLanes_cons, ← State.withLanes_modLane _ _ _ _ _ fun hq => hr (hs.subset hq), ih _ hn]
  | @cons_cons qs rs r hs ih =>
    obtain ⟨hr, hn⟩ := List.nodup_cons.mp hn
    rw [State.withLanes_cons, State.withLanes_cons, State.withLanes_cons,
      ← State.withLanes_modLane _ _ _ _ _ fun hq => hr (hs.subset hq), State.modLane_modLane, ih _ hn]

/-- A fold in which some lanes change by what they and their s-registers read replaces those lanes. -/
theorem State.foldl_lanewise_if (s : State) {rs : List LaneRef} (hn : rs.Nodup) (c : State → LaneRef → Bool)
    (F : State → LaneRef → Lane → Lane)
    (hF : ∀ (u : State) (r : LaneRef), u.lane r = s.lane r → (u.group r).s = (s.group r).s → c u r = c s r ∧ F u r = F s r) :
    rs.foldl (fun u r => if c u r then u.modLane r (F u r) else u) s
      = s.withLanes (rs.filter (c s)) (fun r => F s r (s.lane r)) := by
  have key : ∀ (u : State), (∀ q ∈ rs, u.lane q = s.lane q ∧ (u.group q).s = (s.group q).s) →
      rs.foldl (fun u r => if c u r then u.modLane r (F u r) else u) u
        = u.withLanes (rs.filter (c s)) (fun r => F s r (s.lane r)) := by
    induction rs with
    | nil => intro u _; rfl
    | cons r rs ih =>
      intro u hu
      obtain ⟨hr, hn⟩ := List.nodup_cons.mp hn
      obtain ⟨⟨hl, hg⟩, hu⟩ := List.forall_mem_cons.mp hu
      obtain ⟨hc, hf⟩ := hF u r hl hg
      have he : u.modLane r (fun _ => F s r (s.lane r)) = u.modLane r (F s r) := u.modLane_eq_of r (by rw [hl])
      rw [List.foldl_cons, hc, hf]
      cases h : c s r with
      | false =>
        rw [List.filter_cons_of_neg (by simp [h])]
        exact ih hn u hu
      | true =>
        rw [List.filter_cons_of_pos h, State.withLanes_cons, he, if_pos rfl]
        refine ih hn _ fun q hq => ?_
        have hne : r ≠ q := fun e => hr (e ▸ hq)
        rw [State.lane_modLane_other _ _ hne, State.group_modLane_s]
        exact hu q hq
  exact key s fun _ _ => ⟨rfl, rfl⟩

/-- The same, followed by moving the lanes past the instruction. -/
theorem State.lanewise_if_advance (s : State) {rs : List LaneRef} (hn : rs.Nodup) (c : State → LaneRef → Bool)
    (F : State → LaneRef → Lane → Lane)
    (hF : ∀ (u : State) (r : LaneRef), u.lane r = s.lane r → (u.group r).s = (s.group r).s → c u r = c s r ∧ F u r = F s r) :
    (rs.foldl (fun u r => if c u r then u.modLane r (F u r) else u) s).advanceAll rs
      = s.withLanes rs (fun r => (if c s r then F s r (s.lane r) else s.lane r).passed s) := by
  rw [State.foldl_lanewise_if s hn c F hF, State.advanceAll_eq _ hn, State.withLanes_sublist _ List.filter_sublist hn]
  refine State.withLanes_congr_listed _ fun r hr ht => ?_
  have hl : (s.withLanes (rs.filter (c s)) (fun r => F s r (s.lane r))).lane r = if c s r then F s r (s.lane r) else s.lane r := by
    by_cases h : c s r
    · rw [State.lane_withLanes (hn.filter _) _ (List.mem_filter.mpr ⟨hr, h⟩) ht, if_pos h]
    · rw [State.lane_withLanes_other _ _ fun hq => h (List.mem_filter.mp hq).2, if_neg h]
  rw [hl]
  simp only [Lane.passed, State.withLanes_cur, State.withLanes_cycle]

section
variable {f : RForm} {s : State}

/-- SEL writes b where its predicate holds. -/
theorem exec_sel (hu : Undisturbed (.sel f) 0 false s) :
    exec (.sel f) s = .next (s.withLanes s.present (fun r =>
      (if (s.lane r).pred f.a.toNat = (f.m != 1) then
        (s.lane r).put f.d.toNat (if f.m = 2 then s.reg r (128 + f.b.toNat) else s.reg r f.b.toNat) else s.lane r).passed s)) := by
  refine (runAll_undisturbed hu _).trans ?_
  simp only [State.setReg_v _ _ f.d.isLt]
  congr 1
  refine (s.lanewise_if_advance hu.present_nodup (fun u r => (u.lane r).pred f.a.toNat != (f.m == 1))
    (fun u r y => y.put f.d.toNat (u.rB r f)) fun u r h1 h2 => ?_).trans (s.withLanes_congr fun r hr => ?_)
  · simp only [h1, State.rB, State.reg_congr h1 h2, and_self]
  · obtain ⟨hm, hb⟩ := named_of_checkSel (hu.check_none_of_present hr)
    have hc : ((s.lane r).pred f.a.toNat != (f.m == 1)) = true ↔ (s.lane r).pred f.a.toNat = (f.m != 1) := by
      rw [bne_iff_ne, bne, Bool.eq_not]
    simp only [State.rB, State.reg_rBReg hm hb, hc]

/-- MOV into a v-register. -/
theorem exec_mov_v (hu : Undisturbed (.mov f) 0 false s) (hm : f.m = 0 ∨ f.m = 2) :
    exec (.mov f) s = .next (s.withLanes s.present (fun r =>
      ((s.lane r).put f.d.toNat (if f.m = 2 then s.reg r (128 + f.b.toNat) else s.reg r f.b.toNat)).passed s)) := by
  have h1 : ¬ (f.m = 1 ∨ f.m = 3) := by rcases hm with h | h <;> simp [h]
  have h3 : f.m ≠ 3 := fun h => h1 (.inr h)
  refine (runAll_undisturbed hu _).trans ?_
  simp only [if_neg h1, Nat.zero_add, State.setReg_v _ _ f.d.isLt]
  congr 1
  refine (s.lanewise_quiet hu.present_nodup (fun u r y => y.put f.d.toNat (u.rB r f)) fun u r h1 h2 => ?_).trans
    (s.withLanes_congr fun r hr => ?_)
  · simp only [State.rB, State.reg_congr h1 h2]
  · rw [State.rB, State.reg_rBReg h3 (bNamed_of_checkMov (hu.check_none_of_present hr))]

/-- MOV into an s-register, from the last present lane (R16). -/
theorem exec_mov_s (hu : Undisturbed (.mov f) 0 false s) (hm : f.m = 1 ∨ f.m = 3) {r : LaneRef} (hr : s.present.getLast? = some r) :
    exec (.mov f) s = .next ((s.setReg r (128 + f.d.toNat)
      (if f.m = 3 then s.reg r (128 + f.b.toNat) else s.reg r f.b.toNat)).withLanes s.present (fun q => (s.lane q).passed s)) := by
  have hb := bNamed_of_checkMov (hu.check_none_of_present (List.mem_of_getLast? hr))
  have hB : s.rB r f = if f.m = 3 then s.reg r (128 + f.b.toNat) else s.reg r f.b.toNat := by
    rcases hm with h | h
    · simp [State.rB, rBReg, h]
    · rw [State.rB, rBReg_of_three h hb, if_pos h]
  refine (runAll_undisturbed hu _).trans ?_
  simp only [if_pos hm, hr, Option.toList_some, List.foldl_cons, List.foldl_nil, hB,
    (s.setReg_keepsLanes r (Nat.le_add_right 128 _) _).advanceAll hu.present_nodup]

/-- A number is the sum of its bits. -/
theorem sum_testBit (x n : Nat) : ((List.range n).map (fun k => if x.testBit k then 2 ^ k else 0)).sum = x % 2 ^ n := by
  induction n with
  | zero => simp [Nat.mod_one]
  | succ n ih =>
    rw [List.range_succ, List.map_append, List.sum_append, ih, Nat.mod_pow_succ]
    rcases Nat.mod_two_eq_zero_or_one (x / 2 ^ n) with h | h <;> simp [Nat.testBit_eq_decide_div_mod_eq, h]

/-- The predicates as a number (R108). -/
theorem predByte_eq_sum (y : Lane) :
    y.predByte = BitVec.ofNat 32 (((List.range 8).map (fun k => if y.pred k then 2 ^ k else 0)).sum) := by
  have hb : 1 ||| y.p.toNat < 2 ^ 8 := Nat.or_lt_two_pow (by decide) y.p.isLt
  have hbit : ∀ k, (1 ||| y.p.toNat).testBit k = y.pred k := fun k => by
    rw [Nat.testBit_or, Lane.pred, BitVec.getLsbD]
    cases k <;> simp [Nat.testBit_succ]
  rw [Lane.predByte, Nat.lor_eq, ← Nat.mod_eq_of_lt hb, ← sum_testBit]
  simp only [hbit]

/-- P2V writes the predicates as a number. -/
theorem exec_p2v (hu : Undisturbed (.p2v f) 0 false s) :
    exec (.p2v f) s = .next (s.withLanes s.present (fun r => ((s.lane r).put f.d.toNat (s.lane r).predByte).passed s)) := by
  refine (runAll_undisturbed hu _).trans ?_
  simp only [State.setReg_v _ _ f.d.isLt]
  congr 1
  exact s.lanewise_quiet hu.present_nodup (fun u r y => y.put f.d.toNat (u.lane r).predByte) fun u r h1 _ => by rw [h1]

/-- A lane with predicates written in turn. -/
def Lane.putPreds (y : Lane) (ps : List (Nat × Bool)) : Lane := ps.foldl (fun y p => y.putPred p.1 p.2) y

/-- Writing predicates, one at least, changes their lane. -/
theorem State.setPreds_cons (s : State) (r : LaneRef) (p : Nat × Bool) (ps : List (Nat × Bool)) :
    s.setPreds r (p :: ps) = s.modLane r (fun y => y.putPreds (p :: ps)) := by
  induction ps generalizing s p with
  | nil => rfl
  | cons q ps ih =>
    change (s.modLane r (fun y => y.putPred p.1 p.2)).setPreds r (q :: ps) = _
    rw [ih, State.modLane_modLane]
    rfl

/-- Predicates written change nothing else of a lane but their parity. -/
theorem Lane.putPreds_frame (y : Lane) (ps : List (Nat × Bool)) : ∃ p bad, y.putPreds ps = { y with p := p, badParity := bad } := by
  induction ps generalizing y with
  | nil => exact ⟨y.p, y.badParity, rfl⟩
  | cons q ps ih =>
    obtain ⟨p, bad, h⟩ := ih (y.putPred q.1 q.2)
    refine ⟨p, bad, h.trans ?_⟩
    rw [Lane.putPred, Lane.setPred]
    split <;> rfl

/-- A predicate read after one is written. -/
theorem Lane.pred_putPred (y : Lane) {k : Nat} (h0 : 0 < k) (h8 : k < 8) (b : Bool) {m : Nat} (hm : m < 8) :
    (y.putPred k b).pred m = if k = m then b else y.pred m := by
  have hbit : (BitVec.ofNat 8 (2 ^ k)).getLsbD m = decide (k = m) := by
    rw [BitVec.getLsbD_ofNat, Nat.testBit_two_pow, decide_eq_true hm, Bool.true_and]
  have hp : (y.putPred k b).p = if b then y.p ||| BitVec.ofNat 8 (2 ^ k) else y.p &&& ~~~ BitVec.ofNat 8 (2 ^ k) := by
    rw [Lane.putPred, Lane.setPred, if_neg (by omega)]
  rw [Lane.pred, Lane.pred, hp]
  by_cases h : k = m
  · subst h
    have : k ≠ 0 := by omega
    cases b <;> simp_all
  · cases b <;> simp_all

/-- A predicate read after several are written, each with its value of one function. -/
theorem Lane.pred_putPreds (y : Lane) (t : Nat → Bool) {ps : List (Nat × Bool)} (hs : ∀ p ∈ ps, (0 < p.1 ∧ p.1 < 8) ∧ p.2 = t p.1)
    {k : Nat} (hk : k < 8) : (y.putPreds ps).pred k = if k ∈ ps.map Prod.fst then t k else y.pred k := by
  induction ps generalizing y with
  | nil => rfl
  | cons p ps ih =>
    obtain ⟨⟨⟨h0, h8⟩, ht⟩, hs⟩ := List.forall_mem_cons.mp hs
    rw [Lane.putPreds, List.foldl_cons, ← Lane.putPreds, ih _ hs, Lane.pred_putPred y h0 h8 _ hk, ht]
    by_cases h : p.1 = k
    · simp [h]
    · simp [h, Ne.symm h]

/-- The predicates V2P sets (R108). -/
theorem Lane.pred_putPreds_predsOf (y : Lane) (w : Word) {k : Nat} (h0 : 0 < k) (h8 : k < 8) :
    (y.putPreds (predsOf w)).pred k = w.getLsbD k := by
  rw [Lane.pred_putPreds y w.getLsbD _ h8, if_pos]
  · exact List.mem_map.mpr ⟨(k, _), List.mem_map.mpr ⟨k - 1, List.mem_range.mpr (by omega), by rw [Nat.sub_add_cancel h0]⟩, rfl⟩
  · intro p hp
    obtain ⟨j, hj, rfl⟩ := List.mem_map.mp hp
    exact ⟨⟨Nat.succ_pos j, Nat.succ_lt_succ (List.mem_range.mp hj)⟩, rfl⟩

/-- V2P writes predicates in every present lane. -/
theorem exec_v2p (hu : Undisturbed (.v2p f) 0 false s) :
    exec (.v2p f) s = .next (s.withLanes s.present (fun r => ((s.lane r).putPreds (predsOf (s.reg r f.a.toNat))).passed s)) := by
  refine (runAll_undisturbed hu _).trans ?_
  simp only [predsOf, List.range_succ_eq_map, List.map_cons, State.setPreds_cons]
  congr 1
  exact s.lanewise_quiet hu.present_nodup (fun u r y => y.putPreds (predsOf (u.reg r f.a.toNat)))
    fun u r h1 h2 => by simp only [State.reg_congr h1 h2]

/-- Moving past leaves predicates. -/
theorem Lane.pred_passed (y : Lane) (s : State) (k : Nat) : (y.passed s).pred k = y.pred k := rfl

/-- What V2P leaves as it was, and the predicates it sets. -/
theorem exec_v2p_frame (hu : Undisturbed (.v2p f) 0 false s) :
    ∃ t, exec (.v2p f) s = .next t ∧ SameButGroups s t ∧ (∀ q, q ∉ s.present → t.lane q = s.lane q)
      ∧ ∀ r ∈ s.present, (Tab.find s.teams r.team).isSome →
        t.lane r = { (s.lane r).passed s with p := (t.lane r).p, badParity := (t.lane r).badParity }
          ∧ ∀ k, 0 < k → k < 8 → (t.lane r).pred k = (s.reg r f.a.toNat).getLsbD k := by
  refine ⟨_, exec_v2p hu, ⟨State.withLanes_frame .., State.team_withLanes s _ _⟩, fun q hq => s.lane_withLanes_other _ hq, ?_⟩
  intro r hr ht
  obtain ⟨p, bad, h⟩ := (s.lane r).putPreds_frame (predsOf (s.reg r f.a.toNat))
  rw [State.lane_withLanes hu.present_nodup _ hr ht]
  refine ⟨?_, fun k h0 h8 => ?_⟩
  · rw [h]
    rfl
  · rw [Lane.pred_passed, Lane.pred_putPreds_predsOf _ _ h0 h8]
end

/-- Settles O14: each form writes its predicate or its register lane by lane, or, into an s-register, once. -/
theorem predicatesAndMoves : Obligations.PredicatesAndMoves :=
  ⟨fun _ _ hi hu => exec_predResult hi hu, fun f _ =>
    ⟨exec_sel, exec_mov_v, fun hu hm _ hr => exec_mov_s hu hm hr,
      fun hu => by simpa only [predByte_eq_sum] using exec_p2v hu, exec_v2p_frame⟩⟩

end Sys2Proof.Machine

/-! PROOFS. Branches, calls and returns (R140, R141). -/

namespace Sys2Proof.Machine

open Sys2Proof

/-! ### A fold in which each lane changes by what it reads -/

/-- What a lane's own change is computed from reads the same in two states: the issue, the cycle, the lane and its group's s-registers. -/
structure SameInputs (s u : State) (r : LaneRef) : Prop where
  cur : u.cur = s.cur
  cycle : u.cycle = s.cycle
  lane : u.lane r = s.lane r
  sregs : (u.group r).s = (s.group r).s

section
variable {s u : State} {r q : LaneRef}

/-- The register pairs of the lane are among them. -/
theorem SameInputs.reg64 (h : SameInputs s u r) (n : Nat) : u.reg64 r n = s.reg64 r n := State.reg64_congr h.lane h.sregs n

/-- Sending a lane somewhere reads of the state no more than the cycle. -/
theorem SameInputs.sentTo (h : SameInputs s u r) (y : Lane) (pc : Nat) : y.sentTo u pc = y.sentTo s pc := by
  rw [Lane.sentTo, h.cycle]
  rfl

/-- A change of another lane leaves a lane's inputs. -/
theorem SameInputs.modLane_other (h : SameInputs s u r) (hne : q ≠ r) (f : Lane → Lane) : SameInputs s (u.modLane q f) r where
  cur := (State.modLane_cur ..).trans h.cur
  cycle := (State.modLane_cycle ..).trans h.cycle
  lane := (State.lane_modLane_other u f hne).trans h.lane
  sregs := (State.group_modLane_s ..).trans h.sregs

/-- The move past of the lanes whose guard is false leaves the inputs of an active lane. -/
theorem SameInputs.inactivePassed {p : BitVec 3} {neg : Bool} (hr : r ∈ s.active p neg) : SameInputs s (s.inactivePassed p neg) r where
  cur := State.withLanes_cur ..
  cycle := State.withLanes_cycle ..
  lane := State.lane_withLanes_other _ _ (State.not_mem_inactive hr)
  sregs := by rw [State.inactivePassed, State.group_withLanes]

/-- A fold of changes that depend on no more than these inputs replaces the lanes, each by what it becomes at first. -/
theorem State.foldl_lanewise_inputs {rs : List LaneRef} (hn : rs.Nodup) {F : State → LaneRef → Lane → Lane}
    (hF : ∀ (u : State) (r : LaneRef), SameInputs s u r → F u r = F s r) (hu : ∀ q ∈ rs, SameInputs s u q) :
    rs.foldl (fun u r => u.modLane r (F u r)) u = u.withLanes rs (fun r => F s r (s.lane r)) := by
  induction rs generalizing u with
  | nil => rfl
  | cons r rs ih =>
    obtain ⟨hr, hn⟩ := List.nodup_cons.mp hn
    obtain ⟨hur, hu⟩ := List.forall_mem_cons.mp hu
    have he : u.modLane r (F u r) = u.modLane r (fun _ => F s r (s.lane r)) :=
      u.modLane_eq_of r (by rw [hF u r hur, hur.lane])
    rw [List.foldl_cons, he, State.withLanes_cons]
    refine ih hn fun q hq => ?_
    have hne : r ≠ q := fun e => hr (e ▸ hq)
    exact (hu q hq).modLane_other hne _
end

section
variable {i : Instr} {s : State} {F : State → LaneRef → Lane → Lane}

/-- A guarded instruction that changes each active lane by what that lane reads. -/
theorem runGuarded_foldl_lanewise {p : BitVec 3} {neg : Bool} (hu : Undisturbed i p neg s)
    (hF : ∀ (u : State) (r : LaneRef), SameInputs s u r → F u r = F s r) :
    runGuarded i p neg (fun u rs => rs.foldl (fun u r => u.modLane r (F u r)) u) s = .next (s.withLanes s.present (fun r =>
      if s.guard p neg r then F s r (s.lane r) else (s.lane r).passed s)) := by
  rw [runGuarded_undisturbed hu, State.foldl_lanewise_inputs (State.active_nodup hu.present_nodup) hF fun _ => SameInputs.inactivePassed]
  congr 1
  exact s.withLanes_partition hu.present_nodup (s.guard p neg) _ _

/-- The same without a guard. -/
theorem runAll_foldl_lanewise (hu : Undisturbed i 0 false s)
    (hF : ∀ (u : State) (r : LaneRef), SameInputs s u r → F u r = F s r) :
    runAll i (fun u rs => rs.foldl (fun u r => u.modLane r (F u r)) u) s
      = .next (s.withLanes s.present (fun r => F s r (s.lane r))) :=
  (runGuarded_foldl_lanewise hu hF).trans (congrArg _ (s.withLanes_congr fun _ _ => if_pos rfl))
end

/-! ### Targets and links -/

/-- A lane with a pair of v-registers written. -/
def Lane.putPair (y : Lane) (n : Nat) (v : DWord) : Lane :=
  (y.put n (v.extractLsb' 0 32)).put (n + 1) (v.extractLsb' 32 32)

/-- A pair written into v-registers, and the jump that follows, are one change of the lane. -/
theorem State.jump_setRegs_pair (u : State) (r : LaneRef) {n : Nat} (hn : n + 1 < 128) (v : DWord) (pc : Nat) :
    (u.setRegs r (pairWrites n v.toNat)).jump r pc = u.modLane r (fun y => (y.putPair n v).sentTo u pc) := by
  have h0 : n < 128 := Nat.lt_of_succ_lt hn
  rw [pairWrites, if_pos (Nat.lt_trans h0 (by decide)), ofNat_toNat_low, ofNat_toNat_high]
  simp only [State.setRegs, List.foldl_cons, List.foldl_nil, State.setReg_v _ _ h0, State.setReg_v _ _ hn, State.jump,
    State.modLane_modLane, State.modLane_cycle]
  rfl

/-- The fields of an indirect branch: a pair of v-registers or s-registers that there is, and an even link (R67, R141). -/
theorem named_of_checkIndirect {link : Bool} {f : RForm} (h : checkIndirect link f = none) :
    f.m ≠ 3 ∧ BNamed f ∧ f.d.toNat % 2 = 0 := by
  simp only [checkIndirect, firstFailure_eq_none, List.forall_mem_cons, Bool.and_eq_false_imp, Bool.or_eq_false_iff, beq_iff_eq,
    beq_eq_false_iff_ne, bne_eq_false_iff_eq, decide_eq_false_iff_not] at h
  obtain ⟨⟨-, h3⟩, -, h2, ⟨-, hd⟩, -⟩ := h
  exact ⟨h3, bNamed_of_ne_three h3 h2, hd⟩

/-! ### The branches -/

section
variable {f : BForm} {s : State}

/-- BRA sends its active lanes to the target. -/
theorem exec_bra (hu : Undisturbed (.bra f) f.p f.n s) :
    exec (.bra f) s = .next (s.withLanes s.present (fun r =>
      if s.guard f.p f.n r then (s.lane r).sentTo s (branchTarget s.cur.pc f.off) else (s.lane r).passed s)) :=
  runGuarded_foldl_lanewise (F := fun u _ y => y.sentTo u (branchTarget u.cur.pc f.off)) hu fun u r h => by
    simp only [h.cur, h.sentTo]

/-- CALL does so with the link in v6:v7. -/
theorem exec_call (hu : Undisturbed (.call f) f.p f.n s) :
    exec (.call f) s = .next (s.withLanes s.present (fun r =>
      if s.guard f.p f.n r then ((s.lane r).putPair 6 (s.cur.pc + 4)).sentTo s (branchTarget s.cur.pc f.off)
      else (s.lane r).passed s)) := by
  change execCall f s = _
  simp only [execCall, State.jump_setRegs_pair _ _ (show 6 + 1 < 128 by decide)]
  exact runGuarded_foldl_lanewise (F := fun u _ y => (y.putPair 6 (u.cur.pc + 4)).sentTo u (branchTarget u.cur.pc f.off)) hu
    fun u r h => by simp only [h.cur, h.sentTo]
end

/-- The target of an indirect branch in a lane: the pair b (R141). -/
def indirectTarget (s : State) (f : RForm) (r : LaneRef) : DWord :=
  if f.m = 2 then s.reg r (128 + f.b.toNat + 1) ++ s.reg r (128 + f.b.toNat) else s.reg r (f.b.toNat + 1) ++ s.reg r f.b.toNat

section
variable {i : Instr} {f : RForm} {s : State}

/-- The pair b of a well-formed indirect branch holds the target. -/
theorem State.reg64_indirect {link : Bool} (hu : Undisturbed i 0 false s) (hc : i.check = checkIndirect link f) {r : LaneRef}
    (hr : r ∈ s.present) : s.reg64 r (rBReg f) = (indirectTarget s f r).toNat := by
  obtain ⟨hm, hb, -⟩ := named_of_checkIndirect (hc ▸ hu.check_none_of_present hr)
  exact State.reg64_rBReg hm hb

/-- BRX and RET, which have no link, send every present lane to its target. -/
theorem runAll_jump (hu : Undisturbed i 0 false s) (hc : i.check = checkIndirect false f) :
    runAll i (fun u rs => rs.foldl (fun u r => u.jump r (u.reg64 r (rBReg f))) u) s
      = .next (s.withLanes s.present (fun r => (s.lane r).sentTo s (indirectTarget s f r).toNat)) := by
  refine (runAll_foldl_lanewise (F := fun u r y => y.sentTo u (u.reg64 r (rBReg f))) hu fun u r h => ?_).trans ?_
  · simp only [h.reg64, h.sentTo]
  · exact congrArg _ (s.withLanes_congr fun r hr => by rw [State.reg64_indirect hu hc hr])

/-- CALLX does so with the link in the pair d. -/
theorem exec_callx (hu : Undisturbed (.callx f) 0 false s) :
    exec (.callx f) s = .next (s.withLanes s.present (fun r =>
      ((s.lane r).putPair f.d.toNat (s.cur.pc + 4)).sentTo s (indirectTarget s f r).toNat)) := by
  change execCallx f s = _
  by_cases hp : s.present = []
  · rw [hp, State.withLanes_nil]
    exact runAll_of_present_nil hu hp rfl
  · obtain ⟨r, hr⟩ := List.exists_mem_of_ne_nil _ hp
    obtain ⟨-, -, he⟩ := named_of_checkIndirect (link := true) (hu.check_none_of_present hr)
    have hd : f.d.toNat + 1 < 128 := by have := f.d.isLt; omega
    simp only [execCallx, State.jump_setRegs_pair _ _ hd]
    refine (runAll_foldl_lanewise (F := fun u r y => (y.putPair f.d.toNat (u.cur.pc + 4)).sentTo u (u.reg64 r (rBReg f))) hu
      fun u r h => ?_).trans ?_
    · simp only [h.cur, h.reg64, h.sentTo]
    · exact congrArg _ (s.withLanes_congr fun r hr => by rw [State.reg64_indirect hu rfl hr])
end

/-- Settles O20: each form changes its lanes one by one, by the issue, the lane and its group's s-registers alone. -/
theorem branches : Obligations.Branches :=
  ⟨fun _ _ => exec_bra, fun _ _ => exec_call, fun _ _ => ⟨fun hu => runAll_jump hu rfl, fun hu => runAll_jump hu rfl, exec_callx⟩⟩

end Sys2Proof.Machine

/-! PROOFS. A fault of a lane: parking, the missing handler and the fault in handler (R299, R303, R304, R307, R308). -/

namespace Sys2Proof.Machine

open Sys2Proof

/-! ### What a fault leaves as it was -/

/-- A fault of lane `r` keeps the time, physical memory, what the teams and groups hold besides lanes, and the other lanes. -/
structure KeptByFault (s u : State) (r : LaneRef) : Prop where
  cycle : u.cycle = s.cycle
  now : u.now = s.now
  mem : u.mem = s.mem
  team : ∀ k, u.team k = { s.team k with groups := (u.team k).groups }
  regs : SameGroupRegs s u
  others : ∀ q, q ≠ r → u.lane q = s.lane q

section
variable {s u : State} {r : LaneRef}

/-- A change of the faulting lane. -/
theorem KeptByFault.modLane (h : KeptByFault s u r) (f : Lane → Lane) : KeptByFault s (u.modLane r f) r where
  cycle := (State.modLane_cycle ..).trans h.cycle
  now := (State.modLane_now ..).trans h.now
  mem := (State.modLane_mem ..).trans h.mem
  team k := by rw [State.team_modLane, h.team k]
  regs q := by rw [State.group_modLane, h.regs q]
  others q hq := (State.lane_modLane_other u f hq.symm).trans (h.others q hq)

/-- A stopping event, which changes the grid's stop record alone. -/
theorem KeptByFault.stopEvent (h : KeptByFault s u r) (i : FaultInfo) (flags : Nat) : KeptByFault s (u.stopEvent r i flags) r :=
  ⟨h.cycle, h.now, h.mem, h.team, h.regs, h.others⟩

/-- Both memories are among it. -/
theorem KeptByFault.sameMemory (h : KeptByFault s u r) : SameMemory s u :=
  ⟨fun a => by rw [h.mem], fun k a => by rw [h.team k]⟩

/-- The team's grid, where the table of grids is kept too. -/
theorem KeptByFault.gridOf (h : KeptByFault s u r) (hg : u.grids = s.grids) (k : Nat) : u.gridOf k = s.gridOf k := by
  have hgrid : (u.team k).grid = (s.team k).grid := by rw [h.team k]
  simp only [State.gridOf, State.grid, hg, hgrid]
end

/-! ### The stop record (R307, R308) -/

/-- The record of a stopping event of lane `r`, as the `n`-th event of its grid. -/
def State.stopInfo (s : State) (r : LaneRef) (i : FaultInfo) (flags n : Nat) : StopInfo :=
  { cause := i.detail * 2 ^ 16 + flags + i.code, place := (s.team r.team).die * 256 + (s.team r.team).core,
    teamid := (s.team r.team).teamid, pc := i.fpc, addr := i.addr, time := s.now / 100, where_ := r.g * 256 + r.l, count := n,
    cycle := s.cycle, written := false }

/-- The grid `g` with its next stopping event, that of lane `r` in `s`: the first is recorded, and a later one is counted and takes the
record over where it is of the same cycle and its lane comes earlier in lane order. -/
def State.gridStopped (s : State) (r : LaneRef) (i : FaultInfo) (flags : Nat) (g : Grid) : Grid :=
  { g with stop := some (match g.stop with
    | none => s.stopInfo r i flags 1
    | some st =>
      if st.cycle = s.cycle ∧ st.written = false ∧ s.laneOrder r < (st.teamid * 32 + st.where_ / 256) * 32 + st.where_ % 256
      then s.stopInfo r i flags (st.count + 1) else { st with count := st.count + 1 }) }

section
variable {s u : State} {r : LaneRef} {i : FaultInfo} {flags : Nat} {g : Grid}

theorem State.gridStopped_of_none (h : g.stop = none) : s.gridStopped r i flags g = { g with stop := some (s.stopInfo r i flags 1) } := by
  rw [State.gridStopped, h]

theorem State.gridStopped_of_some {st : StopInfo} (h : g.stop = some st) : s.gridStopped r i flags g = { g with stop := some (
    if st.cycle = s.cycle ∧ st.written = false ∧ s.laneOrder r < (st.teamid * 32 + st.where_ / 256) * 32 + st.where_ % 256
    then s.stopInfo r i flags (st.count + 1) else { st with count := st.count + 1 }) } := by
  rw [State.gridStopped, h]

/-- A stopping event puts that record into its team's grid. -/
theorem State.gridOf_stopEvent (s : State) (r : LaneRef) (i : FaultInfo) (flags : Nat) :
    (s.stopEvent r i flags).gridOf r.team = s.gridStopped r i flags (s.gridOf r.team) := by
  have hset : (s.stopEvent r i flags).gridOf r.team = _ := Tab.getD_set_same ..
  cases h : (s.gridOf r.team).stop with
  | none =>
    rw [hset, State.gridStopped_of_none h]
    rw [State.gridOf] at h
    simp only [h]
    rfl
  | some st =>
    rw [hset, State.gridStopped_of_some h]
    rw [State.gridOf] at h
    simp only [h, Bool.not_eq_true']
    rfl

/-- Where what a fault keeps is kept, the record is the same. -/
theorem KeptByFault.stopInfo (h : KeptByFault s u r) (n : Nat) : u.stopInfo r i flags n = s.stopInfo r i flags n := by
  rw [State.stopInfo, h.team r.team, h.now, h.cycle]
  rfl

/-- So is the lane's place in lane order. -/
theorem KeptByFault.laneOrder (h : KeptByFault s u r) : u.laneOrder r = s.laneOrder r := by
  rw [State.laneOrder, h.team r.team]
  rfl

/-- So the grid stops alike. -/
theorem KeptByFault.gridStopped (h : KeptByFault s u r) : u.gridStopped r i flags g = s.gridStopped r i flags g := by
  cases hs : g.stop with
  | none => rw [State.gridStopped_of_none hs, State.gridStopped_of_none hs, h.stopInfo]
  | some st => simp only [State.gridStopped_of_some hs, h.stopInfo, h.laneOrder, h.cycle]

/-- A stopping event after steps of the fault that kept the grids: the record is that of the state the fault was found in. -/
theorem KeptByFault.gridOf_stopEvent (h : KeptByFault s u r) (hg : u.grids = s.grids) :
    (u.stopEvent r i flags).gridOf r.team = s.gridStopped r i flags (s.gridOf r.team) := by
  rw [State.gridOf_stopEvent, h.gridStopped, h.gridOf hg]
end

/-! ### The faulting lane -/

/-- The state in which a faulting lane is back in its home group (R157) and its fault is counted (R422). -/
def State.faultHome (s : State) (r : LaneRef) (code : Nat) : State := (s.returnHome r).countFault r.team code

/-- A parked lane with the fault that its handler is to take (R299). -/
def Lane.parkedWith (x : Lane) (i : FaultInfo) : Lane :=
  { x with parked := true, faultCode := i.code, staged := some (i, false), cond := .running, back := none }

section
variable {s : State} {r : LaneRef} (ht : (Tab.find s.teams r.team).isSome) (code addr detail : Nat)
include ht

theorem State.faultHome_kept : KeptByFault s (s.faultHome r code) r := by
  obtain ⟨-, hothers, hframe, hteam, hregs, -⟩ := State.returnHome_spec s ht
  rw [State.faultHome, State.countFault_frame]
  exact ⟨by rw [hframe], by rw [hframe], by rw [hframe], hteam, hregs, hothers⟩

theorem State.faultHome_grids : (s.faultHome r code).grids = s.grids := by
  obtain ⟨-, -, hframe, -⟩ := State.returnHome_spec s ht
  rw [State.faultHome, State.countFault_frame, hframe]

theorem State.lane_faultHome : (s.faultHome r code).lane r = { s.lane r with away := none } := by
  obtain ⟨hlane, -⟩ := State.returnHome_spec s ht
  rw [State.faultHome, State.countFault_frame]
  exact hlane

theorem State.isSome_faultHome : (Tab.find (s.faultHome r code).teams r.team).isSome := by
  obtain ⟨-, -, -, -, -, hsome⟩ := State.returnHome_spec s ht
  rw [State.faultHome, State.countFault_frame]
  exact hsome

/-- Coming home does not enter or leave the handler. -/
theorem State.inHandler_faultHome : ((s.faultHome r code).lane r).inHandler = (s.lane r).inHandler := by
  rw [State.lane_faultHome ht]
  rfl

/-- A fault in handler: DOUBLE (R303). -/
theorem State.raise_of_inHandler (hi : (s.lane r).inHandler = true) : s.raise r code addr detail =
    ((s.faultHome r code).stopEvent r (s.faultHere code detail addr) 256).modLane r
      (fun x => { x with cond := .running, since := s.cycle + 1 }) := by
  have hi' := (State.inHandler_faultHome ht code).trans hi
  rw [← (State.faultHome_kept ht code).cycle]
  exact if_pos hi'

/-- A fault outside a handler: its lane parks, and where there is no handler the context stops (R299, R304). -/
theorem State.raise_of_not_inHandler (hi : (s.lane r).inHandler = false) :
    let parked := (s.faultHome r code).modLane r (·.parkedWith (s.faultHere code detail addr))
    s.raise r code addr detail =
      if (s.gridOf r.team).handler = 0 then parked.stopEvent r (s.faultHere code detail addr) 0 else parked := by
  have hi' := (State.inHandler_faultHome ht code).trans hi
  have hgrid := (State.faultHome_kept ht code).gridOf (State.faultHome_grids ht code) r.team
  rw [← hgrid, ← State.gridOf_modLane _ r _ (·.parkedWith (s.faultHere code detail addr))]
  exact if_neg (Bool.eq_false_iff.mp hi')

/-- Every fault keeps all but its lane, its stop record, the bins and the counters. -/
theorem State.raise_kept : KeptByFault s (s.raise r code addr detail) r := by
  have hhome := State.faultHome_kept ht code
  cases hi : (s.lane r).inHandler with
  | true => rw [State.raise_of_inHandler ht code addr detail hi]; exact (hhome.stopEvent ..).modLane _
  | false =>
    rw [State.raise_of_not_inHandler ht code addr detail hi]
    split
    · exact (hhome.modLane _).stopEvent ..
    · exact hhome.modLane _
end

section
variable {s : State} {r : LaneRef} (ht : (Tab.find s.teams r.team).isSome) (code addr detail : Nat)
include ht

/-- Outside a handler the lane parks with its fault staged. -/
theorem State.lane_raise_of_not_inHandler (hi : (s.lane r).inHandler = false) : (s.raise r code addr detail).lane r =
    { (s.lane r).parkedWith (s.faultHere code detail addr) with away := none } := by
  have hpark : ((s.faultHome r code).modLane r (·.parkedWith (s.faultHere code detail addr))).lane r =
      { (s.lane r).parkedWith (s.faultHere code detail addr) with away := none } := by
    rw [State.lane_modLane_same (State.isSome_faultHome ht code), State.lane_faultHome ht]
    rfl
  rw [State.raise_of_not_inHandler ht code addr detail hi]
  split <;> exact hpark

/-- In handler it stays as it was, at home. -/
theorem State.lane_raise_of_inHandler (hi : (s.lane r).inHandler = true) : (s.raise r code addr detail).lane r =
    { s.lane r with away := none, cond := .running, since := s.cycle + 1 } := by
  have hlane : ((s.faultHome r code).stopEvent r (s.faultHere code detail addr) 256).lane r = { s.lane r with away := none } :=
    State.lane_faultHome ht code
  have hlisted : (Tab.find ((s.faultHome r code).stopEvent r (s.faultHere code detail addr) 256).teams r.team).isSome :=
    State.isSome_faultHome ht code
  rw [State.raise_of_inHandler ht code addr detail hi, State.lane_modLane_same hlisted, hlane]

/-- With a handler no stopping event is recorded. -/
theorem State.grids_raise_of_handler (hi : (s.lane r).inHandler = false) (hh : (s.gridOf r.team).handler ≠ 0) :
    (s.raise r code addr detail).grids = s.grids := by
  rw [State.raise_of_not_inHandler ht code addr detail hi, if_neg hh, State.modLane_grids, State.faultHome_grids ht]

/-- Without one the context stops. -/
theorem State.gridOf_raise_of_no_handler (hi : (s.lane r).inHandler = false) (hh : (s.gridOf r.team).handler = 0) :
    (s.raise r code addr detail).gridOf r.team = s.gridStopped r (s.faultHere code detail addr) 0 (s.gridOf r.team) := by
  rw [State.raise_of_not_inHandler ht code addr detail hi, if_pos hh]
  exact ((State.faultHome_kept ht code).modLane _).gridOf_stopEvent ((State.modLane_grids ..).trans (State.faultHome_grids ht code))

/-- In handler it stops with DOUBLE. -/
theorem State.gridOf_raise_of_inHandler (hi : (s.lane r).inHandler = true) :
    (s.raise r code addr detail).gridOf r.team = s.gridStopped r (s.faultHere code detail addr) 256 (s.gridOf r.team) := by
  rw [State.raise_of_inHandler ht code addr detail hi, State.gridOf_modLane]
  exact (State.faultHome_kept ht code).gridOf_stopEvent (State.faultHome_grids ht code)
end

/-- Settles O11: the lane and the stop record of each of the three cases, over what every fault keeps. -/
theorem faultsTaken : Obligations.FaultsTaken := by
  intro s r code addr detail ht
  have hkept := State.raise_kept ht code addr detail
  refine ⟨hkept.sameMemory, hkept.regs, hkept.others, fun hi => ⟨?_, fun hh => ?_, fun hh => ?_⟩, fun hi => ⟨?_, ?_⟩⟩
  · exact State.lane_raise_of_not_inHandler ht code addr detail hi
  · exact State.grids_raise_of_handler ht code addr detail hi hh
  · have hstop := State.gridOf_raise_of_no_handler ht code addr detail hi hh
    exact ⟨fun h => hstop.trans (State.gridStopped_of_none h), fun _ h => hstop.trans (State.gridStopped_of_some h)⟩
  · exact State.lane_raise_of_inHandler ht code addr detail hi
  · have hstop := State.gridOf_raise_of_inHandler ht code addr detail hi
    exact ⟨fun h => hstop.trans (State.gridStopped_of_none h), fun _ h => hstop.trans (State.gridStopped_of_some h)⟩

end Sys2Proof.Machine
